-- ==== Sys2Proof/Word.lean ====
section
/-! DEFINITION. The word types of the machine. -/

namespace Sys2Proof

/-- A byte of memory. -/
abbrev Byte := BitVec 8
/-- A 64-bit scalar register or control register (R210, R218). -/
abbrev Word := BitVec 64
/-- A 32-bit word: newt registers, line words and accumulator words (R200, R290, R310). -/
abbrev Half := BitVec 32
/-- A vector register of 4,096 bits (R266). -/
abbrev Vec := BitVec 4096
/-- A mask register of 1,024 bits (R267). -/
abbrev Mask := BitVec 1024
/-- An instruction slot (R199). -/
abbrev Slot := BitVec 96

end Sys2Proof
end

