-- ==== Sys2Proof/Syntax.lean ====
section
/-! DEFINITION. The abstract syntax of Zhefel: the codes of the encoding as enumerations, and Instr, one constructor for
each row of the opcode table (spec chapters 07, 09 to 15). -/

namespace Sys2Proof

/-- A scalar register s0 to s63 (R210). -/
abbrev SReg := BitVec 6
/-- A vector register v0 to v31 (R210). -/
abbrev VReg := BitVec 5
/-- A mask register m0 to m7 (R210). -/
abbrev MReg := BitVec 3
/-- A handle register h0 to h15 (R210). -/
abbrev HReg := BitVec 4
/-- An accumulator slice a0 to a3 (R210). -/
abbrev AReg := BitVec 2

/-- The element types and their codes (R150). -/
inductive ElemType where
  | s4 | u4 | s8 | u8 | s16 | u16 | s32 | u32 | e4m3 | bf16 | fp16 | fp32 | s64 | u64
  deriving DecidableEq, Repr

/-- The code of an element type in the type field (R150). -/
def ElemType.code : ElemType → BitVec 4
  | .s4 => 0 | .u4 => 1 | .s8 => 2 | .u8 => 3 | .s16 => 4 | .u16 => 5 | .s32 => 6 | .u32 => 7
  | .e4m3 => 8 | .bf16 => 9 | .fp16 => 10 | .fp32 => 11 | .s64 => 12 | .u64 => 13

/-- The element type of a code; 14 and 15 name none and give S4, which does not encode back (R151). -/
def ElemType.ofCode (c : BitVec 4) : ElemType :=
  match c.toNat with
  | 1 => .u4 | 2 => .s8 | 3 => .u8 | 4 => .s16 | 5 => .u16 | 6 => .s32 | 7 => .u32
  | 8 => .e4m3 | 9 => .bf16 | 10 => .fp16 | 11 => .fp32 | 12 => .s64 | 13 => .u64
  | _ => .s4

/-- A floating-point type (R150). -/
def ElemType.isFloat : ElemType → Bool
  | .e4m3 | .bf16 | .fp16 | .fp32 => true
  | .s4 | .u4 | .s8 | .u8 | .s16 | .u16 | .s32 | .u32 | .s64 | .u64 => false

/-- An integer type (R150). -/
def ElemType.isInt (t : ElemType) : Bool := !t.isFloat

/-- A floating-point type other than E4M3. -/
def ElemType.isWideFloat : ElemType → Bool
  | .bf16 | .fp16 | .fp32 => true
  | .s4 | .u4 | .s8 | .u8 | .s16 | .u16 | .s32 | .u32 | .s64 | .u64 | .e4m3 => false

/-- The rounding field (R158). -/
inductive Rounding where
  | rne | rtz | rup | rdn | rna | dyn
  deriving DecidableEq, Repr

def Rounding.code : Rounding → BitVec 3
  | .rne => 0 | .rtz => 1 | .rup => 2 | .rdn => 3 | .rna => 4 | .dyn => 5

/-- Codes 6 and 7 name no mode and give RNE, which does not encode back (R158). -/
def Rounding.ofCode (c : BitVec 3) : Rounding :=
  match c.toNat with
  | 1 => .rtz | 2 => .rup | 3 => .rdn | 4 => .rna | 5 => .dyn | _ => .rne

/-- The order field (R106). -/
inductive Order where
  | rlx | acq | rel | ar | sc
  deriving DecidableEq, Repr

def Order.code : Order → BitVec 3
  | .rlx => 0 | .acq => 1 | .rel => 2 | .ar => 3 | .sc => 4

/-- Codes 5 to 7 are reserved and give RLX, which does not encode back (R106). -/
def Order.ofCode (c : BitVec 3) : Order :=
  match c.toNat with
  | 1 => .acq | 2 => .rel | 3 => .ar | 4 => .sc | _ => .rlx

/-- The request types (R90). -/
inductive ReqType where
  | own | wt | sinv | unc
  deriving DecidableEq, Repr

def ReqType.code : ReqType → BitVec 2
  | .own => 0 | .wt => 1 | .sinv => 2 | .unc => 3

def ReqType.ofCode (c : BitVec 2) : ReqType :=
  match c.toNat with
  | 1 => .wt | 2 => .sinv | 3 => .unc | _ => .own

/-- The scopes (R104). -/
inductive Scope where
  | thr | core | gang | die | pkg | sys
  deriving DecidableEq, Repr

def Scope.code : Scope → BitVec 3
  | .thr => 0 | .core => 1 | .gang => 2 | .die => 3 | .pkg => 4 | .sys => 5

/-- Codes 6 and 7 are reserved and give THR, which does not encode back (R104). -/
def Scope.ofCode (c : BitVec 3) : Scope :=
  match c.toNat with
  | 1 => .core | 2 => .gang | 3 => .die | 4 => .pkg | 5 => .sys | _ => .thr

/-- The source request type and the scope that an operation of an engine carries (R259). -/
structure Access where
  req : ReqType
  scope : Scope
  deriving DecidableEq, Repr

/-- The comparison predicates of FCMP and VCMP (R223, R276). -/
inductive Pred where
  | eq | lt | le | un | ne
  deriving DecidableEq, Repr

def Pred.code : Pred → BitVec 3
  | .eq => 0 | .lt => 1 | .le => 2 | .un => 3 | .ne => 4

/-- Codes 5 to 7 are reserved and give EQ, which does not encode back (R223). -/
def Pred.ofCode (c : BitVec 3) : Pred :=
  match c.toNat with
  | 1 => .lt | 2 => .le | 3 => .un | 4 => .ne | _ => .eq

/-- The conditions of WAITW (R258). -/
inductive Cond where
  | eq | ne | geu | any
  deriving DecidableEq, Repr

def Cond.code : Cond → BitVec 2
  | .eq => 0 | .ne => 1 | .geu => 2 | .any => 3

def Cond.ofCode (c : BitVec 2) : Cond :=
  match c.toNat with
  | 1 => .ne | 2 => .geu | 3 => .any | _ => .eq

/-- One instruction of Zhefel, or one operation or event of another agent: one constructor for each row of the
opcode table. -/
inductive Instr where
  /-- ADD (R218): Adds two scalar registers, wrapping or saturating to 64 bits. -/
  | add (dst a b : SReg) (sat : Bool)
  /-- SUB (R218): Subtracts two scalar registers, wrapping or saturating. -/
  | sub (dst a b : SReg) (sat : Bool)
  /-- MUL (R218): Multiplies two scalar registers, wrapping or saturating. -/
  | mul (dst a b : SReg) (sat : Bool)
  /-- MULH (R218): Writes the high 64 bits of the signed 128-bit product. -/
  | mulh (dst a b : SReg)
  /-- MULHU (R218): Writes the high 64 bits of the unsigned 128-bit product. -/
  | mulhu (dst a b : SReg)
  /-- DIV (R219): Signed division rounded toward zero, with fixed results for zero and overflow divisors. -/
  | div (la : BitVec 4) (dst a b : SReg)
  /-- DIVU (R219): Unsigned division rounded toward zero. -/
  | divu (la : BitVec 4) (dst a b : SReg)
  /-- REM (R219): Signed remainder of truncating division. -/
  | rem (la : BitVec 4) (dst a b : SReg)
  /-- REMU (R219): Unsigned remainder of truncating division. -/
  | remu (la : BitVec 4) (dst a b : SReg)
  /-- AND (R218): Bitwise AND of two scalar registers. -/
  | andR (dst a b : SReg)
  /-- OR (R218): Bitwise OR of two scalar registers. -/
  | orR (dst a b : SReg)
  /-- XOR (R218): Bitwise XOR of two scalar registers. -/
  | xorR (dst a b : SReg)
  /-- ANDN (R218): AND of the first operand with the complement of the second. -/
  | andn (dst a b : SReg)
  /-- SHL (R218): Shifts left by the low six bits of the second operand. -/
  | shl (dst a b : SReg)
  /-- SHR (R218): Logical right shift. -/
  | shr (dst a b : SReg)
  /-- SAR (R218): Arithmetic right shift. -/
  | sar (dst a b : SReg)
  /-- ROT (R218): Rotates left by the low six bits of the second operand. -/
  | rot (dst a b : SReg)
  /-- MIN (R218): Signed minimum. -/
  | minS (dst a b : SReg)
  /-- MAX (R218): Signed maximum. -/
  | maxS (dst a b : SReg)
  /-- MINU (R218): Unsigned minimum. -/
  | minu (dst a b : SReg)
  /-- MAXU (R218): Unsigned maximum. -/
  | maxu (dst a b : SReg)
  /-- SEQ (R218): Writes 1 when the operands are equal. -/
  | seq (dst a b : SReg)
  /-- SLT (R218): Writes 1 when the first operand is less, signed. -/
  | slt (dst a b : SReg)
  /-- SLTU (R218): Writes 1 when the first operand is less, unsigned. -/
  | sltu (dst a b : SReg)
  /-- ADDI (R218): Adds a sign-extended immediate to a scalar register. -/
  | addi (dst a : SReg) (imm : BitVec 32)
  /-- SUB_IMM (R218): Subtracts a sign-extended immediate. -/
  | subImm (dst a : SReg) (imm : BitVec 32)
  /-- MUL_IMM (R218): Multiplies by a sign-extended immediate. -/
  | mulImm (dst a : SReg) (imm : BitVec 32)
  /-- MULH_IMM (R218): High half of the signed product with an immediate. -/
  | mulhImm (dst a : SReg) (imm : BitVec 32)
  /-- MULHU_IMM (R218): High half of the unsigned product with an immediate. -/
  | mulhuImm (dst a : SReg) (imm : BitVec 32)
  /-- DIV_IMM (R219): Signed division by an immediate. -/
  | divImm (la : BitVec 4) (dst a : SReg) (imm : BitVec 32)
  /-- DIVU_IMM (R219): Unsigned division by an immediate. -/
  | divuImm (la : BitVec 4) (dst a : SReg) (imm : BitVec 32)
  /-- REM_IMM (R219): Signed remainder by an immediate. -/
  | remImm (la : BitVec 4) (dst a : SReg) (imm : BitVec 32)
  /-- REMU_IMM (R219): Unsigned remainder by an immediate. -/
  | remuImm (la : BitVec 4) (dst a : SReg) (imm : BitVec 32)
  /-- AND_IMM (R218): Bitwise AND with an immediate. -/
  | andImm (dst a : SReg) (imm : BitVec 32)
  /-- OR_IMM (R218): Bitwise OR with an immediate. -/
  | orImm (dst a : SReg) (imm : BitVec 32)
  /-- XOR_IMM (R218): Bitwise XOR with an immediate. -/
  | xorImm (dst a : SReg) (imm : BitVec 32)
  /-- ANDN_IMM (R218): AND with the complement of an immediate. -/
  | andnImm (dst a : SReg) (imm : BitVec 32)
  /-- SHL_IMM (R219): Left shift by an immediate amount of 0 to 63. -/
  | shlImm (dst a : SReg) (imm : BitVec 32)
  /-- SHR_IMM (R219): Logical right shift by an immediate amount. -/
  | shrImm (dst a : SReg) (imm : BitVec 32)
  /-- SAR_IMM (R219): Arithmetic right shift by an immediate amount. -/
  | sarImm (dst a : SReg) (imm : BitVec 32)
  /-- ROT_IMM (R219): Rotates left by an immediate amount. -/
  | rotImm (dst a : SReg) (imm : BitVec 32)
  /-- MIN_IMM (R218): Signed minimum with an immediate. -/
  | minImm (dst a : SReg) (imm : BitVec 32)
  /-- MAX_IMM (R218): Signed maximum with an immediate. -/
  | maxImm (dst a : SReg) (imm : BitVec 32)
  /-- MINU_IMM (R218): Unsigned minimum with an immediate. -/
  | minuImm (dst a : SReg) (imm : BitVec 32)
  /-- MAXU_IMM (R218): Unsigned maximum with an immediate. -/
  | maxuImm (dst a : SReg) (imm : BitVec 32)
  /-- SEQ_IMM (R218): Compares for equality with an immediate. -/
  | seqImm (dst a : SReg) (imm : BitVec 32)
  /-- SLT_IMM (R218): Signed less-than against an immediate. -/
  | sltImm (dst a : SReg) (imm : BitVec 32)
  /-- SLTU_IMM (R218): Unsigned less-than against an immediate. -/
  | sltuImm (dst a : SReg) (imm : BitVec 32)
  /-- MAD (R220): Multiply-add of three scalars, wrapping or saturating once. -/
  | mad (dst a b c : SReg) (sat : Bool)
  /-- CLZ (R220): Counts leading zero bits. -/
  | clz (dst a : SReg)
  /-- POPC (R220): Counts one bits. -/
  | popc (dst a : SReg)
  /-- BREV (R220): Reverses the bit order. -/
  | brev (dst a : SReg)
  /-- EXTS (R220): Extracts a bit field with sign extension. -/
  | exts (dst a : SReg) (pos : BitVec 6) (w : BitVec 7)
  /-- EXTU (R220): Extracts a bit field with zero extension. -/
  | extu (dst a : SReg) (pos : BitVec 6) (w : BitVec 7)
  /-- INS (R220): Inserts a bit field into the destination. -/
  | ins (dst a : SReg) (pos : BitVec 6) (w : BitVec 7)
  /-- SEL (R220): Selects one of two scalars by a third. -/
  | sel (dst a b c : SReg)
  /-- LI (R221): Loads a sign-extended 32-bit constant. -/
  | li (dst : SReg) (imm : BitVec 32)
  /-- LIH (R221): Loads the high 32 bits of a scalar. -/
  | lih (dst : SReg) (imm : BitVec 32)
  /-- ADDR (R221): Forms an address from the instruction's own line plus a displacement. -/
  | addr (dst : SReg) (imm : BitVec 32)
  /-- FADD (R222): Scalar floating-point add, rounded once. -/
  | fadd (dst a b : SReg) (ty : ElemType) (rnd : Rounding) (fzi fzo : Bool)
  /-- FSUB (R222): Scalar floating-point subtract. -/
  | fsub (dst a b : SReg) (ty : ElemType) (rnd : Rounding) (fzi fzo : Bool)
  /-- FMUL (R222): Scalar floating-point multiply. -/
  | fmul (dst a b : SReg) (ty : ElemType) (rnd : Rounding) (fzi fzo : Bool)
  /-- FFMA (R222): Scalar fused multiply-add with one rounding. -/
  | ffma (dst a b c : SReg) (ty : ElemType) (rnd : Rounding) (fzi fzo : Bool)
  /-- FMIN (R222): IEEE minimum of two scalar floats. -/
  | fmin (dst a b : SReg) (ty : ElemType) (rnd : Rounding) (fzi fzo : Bool)
  /-- FMAX (R222): IEEE maximum of two scalar floats. -/
  | fmax (dst a b : SReg) (ty : ElemType) (rnd : Rounding) (fzi fzo : Bool)
  /-- FCMP (R223): Compares two scalar floats under a predicate. -/
  | fcmp (dst a b : SReg) (ty : ElemType) (p : Pred) (fzi fzo : Bool)
  /-- FCVT (R224): Converts a scalar between element types. -/
  | fcvt (dst a : SReg) (ty src : ElemType) (rnd : Rounding) (fzi fzo sat nov : Bool)
  /-- BR (R225): Unconditional relative branch. -/
  | br (imm : BitVec 32)
  /-- BEQ (R225): Branches when two scalars are equal. -/
  | beq (a b : SReg) (imm : BitVec 32)
  /-- BNE (R225): Branches when two scalars differ. -/
  | bne (a b : SReg) (imm : BitVec 32)
  /-- BLT (R225): Branches on signed less-than. -/
  | blt (a b : SReg) (imm : BitVec 32)
  /-- BGE (R225): Branches on signed greater-or-equal. -/
  | bge (a b : SReg) (imm : BitVec 32)
  /-- BLTU (R225): Branches on unsigned less-than. -/
  | bltu (a b : SReg) (imm : BitVec 32)
  /-- BGEU (R225): Branches on unsigned greater-or-equal. -/
  | bgeu (a b : SReg) (imm : BitVec 32)
  /-- BZ (R225): Branches when a scalar is zero. -/
  | bz (a : SReg) (imm : BitVec 32)
  /-- BNZ (R225): Branches when a scalar is non-zero. -/
  | bnz (a : SReg) (imm : BitVec 32)
  /-- JMP (R226): Jumps to a register target, optionally writing a link. -/
  | jmp (dst a : SReg)
  /-- CALL (R226): Writes the return address and branches to a relative target. -/
  | call (dst : SReg) (imm : BitVec 32)
  /-- RET (R226): Returns to the address in a register. -/
  | ret (a : SReg)
  /-- LOOP (R227): Decrements a counter and branches while it is non-zero. -/
  | loop (a : SReg) (imm : BitVec 32)
  /-- ALIGN (R185): Stalls until the gang's contexts have arrived at the line or the bound expires. -/
  | align (imm : BitVec 32)
  /-- REP (R192): Captures a body into the repetition buffer for n stepped passes. -/
  | rep (a : SReg) (imm : BitVec 32)
  /-- NOP (R228): Does nothing. -/
  | nop
  /-- RETIRE (R179): Waits for handles and acknowledgements, then ends the task and idles the context. -/
  | retire
  /-- LD (R242): Scalar load, optionally an acquire. -/
  | ld (la : BitVec 4) (ty : ElemType) (dst base : SReg) (imm : BitVec 32) (req : ReqType) (scope : Scope) (ord : Order)
  /-- ST (R242): Scalar store, optionally a release store. -/
  | st (ty : ElemType) (base data : SReg) (imm : BitVec 32) (req : ReqType) (scope : Scope) (ord : Order)
  /-- LDV (R243): Loads a contiguous vector register under a mask. -/
  | ldv (la : BitVec 4) (ty : ElemType) (dst : VReg) (base : SReg) (imm : BitVec 32) (mask : BitVec 3) (z : Bool) (req : ReqType)
  /-- STV (R243): Stores a vector register contiguously under a mask. -/
  | stv (ty : ElemType) (base : SReg) (data : VReg) (imm : BitVec 32) (mask : BitVec 3) (req : ReqType)
  /-- LDVS (R243): Strided vector load. -/
  | ldvs (la : BitVec 4) (ty : ElemType) (dst : VReg) (base stride : SReg) (imm : BitVec 32) (mask : BitVec 3) (z : Bool) (req : ReqType)
  /-- STVS (R243): Strided vector store. -/
  | stvs (ty : ElemType) (base : SReg) (data : VReg) (stride : SReg) (imm : BitVec 32) (mask : BitVec 3) (req : ReqType)
  /-- GATH (R245): Gathers 128 lanes by index modulo an extent. -/
  | gath (la : BitVec 4) (ty : ElemType) (dst : VReg) (base : SReg) (idx : VReg) (extent : SReg) (imm : BitVec 32) (mask : BitVec 3) (z : Bool) (req : ReqType)
  /-- SCAT (R245): Scatters 128 lanes by index; highest lane wins collisions. -/
  | scat (ty : ElemType) (base : SReg) (idx data : VReg) (extent : SReg) (imm : BitVec 32) (mask : BitVec 3) (req : ReqType)
  /-- SCAT_ACC (R246): Scatters as relaxed atomic adds at the home in lane order. -/
  | scatAcc (ty : ElemType) (base : SReg) (idx data : VReg) (extent : SReg) (imm : BitVec 32) (mask : BitVec 3) (req : ReqType) (scope : Scope) (rnd : Rounding) (fzi fzo : Bool)
  /-- LDT (R247): Vector load wholly within one declared tile. -/
  | ldt (la : BitVec 4) (ty : ElemType) (dst : VReg) (base : SReg) (imm : BitVec 32) (mask : BitVec 3) (z : Bool)
  /-- STT (R247): Vector store wholly within one declared tile. -/
  | stt (ty : ElemType) (base : SReg) (data : VReg) (imm : BitVec 32) (mask : BitVec 3)
  /-- TDECL (R78): Declares a tile entry with base, size and mode. -/
  | tdecl (base size : SReg) (mode : BitVec 2) (e : BitVec 7)
  /-- TSTATE_READ (R247): Returns a tile entry's 128 bits to a register pair. -/
  | tstateRead (dst base : SReg) (e : BitVec 7)
  /-- TSTATE_ARM (R80): Arms a tile's fill with a byte count. -/
  | tstateArm (dst base n : SReg) (e : BitVec 7)
  /-- TSTATE_READY (R80): Marks a tile ready as a release. -/
  | tstateReady (dst base : SReg) (e : BitVec 7)
  /-- TSTATE_EMPTY (R80): Marks a tile empty as a release. -/
  | tstateEmpty (dst base : SReg) (e : BitVec 7)
  /-- TFREE (R247): Frees a tile entry. -/
  | tfree (base : SReg) (e : BitVec 7)
  /-- CINV (R249): Drops the core's L1 sectors in a range after sending dirty bytes home. -/
  | cinv (base len : SReg) (imm : BitVec 32)
  /-- CINV_I (R249): Invalidates the gang's instruction-cache lines in a range. -/
  | cinvI (base len : SReg) (imm : BitVec 32)
  /-- CFLUSH (R249): Writes every dirty byte of a range to DRAM. -/
  | cflush (base len : SReg) (imm : BitVec 32)
  /-- PROMOTE (R62): Promotes a deep row into a shelf slot of its bank and returns a status. -/
  | promote (la : BitVec 4) (dst base : SReg) (imm : BitVec 32)
  /-- SHPIN (R62): Pins a promoted row's slot. -/
  | shpin (la : BitVec 4) (dst base : SReg) (imm : BitVec 32)
  /-- SHUNPIN (R62): Unpins a promoted row's slot, and with .D demotes it. -/
  | shunpin (la : BitVec 4) (dst base : SReg) (d : Bool) (imm : BitVec 32)
  /-- BCASTW (R70): Writes one vector register into the same place of all 16 banks of a channel. -/
  | bcastw (la : BitVec 4) (base : SReg) (data : VReg) (imm : BitVec 32)
  /-- AMO_ADD (R250): Atomic add at the home, returning the old value. -/
  | amoAdd (la : BitVec 4) (ty : ElemType) (dst base b : SReg) (imm : BitVec 32) (req : ReqType) (scope : Scope) (ord : Order)
  /-- AMO_MIN (R250): Atomic minimum at the home. -/
  | amoMin (la : BitVec 4) (ty : ElemType) (dst base b : SReg) (imm : BitVec 32) (req : ReqType) (scope : Scope) (ord : Order)
  /-- AMO_MAX (R250): Atomic maximum at the home. -/
  | amoMax (la : BitVec 4) (ty : ElemType) (dst base b : SReg) (imm : BitVec 32) (req : ReqType) (scope : Scope) (ord : Order)
  /-- AMO_AND (R250): Atomic AND at the home. -/
  | amoAnd (la : BitVec 4) (ty : ElemType) (dst base b : SReg) (imm : BitVec 32) (req : ReqType) (scope : Scope) (ord : Order)
  /-- AMO_OR (R250): Atomic OR at the home. -/
  | amoOr (la : BitVec 4) (ty : ElemType) (dst base b : SReg) (imm : BitVec 32) (req : ReqType) (scope : Scope) (ord : Order)
  /-- AMO_XOR (R250): Atomic XOR at the home. -/
  | amoXor (la : BitVec 4) (ty : ElemType) (dst base b : SReg) (imm : BitVec 32) (req : ReqType) (scope : Scope) (ord : Order)
  /-- AMO_SWAP (R250): Atomic swap at the home. -/
  | amoSwap (la : BitVec 4) (ty : ElemType) (dst base b : SReg) (imm : BitVec 32) (req : ReqType) (scope : Scope) (ord : Order)
  /-- CAS (R250): Atomic compare-and-swap at the home. -/
  | cas (la : BitVec 4) (ty : ElemType) (dst base b c : SReg) (imm : BitVec 32) (req : ReqType) (scope : Scope) (ord : Order)
  /-- AMAXF (R251): Merges a magnitude into an absmax cell atomically. -/
  | amaxf (la : BitVec 4) (ty : ElemType) (dst base b : SReg) (imm : BitVec 32) (req : ReqType) (scope : Scope) (ord : Order) (nskip : Bool)
  /-- FENCE (R107): Release, acquire or SC fence at a scope. -/
  | fence (scope : Scope) (ord : Order)
  /-- PUBL (R125): Publishes the context's own tidal stores as a single-member ebb. -/
  | publ (scope : Scope) (level : BitVec 32)
  /-- TIDE (R188): Arrives at the context's level-k domain and blocks until the ebb. -/
  | tide (level : BitVec 32)
  /-- BARI (R254): Initialises a barrier object. -/
  | bari (base b : SReg) (imm : BitVec 32) (req : ReqType) (scope : Scope)
  /-- BARA (R255): Release then arrival of n at a barrier object. -/
  | bara (dst base n : SReg) (imm : BitVec 32) (req : ReqType) (scope : Scope)
  /-- BARW (R256): Bounded wait for a barrier phase change. -/
  | barw (dst base p : SReg) (imm : BitVec 32) (req : ReqType) (scope : Scope)
  /-- WBAR (R254): Arrival followed by a wait on the phase it found. -/
  | wbar (dst base n : SReg) (imm : BitVec 32) (req : ReqType) (scope : Scope)
  /-- CMPL (R257): Completion store: release then an atomic 8-byte write. -/
  | cmpl (base v : SReg) (imm : BitVec 32) (scope : Scope)
  /-- WAITW (R258): Bounded wait until a word meets a condition. -/
  | waitw (dst base v bound : SReg) (imm : BitVec 32) (req : ReqType) (scope : Scope) (ord : Order) (cond : Cond)
  /-- VADD (R272): Element-wise vector add. -/
  | vadd (ty : ElemType) (dst a b : VReg) (mask : BitVec 3) (z : Bool) (rnd : Rounding) (fzi fzo sat : Bool)
  /-- VSUB (R272): Element-wise vector subtract. -/
  | vsub (ty : ElemType) (dst a b : VReg) (mask : BitVec 3) (z : Bool) (rnd : Rounding) (fzi fzo sat : Bool)
  /-- VMUL (R272): Element-wise vector multiply. -/
  | vmul (ty : ElemType) (dst a b : VReg) (mask : BitVec 3) (z : Bool) (rnd : Rounding) (fzi fzo sat : Bool)
  /-- VFMA (R272): Element-wise fused multiply-add. -/
  | vfma (ty : ElemType) (dst a b c : VReg) (mask : BitVec 3) (z : Bool) (rnd : Rounding) (fzi fzo sat : Bool)
  /-- VMIN (R272): Element-wise minimum. -/
  | vmin (ty : ElemType) (dst a b : VReg) (mask : BitVec 3) (z : Bool) (rnd : Rounding) (fzi fzo sat : Bool)
  /-- VMAX (R272): Element-wise maximum. -/
  | vmax (ty : ElemType) (dst a b : VReg) (mask : BitVec 3) (z : Bool) (rnd : Rounding) (fzi fzo sat : Bool)
  /-- VABS (R272): Element-wise absolute value. -/
  | vabs (ty : ElemType) (dst a : VReg) (mask : BitVec 3) (z : Bool) (rnd : Rounding) (fzi fzo sat : Bool)
  /-- VNEG (R272): Element-wise negation. -/
  | vneg (ty : ElemType) (dst a : VReg) (mask : BitVec 3) (z : Bool) (rnd : Rounding) (fzi fzo sat : Bool)
  /-- VAND (R275): Element-wise bitwise AND. -/
  | vand (ty : ElemType) (dst a b : VReg) (mask : BitVec 3) (z : Bool)
  /-- VOR (R275): Element-wise bitwise OR. -/
  | vor (ty : ElemType) (dst a b : VReg) (mask : BitVec 3) (z : Bool)
  /-- VXOR (R275): Element-wise bitwise XOR. -/
  | vxor (ty : ElemType) (dst a b : VReg) (mask : BitVec 3) (z : Bool)
  /-- VSHL (R275): Element-wise left shift. -/
  | vshl (ty : ElemType) (dst a b : VReg) (mask : BitVec 3) (z immk : Bool) (k : BitVec 5)
  /-- VSHR (R275): Element-wise logical right shift. -/
  | vshr (ty : ElemType) (dst a b : VReg) (mask : BitVec 3) (z immk : Bool) (k : BitVec 5)
  /-- VSAR (R275): Element-wise arithmetic right shift. -/
  | vsar (ty : ElemType) (dst a b : VReg) (mask : BitVec 3) (z immk : Bool) (k : BitVec 5)
  /-- VCMP (R276): Compares elements and writes a mask register. -/
  | vcmp (ty : ElemType) (dst : MReg) (a b : VReg) (p : Pred) (mask : BitVec 3) (z : Bool)
  /-- VSEL (R277): Selects elements of two vectors by a mask. -/
  | vsel (ty : ElemType) (dst a b : VReg) (mc : MReg) (mask : BitVec 3) (z : Bool)
  /-- VMOV (R277): Moves vector elements under a mask. -/
  | vmov (ty : ElemType) (dst a : VReg) (mask : BitVec 3) (z : Bool)
  /-- VMOV_TO_MASK (R277): Copies bytes 0-127 of a vector register into a mask register. -/
  | vmovToMask (dst : MReg) (a : VReg)
  /-- VMOV_FROM_MASK (R277): Copies a mask register into a vector register and zeroes the rest. -/
  | vmovFromMask (dst : VReg) (a : MReg)
  /-- VMOVS_TO_SCALAR (R277): Moves one vector element into a scalar register. -/
  | vmovsToScalar (ty : ElemType) (dst : SReg) (a : VReg) (k : SReg)
  /-- VMOVS_TO_VECTOR (R277): Writes a scalar into one vector element. -/
  | vmovsToVector (ty : ElemType) (dst : VReg) (a k : SReg)
  /-- VBCAST (R277): Broadcasts a scalar to active elements. -/
  | vbcast (ty : ElemType) (dst : VReg) (a : SReg) (mask : BitVec 3) (z : Bool)
  /-- VIOTA (R277): Writes a base plus the count of active elements below each element. -/
  | viota (ty : ElemType) (dst : VReg) (a : SReg) (mask : BitVec 3) (z : Bool)
  /-- VCVT (R278): Converts vector elements between types, widening or narrowing registers. -/
  | vcvt (ty : ElemType) (dst a : VReg) (src : ElemType) (mask : BitVec 3) (z : Bool) (rnd : Rounding) (fzi fzo sat nov : Bool)
  /-- VWMUL (R279): Widening element multiply into a register pair. -/
  | vwmul (ty : ElemType) (dst a b : VReg) (mask : BitVec 3) (z : Bool) (rnd : Rounding) (fzi fzo : Bool)
  /-- VWADD (R279): Widening element add into a register pair. -/
  | vwadd (ty : ElemType) (dst a b : VReg) (mask : BitVec 3) (z : Bool) (rnd : Rounding) (fzi fzo : Bool)
  /-- VNARROW (R280): Narrows a pair by a shift with chosen rounding. -/
  | vnarrow (ty : ElemType) (dst a : VReg) (sh : BitVec 5) (mode : BitVec 2) (mask : BitVec 3) (z sat : Bool)
  /-- VDOT (R282): Dot product over L elements by the ordered tree. -/
  | vdot (la : BitVec 4) (ty : ElemType) (dst : SReg) (a b : VReg) (len : SReg) (rnd : Rounding) (fzi fzo sat : Bool)
  /-- VRED (R283): Reduces active elements to a scalar. -/
  | vred (la : BitVec 4) (ty : ElemType) (dst : SReg) (a : VReg) (op mask : BitVec 3) (rnd : Rounding) (fzi fzo sat : Bool)
  /-- VSCAN (R284): Inclusive or exclusive scan in ascending order. -/
  | vscan (la : BitVec 4) (ty : ElemType) (dst a : VReg) (init : SReg) (op mask : BitVec 3) (z : Bool) (rnd : Rounding) (fzi fzo sat excl : Bool)
  /-- VPERM (R285): Permutes elements by an index vector. -/
  | vperm (ty : ElemType) (dst a b : VReg) (mask : BitVec 3) (z : Bool)
  /-- VROT (R285): Rotates elements by a scalar amount. -/
  | vrot (ty : ElemType) (dst a : VReg) (k : SReg) (mask : BitVec 3) (z : Bool)
  /-- VCOMPR (R286): Packs active elements to the low positions. -/
  | vcompr (ty : ElemType) (dst a : VReg) (mask : BitVec 3) (z : Bool)
  /-- VEXPAND (R286): Spreads low elements into active positions. -/
  | vexpand (ty : ElemType) (dst a : VReg) (mask : BitVec 3) (z : Bool)
  /-- VEXP2 (R288): Element-wise base-2 exponential. -/
  | vexp2 (la : BitVec 4) (ty : ElemType) (dst a : VReg) (mask : BitVec 3) (z fzi fzo : Bool)
  /-- VEXP (R288): Element-wise natural exponential. -/
  | vexp (la : BitVec 4) (ty : ElemType) (dst a : VReg) (mask : BitVec 3) (z fzi fzo : Bool)
  /-- VLOG2 (R288): Element-wise base-2 logarithm. -/
  | vlog2 (la : BitVec 4) (ty : ElemType) (dst a : VReg) (mask : BitVec 3) (z fzi fzo : Bool)
  /-- VLOG (R288): Element-wise natural logarithm. -/
  | vlog (la : BitVec 4) (ty : ElemType) (dst a : VReg) (mask : BitVec 3) (z fzi fzo : Bool)
  /-- VRCP (R288): Element-wise reciprocal. -/
  | vrcp (la : BitVec 4) (ty : ElemType) (dst a : VReg) (mask : BitVec 3) (z fzi fzo : Bool)
  /-- VRSQ (R288): Element-wise reciprocal square root. -/
  | vrsq (la : BitVec 4) (ty : ElemType) (dst a : VReg) (mask : BitVec 3) (z fzi fzo : Bool)
  /-- VSQRT (R288): Element-wise square root. -/
  | vsqrt (la : BitVec 4) (ty : ElemType) (dst a : VReg) (mask : BitVec 3) (z fzi fzo : Bool)
  /-- VTANH (R288): Element-wise hyperbolic tangent. -/
  | vtanh (la : BitVec 4) (ty : ElemType) (dst a : VReg) (mask : BitVec 3) (z fzi fzo : Bool)
  /-- GANG (R293): Waits for the member's MLDBs and arrives at the gang's wired barrier. -/
  | gang
  /-- MZERO (R303): Makes the member's accumulator slice valid and zero and ends a queue halt. -/
  | mzero (ty : ElemType) (dst : AReg) (n : SReg)
  /-- MLDB (R296): Loads the member's eighth of a B latch shadow. -/
  | mldb (la : BitVec 4) (ty : ElemType) (base n stride : SReg) (pair : BitVec 1) (sp : Bool)
  /-- MGATH (R295): Gathers 16 rows into the member's A latch. -/
  | mgath (la : BitVec 4) (ty : ElemType) (base : SReg) (idx : VReg) (extent : SReg) (pair : BitVec 1) (imm : BitVec 32)
  /-- MMA (R300): Accumulates the product of A and published B into the member's slice. -/
  | mma (la : BitVec 4) (ty : ElemType) (dst : AReg) (n : SReg) (rnd : Rounding) (fzi fzo sat zs : Bool) (pair : BitVec 1)
  /-- MMAS (R301): MMA with a compressed B expanded by keep masks. -/
  | mmas (la : BitVec 4) (ty : ElemType) (dst : AReg) (n : SReg) (vm : VReg) (rnd : Rounding) (fzi fzo sat zs : Bool) (pair : BitVec 1) (s48 : Bool)
  /-- MCOMP (R302): Compresses a dense block to 2:4 or 4:8 and writes keep masks. -/
  | mcomp (la : BitVec 4) (ty : ElemType) (dst : VReg) (a b p : SReg) (s48 : Bool)
  /-- MSCALE (R299): Sets latch scales explicitly. -/
  | mscale (ty : ElemType) (a : VReg) (pair : BitVec 1) (bside : Bool)
  /-- MDRAIN (R304): Drains one row block of a slice into a vector register. -/
  | mdrain (la : BitVec 4) (ty : ElemType) (dst : VReg) (cell scale : SReg) (rnd : Rounding) (fzo sat nov nskip : Bool) (scope : Scope) (acc : BitVec 2) (row blk : BitVec 4)
  /-- MDRAIN_VAULT (R304): Drains the member's whole slice to the vault, with optional absmax merge. -/
  | mdrainVault (la : BitVec 4) (ty : ElemType) (dst base cell scale : SReg) (rnd : Rounding) (fzo sat nov nskip : Bool) (scope : Scope) (acc : BitVec 2)
  /-- COPY (R261): Starts an engine copy of len bytes. -/
  | copy (h : HReg) (d src len : SReg) (req : ReqType) (scope : Scope) (drain : Bool)
  /-- COPY2D (R261): Starts a two-dimensional engine copy. -/
  | copy2d (h : HReg) (d src p : SReg) (req : ReqType) (scope : Scope) (drain : Bool)
  /-- PUT (R262): Starts a write to a peer package, optionally with a signal. -/
  | put (h : HReg) (r l n : SReg) (req : ReqType) (scope : Scope) (sig : Bool) (ep : BitVec 16)
  /-- GET (R262): Starts a read from a peer package into local pending sectors. -/
  | get (h : HReg) (l r n : SReg) (req : ReqType) (scope : Scope) (ep : BitVec 16)
  /-- RADD (R262): Starts a remote atomic add at a peer. -/
  | radd (ty : ElemType) (h : HReg) (r b : SReg) (acc : Access) (ep : BitVec 16)
  /-- TRIG (R264): Arms a trigger record in the die's trigger table. -/
  | trig (h : HReg) (a : SReg) (acc : Access)
  /-- CNTI (R263): Release then adds to or sets a die counter. -/
  | cnti (c : BitVec 8) (b : SReg) (scope : Scope) (set : Bool)
  /-- CNTR (R263): Reads a die counter. -/
  | cntr (dst : SReg) (c : BitVec 8)
  /-- HTEST (R265): Returns a handle's status without waiting. -/
  | htest (dst : SReg) (h : HReg)
  /-- HCANCEL (R265): Asks a pending operation to stop. -/
  | hcancel (h : HReg)
  /-- HWAIT (R265): Blocks on a handle and returns its status. -/
  | hwait (dst : SReg) (h : HReg)
  /-- HWAIT_TOKEN (R191): Waits on a token of the die's token table. -/
  | hwaitToken (dst k : SReg)
  /-- HMOV (R190): Moves a handle's operation to an idle handle. -/
  | hmov (dst h : HReg)
  /-- HTOK (R191): Hands an operation to the token table and returns a token. -/
  | htok (dst : SReg) (h : HReg)
  /-- RGRP (R321): Allocates a rank group entry. -/
  | rgrp (dst spec : SReg)
  /-- RGRP_FREE (R321): Frees a rank group entry and advances its generation. -/
  | rgrpFree (dst g : SReg)
  /-- NLOAD (R322): Copies a newt program into every member and sets program tags. -/
  | nload (dst g a n : SReg)
  /-- REDCFG (R323): Sets a group's reduction tree configuration. -/
  | redcfg (dst g c a : SReg)
  /-- RSTEP (R324): Checks and accepts a step descriptor into the group's queue. -/
  | rstep (h : HReg) (g a : SReg)
  /-- RSTAT (R325): Reads a group's control or failure register. -/
  | rstat (dst g : SReg) (sel : BitVec 32)
  /-- SQINS (R349): Inserts active elements into a quantile sketch. -/
  | sqins (ty : ElemType) (dst a : VReg) (mask : BitVec 3)
  /-- SHINS (R349): Inserts keys into a heavy-hitter list. -/
  | shins (ty : ElemType) (dst a : VReg) (mask : BitVec 3)
  /-- SDINS (R349): Inserts keys into a distinct-count array. -/
  | sdins (ty : ElemType) (dst a : VReg) (mask : BitVec 3)
  /-- SMERGE (R349): Merges two summaries of a named kind. -/
  | smerge (la : BitVec 4) (dst a b : VReg) (kind : BitVec 2)
  /-- SQQ (R341): Returns a quantile from a sketch. -/
  | sqq (la : BitVec 4) (dst : SReg) (a : VReg) (q : SReg)
  /-- SQRANK (R341): Returns the estimated rank of a value. -/
  | sqrank (la : BitVec 4) (dst : SReg) (a : VReg) (x : SReg)
  /-- SHTOP (R349): Returns entry j of a heavy-hitter list in canonical order. -/
  | shtop (dst : SReg) (a : VReg) (j : SReg)
  /-- SDEST (R345): Returns the distinct-count estimate. -/
  | sdest (dst : SReg) (a : VReg)
  /-- SCOIN (R349): Sets a sketch's coin state, or makes an empty sketch with .INIT. -/
  | scoin (dst : VReg) (a : SReg) (init : Bool)
  /-- GNODE (R356): Enters a node record into the issuing task's graph. -/
  | gnode (dst a : SReg)
  /-- GDEP (R230): Adds a dependence edge between two nodes. -/
  | gdep (dst a b : SReg)
  /-- GSUB (R358): Submits a graph descriptor whole or refuses it. -/
  | gsub (h : HReg) (a : SReg)
  /-- CREW (R230): Allocates a crew number for a size. -/
  | crew (dst : SReg) (imm : BitVec 32)
  /-- YIELD (R230): Stalls the context for n ungated core cycles. -/
  | yield (imm : BitVec 32)
  /-- RDC (R234): Reads a control register. -/
  | rdc (dst : SReg) (num : BitVec 12)
  /-- WRC (R234): Writes a control register with its checks. -/
  | wrc (num : BitVec 12) (a : SReg)
  /-- TRAP (R236): Completes and raises the trap fault with a code. -/
  | trap (code : BitVec 16)
  /-- PAIR (R237): Asks to couple the core with a neighbour into a checked pair. -/
  | pair (dst : SReg) (dir : BitVec 2)
  /-- UNPAIR (R237): Closes the interval and dissolves the pair. -/
  | unpair (dst : SReg)
  /-- IDLE (R238): Stops a supervisor context until a message arrives or a bound expires. -/
  | idle (dst : SReg) (imm : BitVec 32)
  /-- SVRES (R239): Resumes a frozen core, optionally retiring masked contexts. -/
  | svres (dst a : SReg) (op : BitVec 2) (mask : BitVec 4)
  /-- NEWT_WORD (R312): A newt executes one 64-bit word of two guarded moves in a newt cycle. -/
  | newtWord (bank : Nat)
  /-- NEWT_RESULT_READY (R313): A newt unit's outstanding result or sketch load becomes ready and releases a stalled newt. -/
  | newtResultReady (bank : Nat) (unit : Nat)
  /-- STEP_LEAVE_ARMED (R327): A step heading its queue leaves armed when its conditions hold and enters flood or aborts. -/
  | stepLeaveArmed (die : Nat) (grp : Nat)
  /-- STEP_MOVE_COMPLETE (R329): Every row of the collective is moved and the tree result formed, so the step enters publish. -/
  | stepMoveComplete (die : Nat) (grp : Nat)
  /-- STEP_PUBLISH_COMPLETE (R326): All member remap tables change together; SERIAL advances and the handle gets status 0. -/
  | stepPublishComplete (die : Nat) (grp : Nat)
  /-- STEP_TIMEOUT (R326): The step's timeout expires and it aborts with cause 0x25. -/
  | stepTimeout (die : Nat) (grp : Nat)
  /-- NLOAD_COPY_DONE (R322): The program copy to every member ends and NLOAD writes its status. -/
  | nloadCopyDone (cid : Nat)
  /-- POWER_UP_BOOT (R414): At power-up the boot ROM checks and measures firmware before running it. -/
  | powerUpBoot
  /-- FIRMWARE_UPDATE (R414): A firmware update is checked and installed or refused. -/
  | firmwareUpdate (image : Nat) (sig : Nat) (key : Nat)
  /-- ATTESTATION_REQUEST (R415): The package signs its measurements and a challenge. -/
  | attestationRequest (challenge : Nat)
  /-- DEBUG_AUTHENTICATE (R416): A debugger's signed challenge opens the debug state. -/
  | debugAuthenticate (key : Nat) (sig : Nat)
  /-- LIFECYCLE_ADVANCE (R416): The lifecycle moves forward; entry into returned zeroes memory and revokes the key. -/
  | lifecycleAdvance (stage : Nat)
  /-- REGISTER_WRITE (R9): A write to a device register without behaviour of its own stores its fields. -/
  | registerWrite (pa : Nat) (size : Nat) (val : Nat)
  /-- SUPERVISOR_GO (R176): Writing GO releases the die's supervisor contexts at their start addresses. -/
  | supervisorGo (die : Nat)
  /-- TLB_INVALIDATE_GO (R45): Writing GO starts a die or package TLB and walk-cache invalidation. -/
  | tlbInvalidateGo (die : Nat) (val : Nat)
  /-- TLB_INVALIDATE_DONE (R45): Removals, repeated walks and affected accesses finish and BUSY clears. -/
  | tlbInvalidateDone (die : Nat)
  /-- PAGE_WALK_COMPLETE (R43): A walker finishes a walk and completes the coalesced misses. -/
  | pageWalkComplete (die : Nat) (walker : Nat)
  /-- FORMAT_WINDOW_DISABLE (R51): A write clearing EN starts invalidation of the window's tagged lines. -/
  | formatWindowDisable (stack : Nat) (win : Nat)
  /-- FORMAT_WINDOW_DISABLE_ACK (R51): Every L2 slice has invalidated the lines and the write is acknowledged. -/
  | formatWindowDisableAck (stack : Nat) (win : Nat)
  /-- INBOUND_REMOTE_WRITE (R118): An inbound remote write message is checked and started as an engine operation. -/
  | inboundRemoteWrite (io : Nat) (key : Nat) (off : Nat) (data : List (BitVec 8))
  /-- INBOUND_REMOTE_READ (R118): An inbound remote read returns the published state. -/
  | inboundRemoteRead (io : Nat) (key : Nat) (off : Nat) (len : Nat)
  /-- INBOUND_REMOTE_ATOMIC (R48): An inbound remote atomic is checked and performed. -/
  | inboundRemoteAtomic (io : Nat) (key : Nat) (off : Nat) (size : Nat) (op : Nat) (a : Nat) (b : Nat)
  /-- HOME_REQUEST (R91): A home slice or vault controller serves a request against sector states and race records. -/
  | homeRequest (idx : Nat)
  /-- DIRTY_FIFO_ACK (R97): A dirty-address FIFO entry is acknowledged and leaves from the head. -/
  | dirtyFifoAck (core : Nat)
  /-- RELEASE_COMPLETE (R98): A release marker reaches the FIFO head, closing its context's records. -/
  | releaseComplete (core : Nat)
  /-- REMOTE_LOAD_REPLY (R117): The reply to a load through a network window arrives. -/
  | remoteLoadReply (cid : Nat)
  /-- BANK_OPERATION (R53): A bank controller serves the next operation in arrival order. -/
  | bankOperation (bank : Nat)
  /-- REFRESH (R52): A bank refresh falls due every 3,413 newt cycles. -/
  | refresh (bank : Nat)
  /-- PATROL_SCRUB (R401): The patrol scrubber reads and corrects the next row. -/
  | patrolScrub (bank : Nat)
  /-- SHMODE_WRITE (R56): A write to SHMODE is refused or starts demotion of every promoted slot. -/
  | shmodeWrite (bank : Nat) (val : Nat)
  /-- BKMODE_CLEAR_REFUSED (R56): A BKMODE write with bit 5 set only clears REFUSED. -/
  | bkmodeClearRefused (bank : Nat)
  /-- SHMODE_CHANGE_DONE (R56): Demotion ends, the new SHMODE applies and BUSY clears. -/
  | shmodeChangeDone (bank : Nat)
  /-- ROW_RETIRE_GO (R68): Writing GO in BKRETIRE starts retirement of a physical deep row or is refused. -/
  | rowRetireGo (bank : Nat) (prow : Nat)
  /-- ROW_RETIRE_DONE (R68): The retirement occupancy ends, BUSY clears and the row is recorded. -/
  | rowRetireDone (bank : Nat)
  /-- TILE_ARRIVAL (R80): An engine write of up to 256 bytes arrives at a tile and may make it ready. -/
  | tileArrival (op : Nat)
  /-- ENGINE_OPERATION_COMPLETE (R129): An engine operation commits or discards its pending sectors and writes its status. -/
  | engineOperationComplete (op : Nat)
  /-- COPY_ENGINE_START (R261): A waiting copy starts on a copy engine that has become free. -/
  | copyEngineStart (die : Nat)
  /-- TIDE_ARRIVAL (R188): A TIDE arrival reaches the domain's home die and is counted or refused. -/
  | tideArrival (die : Nat)
  /-- EBB_COMPLETE (R188): The ebb's commit completes, the phase toggles and members wake. -/
  | ebbComplete (die : Nat) (entry : Nat)
  /-- DOMAIN_ENABLE (R187): A DMCTL write setting EN allocates a domain entry. -/
  | domainEnable (die : Nat) (entry : Nat) (val : Nat)
  /-- DOMAIN_ABORT (R188): Writing ABORT ends the phase without an ebb and faults waiting members. -/
  | domainAbort (die : Nat) (entry : Nat)
  /-- DEFERRED_COMPLETION_STORE (R440): A held completion or progress store is performed once its target condition ends. -/
  | deferredCompletionStore (idx : Nat)
  /-- FETCH_PORT_SERVE (R184): A gang's fetch port broadcasts one line to its requesters. -/
  | fetchPortServe (gang : Nat)
  /-- ICACHE_FILL (R184): An instruction-cache miss fills from the home slice. -/
  | icacheFill (gang : Nat)
  /-- LINE_REFETCH (R206): A line failing parity is fetched once more before faulting. -/
  | lineRefetch (cid : Nat)
  /-- ALIGN_RELEASE (R185): Every other gang context has arrived and the ALIGN proceeds. -/
  | alignRelease (cid : Nat)
  /-- ALIGN_BOUND_EXPIRY (R185): An ALIGN's bound expires and the context proceeds. -/
  | alignBoundExpiry (cid : Nat)
  /-- REP_PASS_ISSUE (R194): The sequencer issues the next instruction of a repetition pass. -/
  | repPassIssue (cid : Nat)
  /-- BARRIER_WAIT_TIMEOUT (R256): A barrier wait's bound expires with status 1. -/
  | barrierWaitTimeout (cid : Nat)
  /-- WAITW_TIMEOUT (R258): A word wait's bound expires with status 1. -/
  | waitwTimeout (cid : Nat)
  /-- WAITW_WINDOW_POLL (R258): A word behind a network window is read again every 1,024 cycles. -/
  | waitwWindowPoll (cid : Nat)
  /-- YIELD_EXPIRY (R230): A YIELD's cycle count expires and the context is ready. -/
  | yieldExpiry (cid : Nat)
  /-- IDLE_TIMEOUT (R238): An IDLE bound expires with status 1. -/
  | idleTimeout (cid : Nat)
  /-- PAIR_TIMEOUT (R237): No matching PAIR within 65,536 cycles gives status 1. -/
  | pairTimeout (cid : Nat)
  /-- GANG_BARRIER_COMPLETE (R293): All eight members arrive and written B shadows are published. -/
  | gangBarrierComplete (gang : Nat)
  /-- MATRIX_OPERAND_LOAD_DONE (R298): An MGATH or MLDB load completes with its tag check and scales. -/
  | matrixOperandLoadDone (core : Nat)
  /-- SUCCESSOR_RELEASE_MESSAGE (R369): A release of a successor on another die arrives over the links. -/
  | successorReleaseMessage (die : Nat)
  /-- PRIORITY_AGING (R362): A ready node gains a priority level every 65,536 cycles up to 6. -/
  | priorityAging (die : Nat) (entry : Nat)
  /-- DISPATCH_TASK (R363): The dispatcher places a TASK on an idle context. -/
  | dispatchTask (die : Nat)
  /-- DISPATCH_GANGTASK (R364): The dispatcher binds a GANGTASK to a qualifying gang. -/
  | dispatchGangtask (die : Nat)
  /-- DISPATCH_CREW (R367): The dispatcher places every member of a crew in one cycle. -/
  | dispatchCrew (die : Nat)
  /-- DISPATCH_STEP (R365): The dispatcher performs a STEP node as RSTEP. -/
  | dispatchStep (die : Nat)
  /-- DISPATCH_COPY (R365): The dispatcher starts a COPY node on a free copy engine. -/
  | dispatchCopy (die : Nat)
  /-- QUEUE_ENABLE (R372): Setting EN checks the queue, reads the tail and writes the progress word. -/
  | queueEnable (io : Nat) (q : Nat) (val : Nat)
  /-- QUEUE_SWITCH_OUT (R376): Writing SWIN = 0 stops reading the queue after the current visit. -/
  | queueSwitchOut (io : Nat) (q : Nat)
  /-- QUEUE_SWITCH_IN (R376): Writing SWIN = 1 resumes the queue with a fresh tail read. -/
  | queueSwitchIn (io : Nat) (q : Nat)
  /-- QUEUE_VISIT (R373): The queue dispatcher visits the next queue, reads its tail and starts entries. -/
  | queueVisit (io : Nat)
  /-- TRANAR_NOP (R411): A Tranar NOP command does nothing. -/
  | tranarNop (io : Nat)
  /-- TRANAR_GRAPH (R411): A Tranar GRAPH command submits a graph as GSUB. -/
  | tranarGraph (io : Nat)
  /-- TRANAR_COPY (R411): A Tranar COPY command starts a copy. -/
  | tranarCopy (io : Nat)
  /-- TRANAR_STORE (R411): A Tranar STORE command makes an 8-byte release store. -/
  | tranarStore (io : Nat)
  /-- FAULT_PACKET_DELIVERY (R384): A waiting packet or message is written into its supervisor's ring. -/
  | faultPacketDelivery (die : Nat)
  /-- FAULT_RING_ENABLE (R383): A write setting EN enables a valid fault ring. -/
  | faultRingEnable (die : Nat) (sup : Nat) (val : Nat)
  /-- DEBUG_UNPARK (R389): Writing UNPARK resumes a parked context. -/
  | debugUnpark (cid : Nat)
  /-- DEBUG_EVICT (R390): Writing EVICT evicts the context if it is evictable. -/
  | debugEvict (cid : Nat)
  /-- DEBUG_PC_WRITE (R387): Writing DWPC sets the resume address and clears AHEAD and REPLAYV, or restores an image. -/
  | debugPcWrite (cid : Nat) (pc : Nat)
  /-- AUTOMATIC_EVICTION (R390): The dispatcher evicts the longest-blocked evictable context into a save slot. -/
  | automaticEviction (die : Nat)
  /-- CONTEXT_RESTORE (R394): A due save image is restored into its own freed context. -/
  | contextRestore (cid : Nat)
  /-- WAKE_EVENT_RETRY (R393): A sender retries a refused event to a full save image every 256 cycles. -/
  | wakeEventRetry (die : Nat)
  /-- BREAKWATER_FENCE (R396): The fence command freezes and isolates a rectangle of cores. -/
  | breakwaterFence (die : Nat) (bw : Nat)
  /-- BREAKWATER_RESET (R396): The reset command starts resetting the fenced cores. -/
  | breakwaterReset (die : Nat) (bw : Nat)
  /-- BREAKWATER_RESET_DONE (R396): The reset of the breakwater's cores completes. -/
  | breakwaterResetDone (die : Nat) (bw : Nat)
  /-- BREAKWATER_RELEASE (R396): The release command ends refusal and resumes the cores idle. -/
  | breakwaterRelease (die : Nat) (bw : Nat)
  /-- PAIR_INTERVAL_CLOSE (R403): A pair's interval closes at the next multiple of 4,096 instructions. -/
  | pairIntervalClose (cid : Nat)
  /-- PAIR_FINGERPRINT_EXCHANGE (R404): The two sides' fingerprints meet and commit or roll back the interval. -/
  | pairFingerprintExchange (cid : Nat)
  /-- REDUNDANT_RUN_GO (R406): Writing GO submits the graph on this die and its peer. -/
  | redundantRunGo (die : Nat)
  /-- REDUNDANT_RUN_COMPARE (R406): Both copies have retired; signatures are compared and one copy committed or both discarded. -/
  | redundantRunCompare (die : Nat)
  /-- COUNTER_PERSIST (R407): The lifetime counters are copied to persistent store every 2^30 cycles. -/
  | counterPersist (unit : Nat)
  /-- ORDERLY_POWER_DOWN (R407): An orderly power-down copies the counters to persistent store. -/
  | orderlyPowerDown
  /-- LINK_DOWN (R412): Sixteen consecutive retries take a boundary direction or port down. -/
  | linkDown (link : Nat)
  /-- LINK_ERROR_RATE_REPLAN (R413): Retries above 1 in 2^20 flits over the window re-plan the chunks. -/
  | linkErrorRateReplan (link : Nat)
  /-- POWER_GRANT_REQUEST (R20): Writing GO applies or refuses the staged shares and power states. -/
  | powerGrantRequest
  /-- PACKAGE_ENTER_P3 (R418): Writing P3 puts the package into P3. -/
  | packageEnterP3
  /-- PACKAGE_LEAVE_P3 (R418): A management-endpoint command takes the package out of P3. -/
  | packageLeaveP3
  /-- POWER_MEASUREMENT_INTERVAL (R21): Every 4,096 cycles each die is throttled or restored and each stack held or released. -/
  | powerMeasurementInterval (dies : List Nat) (stks : List Nat)
  /-- DIE_RETURN_TO_P0 (R62): A parked die returns to P0 after the first request reaches it. -/
  | dieReturnToP0 (die : Nat)
  /-- UNIT_WITHDRAW (R419): The withdraw command takes a die, stack or I/O die out of service. -/
  | unitWithdraw (unit : Nat)
  /-- UNIT_RETURN (R419): The return command brings a withdrawn unit back into service. -/
  | unitReturn (unit : Nat)
  /-- CHECKPOINT_GO (R421): Writing GO quiesces the package and starts a whole-memory checkpoint. -/
  | checkpointGo
  /-- CHECKPOINT_COMPLETE (R422): The image has been sent or refused and the frozen cores resume. -/
  | checkpointComplete (ok : Bool)
  /-- LONG_LATENCY_INSTRUCTION_COMPLETE (R214): A long-latency instruction writes its result, after which the instruction beyond its window may issue and a deferred lookahead or window fault may freeze the core. -/
  | longLatencyInstructionComplete (cid : Nat)
  /-- POWER_LOSS (R407): Supply is lost without an orderly power-down, and counter increments since the last copy are lost. -/
  | powerLoss
  /-- THERMAL_EXCURSION (R407): A thermal excursion above the limit ends and its peak is counted in THERM. -/
  | thermalExcursion (die : Nat) (bucket : Nat)
  /-- SUPPLY_DROOP (R407): A supply droop below nominal is counted in DROOP by its depth. -/
  | supplyDroop (die : Nat) (bucket : Nat)
  /-- LINK_RETRY (R412): A die-to-die boundary direction or Ethernet port retries a flit or packet, which is counted in LINKRETRY and advances the count toward down. -/
  | linkRetry (link : Nat)
  /-- LINK_REENABLE (R412): System software re-enables a down boundary direction or port through its I/O die's firmware. -/
  | linkReenable (link : Nat)
  /-- UNIT_WITHDRAWAL_COMPLETE (R419): A withdrawing die, stack or I/O die reaches STATE out. -/
  | unitWithdrawalComplete (unit : Nat)
  /-- UNIT_RETURN_COMPLETE (R419): A returning unit reaches STATE in service, with its cores idle and its memory kept. -/
  | unitReturnComplete (unit : Nat)
  /-- INBOUND_UNSUPPORTED_PACKET (R408): A packet of reliable unordered idempotent or unreliable delivery, or of tagged messaging, arrives and is dropped and counted in INBREF. -/
  | inboundUnsupportedPacket (io : Nat)
  deriving DecidableEq, Repr

end Sys2Proof
end

