-- ==== Sys2Proof/WellFormed.lean ====
section
/-! DEFINITION. Which instructions are well formed: the conditions on several fields together that R207 checks. -/

namespace Sys2Proof

/-- An instruction over integers has its rounding field and both flush bits zero (R153). -/
def intPlain (ty : ElemType) (rnd : Rounding) (fzi fzo : Bool) : Bool :=
  ty.isFloat || (rnd == .rne && !fzi && !fzo)

/-- The field conditions of FCVT and VCVT: NOV only to E4M3, SAT only from an integer, and an all-integer conversion
with rounding and flush bits zero (R224, R278). -/
def cvtWf (ty src : ElemType) (rnd : Rounding) (fzi fzo sat nov : Bool) : Bool :=
  (!nov || ty == .e4m3) && (!sat || src.isInt) && (src.isFloat || intPlain ty rnd fzi fzo)

/-- The conditions that an encoding puts on several fields together: the fields that R207 wants zero for this type or
form. The operand types already hold the range of each single field. SAT and NOV of MMA, MMAS and MDRAIN are no unused fields
for the types on which they have no effect. DESIGN CHOICE, log entry 73. -/
def Instr.wf : Instr → Bool
  | .add .. => true
  | .sub .. => true
  | .mul .. => true
  | .mulh .. => true
  | .mulhu .. => true
  | .div .. => true
  | .divu .. => true
  | .rem .. => true
  | .remu .. => true
  | .andR .. => true
  | .orR .. => true
  | .xorR .. => true
  | .andn .. => true
  | .shl .. => true
  | .shr .. => true
  | .sar .. => true
  | .rot .. => true
  | .minS .. => true
  | .maxS .. => true
  | .minu .. => true
  | .maxu .. => true
  | .seq .. => true
  | .slt .. => true
  | .sltu .. => true
  | .addi .. => true
  | .subImm .. => true
  | .mulImm .. => true
  | .mulhImm .. => true
  | .mulhuImm .. => true
  | .divImm .. => true
  | .divuImm .. => true
  | .remImm .. => true
  | .remuImm .. => true
  | .andImm .. => true
  | .orImm .. => true
  | .xorImm .. => true
  | .andnImm .. => true
  | .shlImm .. => true
  | .shrImm .. => true
  | .sarImm .. => true
  | .rotImm .. => true
  | .minImm .. => true
  | .maxImm .. => true
  | .minuImm .. => true
  | .maxuImm .. => true
  | .seqImm .. => true
  | .sltImm .. => true
  | .sltuImm .. => true
  | .mad .. => true
  | .clz .. => true
  | .popc .. => true
  | .brev .. => true
  | .exts .. => true
  | .extu .. => true
  | .ins .. => true
  | .sel .. => true
  | .li .. => true
  | .lih .. => true
  | .addr .. => true
  | .fadd .. => true
  | .fsub .. => true
  | .fmul .. => true
  | .ffma .. => true
  | .fmin .. => true
  | .fmax .. => true
  | .fcmp .. => true
  | .fcvt _ _ ty src rnd fzi fzo sat nov => cvtWf ty src rnd fzi fzo sat nov
  | .br .. => true
  | .beq .. => true
  | .bne .. => true
  | .blt .. => true
  | .bge .. => true
  | .bltu .. => true
  | .bgeu .. => true
  | .bz .. => true
  | .bnz .. => true
  | .jmp .. => true
  | .call .. => true
  | .ret .. => true
  | .loop .. => true
  | .align .. => true
  | .rep .. => true
  | .nop => true
  | .retire => true
  | .ld _ _ _ _ _ _ scope ord => (ord == .rlx && scope == .thr) || ord == .acq
  | .st _ _ _ _ _ scope ord => (ord == .rlx && scope == .thr) || ord == .rel
  | .ldv .. => true
  | .stv .. => true
  | .ldvs .. => true
  | .stvs .. => true
  | .gath .. => true
  | .scat .. => true
  | .scatAcc ty _ _ _ _ _ _ _ _ rnd fzi fzo => intPlain ty rnd fzi fzo
  | .ldt .. => true
  | .stt .. => true
  | .tdecl .. => true
  | .tstateRead .. => true
  | .tstateArm .. => true
  | .tstateReady .. => true
  | .tstateEmpty .. => true
  | .tfree .. => true
  | .cinv .. => true
  | .cinvI .. => true
  | .cflush .. => true
  | .promote .. => true
  | .shpin .. => true
  | .shunpin .. => true
  | .bcastw .. => true
  | .amoAdd .. => true
  | .amoMin .. => true
  | .amoMax .. => true
  | .amoAnd .. => true
  | .amoOr .. => true
  | .amoXor .. => true
  | .amoSwap .. => true
  | .cas .. => true
  | .amaxf .. => true
  | .fence _ ord => ord != .rlx
  | .publ .. => true
  | .tide .. => true
  | .bari .. => true
  | .bara .. => true
  | .barw .. => true
  | .wbar .. => true
  | .cmpl .. => true
  | .waitw _ _ _ _ _ _ _ ord _ => ord == .rlx || ord == .acq
  | .vadd ty _ _ _ _ _ rnd fzi fzo sat => intPlain ty rnd fzi fzo && (!ty.isWideFloat || !sat)
  | .vsub ty _ _ _ _ _ rnd fzi fzo sat => intPlain ty rnd fzi fzo && (!ty.isWideFloat || !sat)
  | .vmul ty _ _ _ _ _ rnd fzi fzo sat => intPlain ty rnd fzi fzo && (!ty.isWideFloat || !sat)
  | .vfma ty _ _ _ _ _ _ rnd fzi fzo sat => intPlain ty rnd fzi fzo && (!ty.isWideFloat || !sat)
  | .vmin ty _ _ _ _ _ rnd fzi fzo sat => intPlain ty rnd fzi fzo && (!ty.isWideFloat || !sat)
  | .vmax ty _ _ _ _ _ rnd fzi fzo sat => intPlain ty rnd fzi fzo && (!ty.isWideFloat || !sat)
  | .vabs ty _ _ _ _ rnd fzi fzo sat => intPlain ty rnd fzi fzo && (!ty.isWideFloat || !sat)
  | .vneg ty _ _ _ _ rnd fzi fzo sat => intPlain ty rnd fzi fzo && (!ty.isWideFloat || !sat)
  | .vand .. => true
  | .vor .. => true
  | .vxor .. => true
  | .vshl _ _ _ b _ _ immk k => if immk then b == 0 else k == 0
  | .vshr _ _ _ b _ _ immk k => if immk then b == 0 else k == 0
  | .vsar _ _ _ b _ _ immk k => if immk then b == 0 else k == 0
  | .vcmp .. => true
  | .vsel .. => true
  | .vmov .. => true
  | .vmovToMask .. => true
  | .vmovFromMask .. => true
  | .vmovsToScalar .. => true
  | .vmovsToVector .. => true
  | .vbcast .. => true
  | .viota .. => true
  | .vcvt ty _ _ src _ _ rnd fzi fzo sat nov => cvtWf ty src rnd fzi fzo sat nov
  | .vwmul ty _ _ _ _ _ rnd fzi fzo => intPlain ty rnd fzi fzo
  | .vwadd ty _ _ _ _ _ rnd fzi fzo => intPlain ty rnd fzi fzo
  | .vnarrow _ _ _ _ mode _ _ _ => mode != 3
  | .vdot _ ty _ _ _ _ rnd fzi fzo sat => intPlain ty rnd fzi fzo && (!ty.isFloat || !sat)
  | .vred _ ty _ _ op _ rnd fzi fzo sat => decide (op.toNat ≤ 5) && intPlain ty rnd fzi fzo && (!sat || (ty.isInt && op == 0))
  | .vscan _ ty _ _ _ op _ _ rnd fzi fzo sat _ => decide (op.toNat ≤ 5) && intPlain ty rnd fzi fzo && (!sat || (ty.isInt && op == 0))
  | .vperm .. => true
  | .vrot .. => true
  | .vcompr .. => true
  | .vexpand .. => true
  | .vexp2 .. => true
  | .vexp .. => true
  | .vlog2 .. => true
  | .vlog .. => true
  | .vrcp .. => true
  | .vrsq .. => true
  | .vsqrt .. => true
  | .vtanh .. => true
  | .gang => true
  | .mzero .. => true
  | .mldb .. => true
  | .mgath .. => true
  | .mma _ ty _ _ rnd fzi fzo _ _ _ => intPlain ty rnd fzi fzo
  | .mmas _ ty _ _ _ rnd fzi fzo _ _ _ _ => intPlain ty rnd fzi fzo
  | .mcomp .. => true
  | .mscale .. => true
  | .mdrain _ ty _ cell scale rnd fzo _ _ nskip scope _ _ _ => (!ty.isInt || (scale == 0 && rnd == .rne && !fzo)) && (cell != 0 || (!nskip && scope == .thr))
  | .mdrainVault _ ty _ _ cell scale rnd fzo _ _ nskip scope _ => (!ty.isInt || (scale == 0 && rnd == .rne && !fzo)) && (cell != 0 || (!nskip && scope == .thr))
  | .copy .. => true
  | .copy2d .. => true
  | .put .. => true
  | .get .. => true
  | .radd .. => true
  | .trig .. => true
  | .cnti .. => true
  | .cntr .. => true
  | .htest .. => true
  | .hcancel .. => true
  | .hwait .. => true
  | .hwaitToken .. => true
  | .hmov .. => true
  | .htok .. => true
  | .rgrp .. => true
  | .rgrpFree .. => true
  | .nload .. => true
  | .redcfg .. => true
  | .rstep .. => true
  | .rstat .. => true
  | .sqins .. => true
  | .shins .. => true
  | .sdins .. => true
  | .smerge _ _ _ _ kind => kind != 3
  | .sqq .. => true
  | .sqrank .. => true
  | .shtop .. => true
  | .sdest .. => true
  | .scoin .. => true
  | .gnode .. => true
  | .gdep .. => true
  | .gsub .. => true
  | .crew .. => true
  | .yield .. => true
  | .rdc .. => true
  | .wrc .. => true
  | .trap .. => true
  | .pair .. => true
  | .unpair .. => true
  | .idle .. => true
  | .svres .. => true
  | .newtWord .. => true
  | .newtResultReady .. => true
  | .stepLeaveArmed .. => true
  | .stepMoveComplete .. => true
  | .stepPublishComplete .. => true
  | .stepTimeout .. => true
  | .nloadCopyDone .. => true
  | .powerUpBoot => true
  | .firmwareUpdate .. => true
  | .attestationRequest .. => true
  | .debugAuthenticate .. => true
  | .lifecycleAdvance .. => true
  | .registerWrite .. => true
  | .supervisorGo .. => true
  | .tlbInvalidateGo .. => true
  | .tlbInvalidateDone .. => true
  | .pageWalkComplete .. => true
  | .formatWindowDisable .. => true
  | .formatWindowDisableAck .. => true
  | .inboundRemoteWrite .. => true
  | .inboundRemoteRead .. => true
  | .inboundRemoteAtomic .. => true
  | .homeRequest .. => true
  | .dirtyFifoAck .. => true
  | .releaseComplete .. => true
  | .remoteLoadReply .. => true
  | .bankOperation .. => true
  | .refresh .. => true
  | .patrolScrub .. => true
  | .shmodeWrite .. => true
  | .bkmodeClearRefused .. => true
  | .shmodeChangeDone .. => true
  | .rowRetireGo .. => true
  | .rowRetireDone .. => true
  | .tileArrival .. => true
  | .engineOperationComplete .. => true
  | .copyEngineStart .. => true
  | .tideArrival .. => true
  | .ebbComplete .. => true
  | .domainEnable .. => true
  | .domainAbort .. => true
  | .deferredCompletionStore .. => true
  | .fetchPortServe .. => true
  | .icacheFill .. => true
  | .lineRefetch .. => true
  | .alignRelease .. => true
  | .alignBoundExpiry .. => true
  | .repPassIssue .. => true
  | .barrierWaitTimeout .. => true
  | .waitwTimeout .. => true
  | .waitwWindowPoll .. => true
  | .yieldExpiry .. => true
  | .idleTimeout .. => true
  | .pairTimeout .. => true
  | .gangBarrierComplete .. => true
  | .matrixOperandLoadDone .. => true
  | .successorReleaseMessage .. => true
  | .priorityAging .. => true
  | .dispatchTask .. => true
  | .dispatchGangtask .. => true
  | .dispatchCrew .. => true
  | .dispatchStep .. => true
  | .dispatchCopy .. => true
  | .queueEnable .. => true
  | .queueSwitchOut .. => true
  | .queueSwitchIn .. => true
  | .queueVisit .. => true
  | .tranarNop .. => true
  | .tranarGraph .. => true
  | .tranarCopy .. => true
  | .tranarStore .. => true
  | .faultPacketDelivery .. => true
  | .faultRingEnable .. => true
  | .debugUnpark .. => true
  | .debugEvict .. => true
  | .debugPcWrite .. => true
  | .automaticEviction .. => true
  | .contextRestore .. => true
  | .wakeEventRetry .. => true
  | .breakwaterFence .. => true
  | .breakwaterReset .. => true
  | .breakwaterResetDone .. => true
  | .breakwaterRelease .. => true
  | .pairIntervalClose .. => true
  | .pairFingerprintExchange .. => true
  | .redundantRunGo .. => true
  | .redundantRunCompare .. => true
  | .counterPersist .. => true
  | .orderlyPowerDown => true
  | .linkDown .. => true
  | .linkErrorRateReplan .. => true
  | .powerGrantRequest => true
  | .packageEnterP3 => true
  | .packageLeaveP3 => true
  | .powerMeasurementInterval .. => true
  | .dieReturnToP0 .. => true
  | .unitWithdraw .. => true
  | .unitReturn .. => true
  | .checkpointGo => true
  | .checkpointComplete .. => true
  | .longLatencyInstructionComplete .. => true
  | .powerLoss => true
  | .thermalExcursion .. => true
  | .supplyDroop .. => true
  | .linkRetry .. => true
  | .linkReenable .. => true
  | .unitWithdrawalComplete .. => true
  | .unitReturnComplete .. => true
  | .inboundUnsupportedPacket .. => true

end Sys2Proof
end

