-- ==== Sys2Proof/Decode.lean ====
section
/-! DEFINITION. The decoder of 96-bit slots (R207 to R213) and the encoder beside it, both from the field layout of
R208 and the opcode map of R212. -/

namespace Sys2Proof

/-- The fields of a slot, most significant first (R208). -/
structure Fields where
  major : BitVec 8 := 0#8
  minor : BitVec 8 := 0#8
  la : BitVec 4 := 0#4
  ty : BitVec 4 := 0#4
  dst : BitVec 6 := 0#6
  src1 : BitVec 6 := 0#6
  src2 : BitVec 6 := 0#6
  src3 : BitVec 6 := 0#6
  mask : BitVec 3 := 0#3
  z : BitVec 1 := 0#1
  rnd : BitVec 3 := 0#3
  fzi : BitVec 1 := 0#1
  fzo : BitVec 1 := 0#1
  ext : BitVec 7 := 0#7
  imm : BitVec 32 := 0#32
  deriving DecidableEq, Repr

/-- A slot from its fields (R208). -/
def Fields.pack (f : Fields) : Slot :=
  f.major ++ f.minor ++ f.la ++ f.ty ++ f.dst ++ f.src1 ++ f.src2 ++ f.src3 ++ f.mask ++ f.z ++ f.rnd ++ f.fzi ++ f.fzo
    ++ f.ext ++ f.imm

/-- The fields of a slot (R208). -/
def Fields.unpack (w : Slot) : Fields where
  major := w.extractLsb' 88 8
  minor := w.extractLsb' 80 8
  la := w.extractLsb' 76 4
  ty := w.extractLsb' 72 4
  dst := w.extractLsb' 66 6
  src1 := w.extractLsb' 60 6
  src2 := w.extractLsb' 54 6
  src3 := w.extractLsb' 48 6
  mask := w.extractLsb' 45 3
  z := w.extractLsb' 44 1
  rnd := w.extractLsb' 41 3
  fzi := w.extractLsb' 40 1
  fzo := w.extractLsb' 39 1
  ext := w.extractLsb' 32 7
  imm := w.extractLsb' 0 32

/-- A one-bit field as a Boolean. -/
def bit1 (b : BitVec 1) : Bool := b.getLsbD 0

/-- Why a slot is not an instruction (R207). -/
inductive DecodeError where
  /-- Fewer than twelve bytes. -/
  | short
  /-- The major or the minor opcode is not assigned. -/
  | undefinedInstruction
  /-- A field that must be zero is not, or a register number or a code is out of range. -/
  | reservedField
  deriving DecidableEq, Repr

/-- The instructions of major opcode 0x01 by their minors (R212). -/
def cand01 (f : Fields) : Option Instr :=
  if f.minor = 0x01#8 then
    some (.add (f.dst) (f.src1) (f.src2) (bit1 (f.ext.extractLsb' 0 1)))
  else if f.minor = 0x02#8 then
    some (.sub (f.dst) (f.src1) (f.src2) (bit1 (f.ext.extractLsb' 0 1)))
  else if f.minor = 0x03#8 then
    some (.mul (f.dst) (f.src1) (f.src2) (bit1 (f.ext.extractLsb' 0 1)))
  else if f.minor = 0x04#8 then
    some (.mulh (f.dst) (f.src1) (f.src2))
  else if f.minor = 0x05#8 then
    some (.mulhu (f.dst) (f.src1) (f.src2))
  else if f.minor = 0x06#8 then
    some (.div (f.la) (f.dst) (f.src1) (f.src2))
  else if f.minor = 0x07#8 then
    some (.divu (f.la) (f.dst) (f.src1) (f.src2))
  else if f.minor = 0x08#8 then
    some (.rem (f.la) (f.dst) (f.src1) (f.src2))
  else if f.minor = 0x09#8 then
    some (.remu (f.la) (f.dst) (f.src1) (f.src2))
  else if f.minor = 0x0A#8 then
    some (.andR (f.dst) (f.src1) (f.src2))
  else if f.minor = 0x0B#8 then
    some (.orR (f.dst) (f.src1) (f.src2))
  else if f.minor = 0x0C#8 then
    some (.xorR (f.dst) (f.src1) (f.src2))
  else if f.minor = 0x0D#8 then
    some (.andn (f.dst) (f.src1) (f.src2))
  else if f.minor = 0x0E#8 then
    some (.shl (f.dst) (f.src1) (f.src2))
  else if f.minor = 0x0F#8 then
    some (.shr (f.dst) (f.src1) (f.src2))
  else if f.minor = 0x10#8 then
    some (.sar (f.dst) (f.src1) (f.src2))
  else if f.minor = 0x11#8 then
    some (.rot (f.dst) (f.src1) (f.src2))
  else if f.minor = 0x12#8 then
    some (.minS (f.dst) (f.src1) (f.src2))
  else if f.minor = 0x13#8 then
    some (.maxS (f.dst) (f.src1) (f.src2))
  else if f.minor = 0x14#8 then
    some (.minu (f.dst) (f.src1) (f.src2))
  else if f.minor = 0x15#8 then
    some (.maxu (f.dst) (f.src1) (f.src2))
  else if f.minor = 0x16#8 then
    some (.seq (f.dst) (f.src1) (f.src2))
  else if f.minor = 0x17#8 then
    some (.slt (f.dst) (f.src1) (f.src2))
  else if f.minor = 0x18#8 then
    some (.sltu (f.dst) (f.src1) (f.src2))
  else none

/-- The instructions of major opcode 0x02 by their minors (R212). -/
def cand02 (f : Fields) : Option Instr :=
  if f.minor = 0x01#8 then
    some (.addi (f.dst) (f.src1) (f.imm))
  else if f.minor = 0x02#8 then
    some (.subImm (f.dst) (f.src1) (f.imm))
  else if f.minor = 0x03#8 then
    some (.mulImm (f.dst) (f.src1) (f.imm))
  else if f.minor = 0x04#8 then
    some (.mulhImm (f.dst) (f.src1) (f.imm))
  else if f.minor = 0x05#8 then
    some (.mulhuImm (f.dst) (f.src1) (f.imm))
  else if f.minor = 0x06#8 then
    some (.divImm (f.la) (f.dst) (f.src1) (f.imm))
  else if f.minor = 0x07#8 then
    some (.divuImm (f.la) (f.dst) (f.src1) (f.imm))
  else if f.minor = 0x08#8 then
    some (.remImm (f.la) (f.dst) (f.src1) (f.imm))
  else if f.minor = 0x09#8 then
    some (.remuImm (f.la) (f.dst) (f.src1) (f.imm))
  else if f.minor = 0x0A#8 then
    some (.andImm (f.dst) (f.src1) (f.imm))
  else if f.minor = 0x0B#8 then
    some (.orImm (f.dst) (f.src1) (f.imm))
  else if f.minor = 0x0C#8 then
    some (.xorImm (f.dst) (f.src1) (f.imm))
  else if f.minor = 0x0D#8 then
    some (.andnImm (f.dst) (f.src1) (f.imm))
  else if f.minor = 0x0E#8 then
    some (.shlImm (f.dst) (f.src1) (f.imm))
  else if f.minor = 0x0F#8 then
    some (.shrImm (f.dst) (f.src1) (f.imm))
  else if f.minor = 0x10#8 then
    some (.sarImm (f.dst) (f.src1) (f.imm))
  else if f.minor = 0x11#8 then
    some (.rotImm (f.dst) (f.src1) (f.imm))
  else if f.minor = 0x12#8 then
    some (.minImm (f.dst) (f.src1) (f.imm))
  else if f.minor = 0x13#8 then
    some (.maxImm (f.dst) (f.src1) (f.imm))
  else if f.minor = 0x14#8 then
    some (.minuImm (f.dst) (f.src1) (f.imm))
  else if f.minor = 0x15#8 then
    some (.maxuImm (f.dst) (f.src1) (f.imm))
  else if f.minor = 0x16#8 then
    some (.seqImm (f.dst) (f.src1) (f.imm))
  else if f.minor = 0x17#8 then
    some (.sltImm (f.dst) (f.src1) (f.imm))
  else if f.minor = 0x18#8 then
    some (.sltuImm (f.dst) (f.src1) (f.imm))
  else none

/-- The instructions of major opcode 0x03 by their minors (R212). -/
def cand03 (f : Fields) : Option Instr :=
  if f.minor = 0x01#8 then
    some (.mad (f.dst) (f.src1) (f.src2) (f.src3) (bit1 (f.ext.extractLsb' 0 1)))
  else if f.minor = 0x02#8 then
    some (.clz (f.dst) (f.src1))
  else if f.minor = 0x03#8 then
    some (.popc (f.dst) (f.src1))
  else if f.minor = 0x04#8 then
    some (.brev (f.dst) (f.src1))
  else if f.minor = 0x05#8 then
    some (.exts (f.dst) (f.src1) (f.imm.extractLsb' 0 6) (f.imm.extractLsb' 8 7))
  else if f.minor = 0x06#8 then
    some (.extu (f.dst) (f.src1) (f.imm.extractLsb' 0 6) (f.imm.extractLsb' 8 7))
  else if f.minor = 0x07#8 then
    some (.ins (f.dst) (f.src1) (f.imm.extractLsb' 0 6) (f.imm.extractLsb' 8 7))
  else if f.minor = 0x08#8 then
    some (.sel (f.dst) (f.src1) (f.src2) (f.src3))
  else none

/-- The instructions of major opcode 0x04 by their minors (R212). -/
def cand04 (f : Fields) : Option Instr :=
  if f.minor = 0x01#8 then
    some (.li (f.dst) (f.imm))
  else if f.minor = 0x02#8 then
    some (.lih (f.dst) (f.imm))
  else if f.minor = 0x03#8 then
    some (.addr (f.dst) (f.imm))
  else none

/-- The instructions of major opcode 0x08 by their minors (R212). -/
def cand08 (f : Fields) : Option Instr :=
  if f.minor = 0x01#8 then
    some (.fadd (f.dst) (f.src1) (f.src2) (ElemType.ofCode f.ty) (Rounding.ofCode f.rnd) (bit1 f.fzi) (bit1 f.fzo))
  else if f.minor = 0x02#8 then
    some (.fsub (f.dst) (f.src1) (f.src2) (ElemType.ofCode f.ty) (Rounding.ofCode f.rnd) (bit1 f.fzi) (bit1 f.fzo))
  else if f.minor = 0x03#8 then
    some (.fmul (f.dst) (f.src1) (f.src2) (ElemType.ofCode f.ty) (Rounding.ofCode f.rnd) (bit1 f.fzi) (bit1 f.fzo))
  else if f.minor = 0x04#8 then
    some (.ffma (f.dst) (f.src1) (f.src2) (f.src3) (ElemType.ofCode f.ty) (Rounding.ofCode f.rnd) (bit1 f.fzi) (bit1 f.fzo))
  else if f.minor = 0x05#8 then
    some (.fmin (f.dst) (f.src1) (f.src2) (ElemType.ofCode f.ty) (Rounding.ofCode f.rnd) (bit1 f.fzi) (bit1 f.fzo))
  else if f.minor = 0x06#8 then
    some (.fmax (f.dst) (f.src1) (f.src2) (ElemType.ofCode f.ty) (Rounding.ofCode f.rnd) (bit1 f.fzi) (bit1 f.fzo))
  else if f.minor = 0x07#8 then
    some (.fcmp (f.dst) (f.src1) (f.src2) (ElemType.ofCode f.ty) (Pred.ofCode (f.ext.extractLsb' 2 3)) (bit1 f.fzi) (bit1 f.fzo))
  else if f.minor = 0x08#8 then
    some (.fcvt (f.dst) (f.src1) (ElemType.ofCode f.ty) (ElemType.ofCode (f.ext.extractLsb' 2 4)) (Rounding.ofCode f.rnd) (bit1 f.fzi) (bit1 f.fzo) (bit1 (f.ext.extractLsb' 0 1)) (bit1 (f.ext.extractLsb' 1 1)))
  else none

/-- The instructions of major opcode 0x20 by their minors (R212). -/
def cand20 (f : Fields) : Option Instr :=
  if f.minor = 0x01#8 then
    some (.br (f.imm))
  else if f.minor = 0x02#8 then
    some (.beq (f.src1) (f.src2) (f.imm))
  else if f.minor = 0x03#8 then
    some (.bne (f.src1) (f.src2) (f.imm))
  else if f.minor = 0x04#8 then
    some (.blt (f.src1) (f.src2) (f.imm))
  else if f.minor = 0x05#8 then
    some (.bge (f.src1) (f.src2) (f.imm))
  else if f.minor = 0x06#8 then
    some (.bltu (f.src1) (f.src2) (f.imm))
  else if f.minor = 0x07#8 then
    some (.bgeu (f.src1) (f.src2) (f.imm))
  else if f.minor = 0x08#8 then
    some (.bz (f.src1) (f.imm))
  else if f.minor = 0x09#8 then
    some (.bnz (f.src1) (f.imm))
  else none

/-- The instructions of major opcode 0x21 by their minors (R212). -/
def cand21 (f : Fields) : Option Instr :=
  if f.minor = 0x01#8 then
    some (.jmp (f.dst) (f.src1))
  else if f.minor = 0x02#8 then
    some (.call (f.dst) (f.imm))
  else if f.minor = 0x03#8 then
    some (.ret (f.src1))
  else none

/-- The instructions of major opcode 0x22 by their minors (R212). -/
def cand22 (f : Fields) : Option Instr :=
  if f.minor = 0x01#8 then
    some (.loop (f.src1) (f.imm))
  else if f.minor = 0x02#8 then
    some (.align (f.imm))
  else if f.minor = 0x03#8 then
    some (.rep (f.src1) (f.imm))
  else if f.minor = 0x04#8 then
    some (.nop)
  else if f.minor = 0x05#8 then
    some (.retire)
  else none

/-- The instructions of major opcode 0x30 by their minors (R212). -/
def cand30 (f : Fields) : Option Instr :=
  if f.minor = 0x01#8 then
    some (.ld (f.la) (ElemType.ofCode f.ty) (f.dst) (f.src1) (f.imm) (ReqType.ofCode (f.ext.extractLsb' 0 2)) (Scope.ofCode (f.ext.extractLsb' 2 3)) (Order.ofCode f.rnd))
  else if f.minor = 0x02#8 then
    some (.st (ElemType.ofCode f.ty) (f.src1) (f.src2) (f.imm) (ReqType.ofCode (f.ext.extractLsb' 0 2)) (Scope.ofCode (f.ext.extractLsb' 2 3)) (Order.ofCode f.rnd))
  else none

/-- The instructions of major opcode 0x31 by their minors (R212). -/
def cand31 (f : Fields) : Option Instr :=
  if f.minor = 0x01#8 then
    some (.ldv (f.la) (ElemType.ofCode f.ty) (f.dst.setWidth 5) (f.src1) (f.imm) (f.mask) (bit1 f.z) (ReqType.ofCode (f.ext.extractLsb' 0 2)))
  else if f.minor = 0x02#8 then
    some (.stv (ElemType.ofCode f.ty) (f.src1) (f.src2.setWidth 5) (f.imm) (f.mask) (ReqType.ofCode (f.ext.extractLsb' 0 2)))
  else if f.minor = 0x03#8 then
    some (.ldvs (f.la) (ElemType.ofCode f.ty) (f.dst.setWidth 5) (f.src1) (f.src3) (f.imm) (f.mask) (bit1 f.z) (ReqType.ofCode (f.ext.extractLsb' 0 2)))
  else if f.minor = 0x04#8 then
    some (.stvs (ElemType.ofCode f.ty) (f.src1) (f.src2.setWidth 5) (f.src3) (f.imm) (f.mask) (ReqType.ofCode (f.ext.extractLsb' 0 2)))
  else none

/-- The instructions of major opcode 0x32 by their minors (R212). -/
def cand32 (f : Fields) : Option Instr :=
  if f.minor = 0x01#8 then
    some (.gath (f.la) (ElemType.ofCode f.ty) (f.dst.setWidth 5) (f.src1) (f.src2.setWidth 5) (f.src3) (f.imm) (f.mask) (bit1 f.z) (ReqType.ofCode (f.ext.extractLsb' 0 2)))
  else if f.minor = 0x02#8 then
    if f.ext.extractLsb' 5 1 = 0 then
      some (.scat (ElemType.ofCode f.ty) (f.src1) (f.src2.setWidth 5) (f.src3.setWidth 5) (f.dst) (f.imm) (f.mask) (ReqType.ofCode (f.ext.extractLsb' 0 2)))
    else
      some (.scatAcc (ElemType.ofCode f.ty) (f.src1) (f.src2.setWidth 5) (f.src3.setWidth 5) (f.dst) (f.imm) (f.mask) (ReqType.ofCode (f.ext.extractLsb' 0 2)) (Scope.ofCode (f.ext.extractLsb' 2 3)) (Rounding.ofCode f.rnd) (bit1 f.fzi) (bit1 f.fzo))
  else none

/-- The instructions of major opcode 0x33 by their minors (R212). -/
def cand33 (f : Fields) : Option Instr :=
  if f.minor = 0x01#8 then
    some (.ldt (f.la) (ElemType.ofCode f.ty) (f.dst.setWidth 5) (f.src1) (f.imm) (f.mask) (bit1 f.z))
  else if f.minor = 0x02#8 then
    some (.stt (ElemType.ofCode f.ty) (f.src1) (f.src2.setWidth 5) (f.imm) (f.mask))
  else if f.minor = 0x03#8 then
    some (.tdecl (f.src1) (f.src2) (f.ext.extractLsb' 5 2) (f.imm.extractLsb' 0 7))
  else if f.minor = 0x04#8 then
    if f.ext.extractLsb' 5 2 = 0 then
      some (.tstateRead (f.dst) (f.src1) (f.imm.extractLsb' 0 7))
    else if f.ext.extractLsb' 5 2 = 1 then
      some (.tstateArm (f.dst) (f.src1) (f.src2) (f.imm.extractLsb' 0 7))
    else if f.ext.extractLsb' 5 2 = 2 then
      some (.tstateReady (f.dst) (f.src1) (f.imm.extractLsb' 0 7))
    else
      some (.tstateEmpty (f.dst) (f.src1) (f.imm.extractLsb' 0 7))
  else if f.minor = 0x05#8 then
    some (.tfree (f.src1) (f.imm.extractLsb' 0 7))
  else none

/-- The instructions of major opcode 0x34 by their minors (R212). -/
def cand34 (f : Fields) : Option Instr :=
  if f.minor = 0x01#8 then
    if f.ext.extractLsb' 5 1 = 0 then
      some (.cinv (f.src1) (f.src2) (f.imm))
    else
      some (.cinvI (f.src1) (f.src2) (f.imm))
  else if f.minor = 0x02#8 then
    some (.cflush (f.src1) (f.src2) (f.imm))
  else none

/-- The instructions of major opcode 0x3A by their minors (R212). -/
def cand3A (f : Fields) : Option Instr :=
  if f.minor = 0x01#8 then
    some (.promote (f.la) (f.dst) (f.src1) (f.imm))
  else if f.minor = 0x02#8 then
    some (.shpin (f.la) (f.dst) (f.src1) (f.imm))
  else if f.minor = 0x03#8 then
    some (.shunpin (f.la) (f.dst) (f.src1) (bit1 (f.ext.extractLsb' 0 1)) (f.imm))
  else if f.minor = 0x04#8 then
    some (.bcastw (f.la) (f.src1) (f.src2.setWidth 5) (f.imm))
  else none

/-- The instructions of major opcode 0x40 by their minors (R212). -/
def cand40 (f : Fields) : Option Instr :=
  if f.minor = 0x01#8 then
    some (.amoAdd (f.la) (ElemType.ofCode f.ty) (f.dst) (f.src1) (f.src2) (f.imm) (ReqType.ofCode (f.ext.extractLsb' 0 2)) (Scope.ofCode (f.ext.extractLsb' 2 3)) (Order.ofCode f.rnd))
  else if f.minor = 0x02#8 then
    some (.amoMin (f.la) (ElemType.ofCode f.ty) (f.dst) (f.src1) (f.src2) (f.imm) (ReqType.ofCode (f.ext.extractLsb' 0 2)) (Scope.ofCode (f.ext.extractLsb' 2 3)) (Order.ofCode f.rnd))
  else if f.minor = 0x03#8 then
    some (.amoMax (f.la) (ElemType.ofCode f.ty) (f.dst) (f.src1) (f.src2) (f.imm) (ReqType.ofCode (f.ext.extractLsb' 0 2)) (Scope.ofCode (f.ext.extractLsb' 2 3)) (Order.ofCode f.rnd))
  else if f.minor = 0x04#8 then
    some (.amoAnd (f.la) (ElemType.ofCode f.ty) (f.dst) (f.src1) (f.src2) (f.imm) (ReqType.ofCode (f.ext.extractLsb' 0 2)) (Scope.ofCode (f.ext.extractLsb' 2 3)) (Order.ofCode f.rnd))
  else if f.minor = 0x05#8 then
    some (.amoOr (f.la) (ElemType.ofCode f.ty) (f.dst) (f.src1) (f.src2) (f.imm) (ReqType.ofCode (f.ext.extractLsb' 0 2)) (Scope.ofCode (f.ext.extractLsb' 2 3)) (Order.ofCode f.rnd))
  else if f.minor = 0x06#8 then
    some (.amoXor (f.la) (ElemType.ofCode f.ty) (f.dst) (f.src1) (f.src2) (f.imm) (ReqType.ofCode (f.ext.extractLsb' 0 2)) (Scope.ofCode (f.ext.extractLsb' 2 3)) (Order.ofCode f.rnd))
  else if f.minor = 0x07#8 then
    some (.amoSwap (f.la) (ElemType.ofCode f.ty) (f.dst) (f.src1) (f.src2) (f.imm) (ReqType.ofCode (f.ext.extractLsb' 0 2)) (Scope.ofCode (f.ext.extractLsb' 2 3)) (Order.ofCode f.rnd))
  else if f.minor = 0x08#8 then
    some (.cas (f.la) (ElemType.ofCode f.ty) (f.dst) (f.src1) (f.src2) (f.src3) (f.imm) (ReqType.ofCode (f.ext.extractLsb' 0 2)) (Scope.ofCode (f.ext.extractLsb' 2 3)) (Order.ofCode f.rnd))
  else if f.minor = 0x09#8 then
    some (.amaxf (f.la) (ElemType.ofCode f.ty) (f.dst) (f.src1) (f.src2) (f.imm) (ReqType.ofCode (f.ext.extractLsb' 0 2)) (Scope.ofCode (f.ext.extractLsb' 2 3)) (Order.ofCode f.rnd) (bit1 (f.ext.extractLsb' 5 1)))
  else none

/-- The instructions of major opcode 0x41 by their minors (R212). -/
def cand41 (f : Fields) : Option Instr :=
  if f.minor = 0x01#8 then
    some (.fence (Scope.ofCode (f.ext.extractLsb' 2 3)) (Order.ofCode f.rnd))
  else if f.minor = 0x02#8 then
    some (.publ (Scope.ofCode (f.ext.extractLsb' 2 3)) (f.imm))
  else if f.minor = 0x03#8 then
    some (.tide (f.imm))
  else none

/-- The instructions of major opcode 0x42 by their minors (R212). -/
def cand42 (f : Fields) : Option Instr :=
  if f.minor = 0x01#8 then
    some (.bari (f.src1) (f.src2) (f.imm) (ReqType.ofCode (f.ext.extractLsb' 0 2)) (Scope.ofCode (f.ext.extractLsb' 2 3)))
  else if f.minor = 0x02#8 then
    some (.bara (f.dst) (f.src1) (f.src2) (f.imm) (ReqType.ofCode (f.ext.extractLsb' 0 2)) (Scope.ofCode (f.ext.extractLsb' 2 3)))
  else if f.minor = 0x03#8 then
    some (.barw (f.dst) (f.src1) (f.src2) (f.imm) (ReqType.ofCode (f.ext.extractLsb' 0 2)) (Scope.ofCode (f.ext.extractLsb' 2 3)))
  else if f.minor = 0x04#8 then
    some (.wbar (f.dst) (f.src1) (f.src2) (f.imm) (ReqType.ofCode (f.ext.extractLsb' 0 2)) (Scope.ofCode (f.ext.extractLsb' 2 3)))
  else none

/-- The instructions of major opcode 0x43 by their minors (R212). -/
def cand43 (f : Fields) : Option Instr :=
  if f.minor = 0x01#8 then
    some (.cmpl (f.src1) (f.src2) (f.imm) (Scope.ofCode (f.ext.extractLsb' 2 3)))
  else if f.minor = 0x02#8 then
    some (.waitw (f.dst) (f.src1) (f.src2) (f.src3) (f.imm) (ReqType.ofCode (f.ext.extractLsb' 0 2)) (Scope.ofCode (f.ext.extractLsb' 2 3)) (Order.ofCode f.rnd) (Cond.ofCode (f.ext.extractLsb' 5 2)))
  else none

/-- The instructions of major opcode 0x50 by their minors (R212). -/
def cand50 (f : Fields) : Option Instr :=
  if f.minor = 0x01#8 then
    some (.vadd (ElemType.ofCode f.ty) (f.dst.setWidth 5) (f.src1.setWidth 5) (f.src2.setWidth 5) (f.mask) (bit1 f.z) (Rounding.ofCode f.rnd) (bit1 f.fzi) (bit1 f.fzo) (bit1 (f.ext.extractLsb' 0 1)))
  else if f.minor = 0x02#8 then
    some (.vsub (ElemType.ofCode f.ty) (f.dst.setWidth 5) (f.src1.setWidth 5) (f.src2.setWidth 5) (f.mask) (bit1 f.z) (Rounding.ofCode f.rnd) (bit1 f.fzi) (bit1 f.fzo) (bit1 (f.ext.extractLsb' 0 1)))
  else if f.minor = 0x03#8 then
    some (.vmul (ElemType.ofCode f.ty) (f.dst.setWidth 5) (f.src1.setWidth 5) (f.src2.setWidth 5) (f.mask) (bit1 f.z) (Rounding.ofCode f.rnd) (bit1 f.fzi) (bit1 f.fzo) (bit1 (f.ext.extractLsb' 0 1)))
  else if f.minor = 0x04#8 then
    some (.vfma (ElemType.ofCode f.ty) (f.dst.setWidth 5) (f.src1.setWidth 5) (f.src2.setWidth 5) (f.src3.setWidth 5) (f.mask) (bit1 f.z) (Rounding.ofCode f.rnd) (bit1 f.fzi) (bit1 f.fzo) (bit1 (f.ext.extractLsb' 0 1)))
  else if f.minor = 0x05#8 then
    some (.vmin (ElemType.ofCode f.ty) (f.dst.setWidth 5) (f.src1.setWidth 5) (f.src2.setWidth 5) (f.mask) (bit1 f.z) (Rounding.ofCode f.rnd) (bit1 f.fzi) (bit1 f.fzo) (bit1 (f.ext.extractLsb' 0 1)))
  else if f.minor = 0x06#8 then
    some (.vmax (ElemType.ofCode f.ty) (f.dst.setWidth 5) (f.src1.setWidth 5) (f.src2.setWidth 5) (f.mask) (bit1 f.z) (Rounding.ofCode f.rnd) (bit1 f.fzi) (bit1 f.fzo) (bit1 (f.ext.extractLsb' 0 1)))
  else if f.minor = 0x07#8 then
    some (.vabs (ElemType.ofCode f.ty) (f.dst.setWidth 5) (f.src1.setWidth 5) (f.mask) (bit1 f.z) (Rounding.ofCode f.rnd) (bit1 f.fzi) (bit1 f.fzo) (bit1 (f.ext.extractLsb' 0 1)))
  else if f.minor = 0x08#8 then
    some (.vneg (ElemType.ofCode f.ty) (f.dst.setWidth 5) (f.src1.setWidth 5) (f.mask) (bit1 f.z) (Rounding.ofCode f.rnd) (bit1 f.fzi) (bit1 f.fzo) (bit1 (f.ext.extractLsb' 0 1)))
  else none

/-- The instructions of major opcode 0x51 by their minors (R212). -/
def cand51 (f : Fields) : Option Instr :=
  if f.minor = 0x01#8 then
    some (.vand (ElemType.ofCode f.ty) (f.dst.setWidth 5) (f.src1.setWidth 5) (f.src2.setWidth 5) (f.mask) (bit1 f.z))
  else if f.minor = 0x02#8 then
    some (.vor (ElemType.ofCode f.ty) (f.dst.setWidth 5) (f.src1.setWidth 5) (f.src2.setWidth 5) (f.mask) (bit1 f.z))
  else if f.minor = 0x03#8 then
    some (.vxor (ElemType.ofCode f.ty) (f.dst.setWidth 5) (f.src1.setWidth 5) (f.src2.setWidth 5) (f.mask) (bit1 f.z))
  else if f.minor = 0x04#8 then
    some (.vshl (ElemType.ofCode f.ty) (f.dst.setWidth 5) (f.src1.setWidth 5) (f.src2.setWidth 5) (f.mask) (bit1 f.z) (bit1 (f.ext.extractLsb' 5 1)) (f.imm.extractLsb' 0 5))
  else if f.minor = 0x05#8 then
    some (.vshr (ElemType.ofCode f.ty) (f.dst.setWidth 5) (f.src1.setWidth 5) (f.src2.setWidth 5) (f.mask) (bit1 f.z) (bit1 (f.ext.extractLsb' 5 1)) (f.imm.extractLsb' 0 5))
  else if f.minor = 0x06#8 then
    some (.vsar (ElemType.ofCode f.ty) (f.dst.setWidth 5) (f.src1.setWidth 5) (f.src2.setWidth 5) (f.mask) (bit1 f.z) (bit1 (f.ext.extractLsb' 5 1)) (f.imm.extractLsb' 0 5))
  else none

/-- The instructions of major opcode 0x52 by their minors (R212). -/
def cand52 (f : Fields) : Option Instr :=
  if f.minor = 0x01#8 then
    some (.vcmp (ElemType.ofCode f.ty) (f.dst.setWidth 3) (f.src1.setWidth 5) (f.src2.setWidth 5) (Pred.ofCode (f.ext.extractLsb' 2 3)) (f.mask) (bit1 f.z))
  else if f.minor = 0x02#8 then
    some (.vsel (ElemType.ofCode f.ty) (f.dst.setWidth 5) (f.src1.setWidth 5) (f.src2.setWidth 5) (f.src3.setWidth 3) (f.mask) (bit1 f.z))
  else if f.minor = 0x03#8 then
    if f.ext.extractLsb' 2 2 = 0 ∨ f.ext.extractLsb' 2 2 = 3 then
      some (.vmov (ElemType.ofCode f.ty) (f.dst.setWidth 5) (f.src1.setWidth 5) (f.mask) (bit1 f.z))
    else if f.ext.extractLsb' 2 2 = 1 then
      some (.vmovToMask (f.dst.setWidth 3) (f.src1.setWidth 5))
    else
      some (.vmovFromMask (f.dst.setWidth 5) (f.src1.setWidth 3))
  else if f.minor = 0x04#8 then
    if f.ext.extractLsb' 5 1 = 0 then
      some (.vmovsToScalar (ElemType.ofCode f.ty) (f.dst) (f.src1.setWidth 5) (f.src2))
    else
      some (.vmovsToVector (ElemType.ofCode f.ty) (f.dst.setWidth 5) (f.src1) (f.src2))
  else if f.minor = 0x05#8 then
    some (.vbcast (ElemType.ofCode f.ty) (f.dst.setWidth 5) (f.src1) (f.mask) (bit1 f.z))
  else if f.minor = 0x06#8 then
    some (.viota (ElemType.ofCode f.ty) (f.dst.setWidth 5) (f.src1) (f.mask) (bit1 f.z))
  else none

/-- The instructions of major opcode 0x53 by their minors (R212). -/
def cand53 (f : Fields) : Option Instr :=
  if f.minor = 0x01#8 then
    some (.vcvt (ElemType.ofCode f.ty) (f.dst.setWidth 5) (f.src1.setWidth 5) (ElemType.ofCode (f.ext.extractLsb' 2 4)) (f.mask) (bit1 f.z) (Rounding.ofCode f.rnd) (bit1 f.fzi) (bit1 f.fzo) (bit1 (f.ext.extractLsb' 0 1)) (bit1 (f.ext.extractLsb' 1 1)))
  else if f.minor = 0x02#8 then
    some (.vwmul (ElemType.ofCode f.ty) (f.dst.setWidth 5) (f.src1.setWidth 5) (f.src2.setWidth 5) (f.mask) (bit1 f.z) (Rounding.ofCode f.rnd) (bit1 f.fzi) (bit1 f.fzo))
  else if f.minor = 0x03#8 then
    some (.vwadd (ElemType.ofCode f.ty) (f.dst.setWidth 5) (f.src1.setWidth 5) (f.src2.setWidth 5) (f.mask) (bit1 f.z) (Rounding.ofCode f.rnd) (bit1 f.fzi) (bit1 f.fzo))
  else if f.minor = 0x04#8 then
    some (.vnarrow (ElemType.ofCode f.ty) (f.dst.setWidth 5) (f.src1.setWidth 5) (f.imm.extractLsb' 0 5) (f.ext.extractLsb' 2 2) (f.mask) (bit1 f.z) (bit1 (f.ext.extractLsb' 0 1)))
  else none

/-- The instructions of major opcode 0x54 by their minors (R212). -/
def cand54 (f : Fields) : Option Instr :=
  if f.minor = 0x01#8 then
    some (.vdot (f.la) (ElemType.ofCode f.ty) (f.dst) (f.src1.setWidth 5) (f.src2.setWidth 5) (f.src3) (Rounding.ofCode f.rnd) (bit1 f.fzi) (bit1 f.fzo) (bit1 (f.ext.extractLsb' 0 1)))
  else if f.minor = 0x02#8 then
    some (.vred (f.la) (ElemType.ofCode f.ty) (f.dst) (f.src1.setWidth 5) (f.ext.extractLsb' 2 3) (f.mask) (Rounding.ofCode f.rnd) (bit1 f.fzi) (bit1 f.fzo) (bit1 (f.ext.extractLsb' 0 1)))
  else if f.minor = 0x03#8 then
    some (.vscan (f.la) (ElemType.ofCode f.ty) (f.dst.setWidth 5) (f.src1.setWidth 5) (f.src2) (f.ext.extractLsb' 2 3) (f.mask) (bit1 f.z) (Rounding.ofCode f.rnd) (bit1 f.fzi) (bit1 f.fzo) (bit1 (f.ext.extractLsb' 0 1)) (bit1 (f.ext.extractLsb' 5 1)))
  else none

/-- The instructions of major opcode 0x55 by their minors (R212). -/
def cand55 (f : Fields) : Option Instr :=
  if f.minor = 0x01#8 then
    some (.vperm (ElemType.ofCode f.ty) (f.dst.setWidth 5) (f.src1.setWidth 5) (f.src2.setWidth 5) (f.mask) (bit1 f.z))
  else if f.minor = 0x02#8 then
    some (.vrot (ElemType.ofCode f.ty) (f.dst.setWidth 5) (f.src1.setWidth 5) (f.src2) (f.mask) (bit1 f.z))
  else if f.minor = 0x03#8 then
    some (.vcompr (ElemType.ofCode f.ty) (f.dst.setWidth 5) (f.src1.setWidth 5) (f.mask) (bit1 f.z))
  else if f.minor = 0x04#8 then
    some (.vexpand (ElemType.ofCode f.ty) (f.dst.setWidth 5) (f.src1.setWidth 5) (f.mask) (bit1 f.z))
  else none

/-- The instructions of major opcode 0x80 by their minors (R212). -/
def cand80 (f : Fields) : Option Instr :=
  if f.minor = 0x01#8 then
    some (.vexp2 (f.la) (ElemType.ofCode f.ty) (f.dst.setWidth 5) (f.src1.setWidth 5) (f.mask) (bit1 f.z) (bit1 f.fzi) (bit1 f.fzo))
  else if f.minor = 0x02#8 then
    some (.vexp (f.la) (ElemType.ofCode f.ty) (f.dst.setWidth 5) (f.src1.setWidth 5) (f.mask) (bit1 f.z) (bit1 f.fzi) (bit1 f.fzo))
  else if f.minor = 0x03#8 then
    some (.vlog2 (f.la) (ElemType.ofCode f.ty) (f.dst.setWidth 5) (f.src1.setWidth 5) (f.mask) (bit1 f.z) (bit1 f.fzi) (bit1 f.fzo))
  else if f.minor = 0x04#8 then
    some (.vlog (f.la) (ElemType.ofCode f.ty) (f.dst.setWidth 5) (f.src1.setWidth 5) (f.mask) (bit1 f.z) (bit1 f.fzi) (bit1 f.fzo))
  else if f.minor = 0x05#8 then
    some (.vrcp (f.la) (ElemType.ofCode f.ty) (f.dst.setWidth 5) (f.src1.setWidth 5) (f.mask) (bit1 f.z) (bit1 f.fzi) (bit1 f.fzo))
  else if f.minor = 0x06#8 then
    some (.vrsq (f.la) (ElemType.ofCode f.ty) (f.dst.setWidth 5) (f.src1.setWidth 5) (f.mask) (bit1 f.z) (bit1 f.fzi) (bit1 f.fzo))
  else if f.minor = 0x07#8 then
    some (.vsqrt (f.la) (ElemType.ofCode f.ty) (f.dst.setWidth 5) (f.src1.setWidth 5) (f.mask) (bit1 f.z) (bit1 f.fzi) (bit1 f.fzo))
  else if f.minor = 0x08#8 then
    some (.vtanh (f.la) (ElemType.ofCode f.ty) (f.dst.setWidth 5) (f.src1.setWidth 5) (f.mask) (bit1 f.z) (bit1 f.fzi) (bit1 f.fzo))
  else none

/-- The instructions of major opcode 0x90 by their minors (R212). -/
def cand90 (f : Fields) : Option Instr :=
  if f.minor = 0x01#8 then
    some (.gang)
  else if f.minor = 0x02#8 then
    some (.mzero (ElemType.ofCode f.ty) (f.dst.setWidth 2) (f.src1))
  else if f.minor = 0x03#8 then
    some (.mldb (f.la) (ElemType.ofCode f.ty) (f.src1) (f.src2) (f.src3) (f.ext.extractLsb' 2 1) (bit1 (f.ext.extractLsb' 4 1)))
  else if f.minor = 0x04#8 then
    some (.mgath (f.la) (ElemType.ofCode f.ty) (f.src1) (f.src2.setWidth 5) (f.src3) (f.ext.extractLsb' 2 1) (f.imm))
  else if f.minor = 0x05#8 then
    some (.mma (f.la) (ElemType.ofCode f.ty) (f.dst.setWidth 2) (f.src1) (Rounding.ofCode f.rnd) (bit1 f.fzi) (bit1 f.fzo) (bit1 (f.ext.extractLsb' 0 1)) (bit1 (f.ext.extractLsb' 1 1)) (f.ext.extractLsb' 2 1))
  else if f.minor = 0x06#8 then
    some (.mmas (f.la) (ElemType.ofCode f.ty) (f.dst.setWidth 2) (f.src1) (f.src2.setWidth 5) (Rounding.ofCode f.rnd) (bit1 f.fzi) (bit1 f.fzo) (bit1 (f.ext.extractLsb' 0 1)) (bit1 (f.ext.extractLsb' 1 1)) (f.ext.extractLsb' 2 1) (bit1 (f.ext.extractLsb' 3 1)))
  else if f.minor = 0x07#8 then
    some (.mcomp (f.la) (ElemType.ofCode f.ty) (f.dst.setWidth 5) (f.src1) (f.src2) (f.src3) (bit1 (f.ext.extractLsb' 3 1)))
  else if f.minor = 0x08#8 then
    some (.mscale (ElemType.ofCode f.ty) (f.src1.setWidth 5) (f.ext.extractLsb' 2 1) (bit1 (f.ext.extractLsb' 3 1)))
  else if f.minor = 0x09#8 then
    if f.ext.extractLsb' 2 1 = 0 then
      some (.mdrain (f.la) (ElemType.ofCode f.ty) (f.dst.setWidth 5) (f.src2) (f.src3) (Rounding.ofCode f.rnd) (bit1 f.fzo) (bit1 (f.ext.extractLsb' 0 1)) (bit1 (f.ext.extractLsb' 1 1)) (bit1 (f.ext.extractLsb' 3 1)) (Scope.ofCode (f.ext.extractLsb' 4 3)) (f.imm.extractLsb' 0 2) (f.imm.extractLsb' 2 4) (f.imm.extractLsb' 6 4))
    else
      some (.mdrainVault (f.la) (ElemType.ofCode f.ty) (f.dst) (f.src1) (f.src2) (f.src3) (Rounding.ofCode f.rnd) (bit1 f.fzo) (bit1 (f.ext.extractLsb' 0 1)) (bit1 (f.ext.extractLsb' 1 1)) (bit1 (f.ext.extractLsb' 3 1)) (Scope.ofCode (f.ext.extractLsb' 4 3)) (f.imm.extractLsb' 0 2))
  else none

/-- The instructions of major opcode 0xA0 by their minors (R212). -/
def candA0 (f : Fields) : Option Instr :=
  if f.minor = 0x01#8 then
    some (.copy (f.dst.setWidth 4) (f.src1) (f.src2) (f.src3) (ReqType.ofCode (f.ext.extractLsb' 0 2)) (Scope.ofCode (f.ext.extractLsb' 2 3)) (bit1 (f.ext.extractLsb' 5 1)))
  else if f.minor = 0x02#8 then
    some (.copy2d (f.dst.setWidth 4) (f.src1) (f.src2) (f.src3) (ReqType.ofCode (f.ext.extractLsb' 0 2)) (Scope.ofCode (f.ext.extractLsb' 2 3)) (bit1 (f.ext.extractLsb' 5 1)))
  else none

/-- The instructions of major opcode 0xA1 by their minors (R212). -/
def candA1 (f : Fields) : Option Instr :=
  if f.minor = 0x01#8 then
    some (.put (f.dst.setWidth 4) (f.src1) (f.src2) (f.src3) (ReqType.ofCode (f.ext.extractLsb' 0 2)) (Scope.ofCode (f.ext.extractLsb' 2 3)) (bit1 (f.ext.extractLsb' 5 1)) (f.imm.extractLsb' 0 16))
  else if f.minor = 0x02#8 then
    some (.get (f.dst.setWidth 4) (f.src1) (f.src2) (f.src3) (ReqType.ofCode (f.ext.extractLsb' 0 2)) (Scope.ofCode (f.ext.extractLsb' 2 3)) (f.imm.extractLsb' 0 16))
  else if f.minor = 0x03#8 then
    some (.radd (ElemType.ofCode f.ty) (f.dst.setWidth 4) (f.src1) (f.src2) ⟨ReqType.ofCode (f.ext.extractLsb' 0 2), Scope.ofCode (f.ext.extractLsb' 2 3)⟩ (f.imm.extractLsb' 0 16))
  else if f.minor = 0x04#8 then
    some (.trig (f.dst.setWidth 4) (f.src1) ⟨ReqType.ofCode (f.ext.extractLsb' 0 2), Scope.ofCode (f.ext.extractLsb' 2 3)⟩)
  else none

/-- The instructions of major opcode 0xA2 by their minors (R212). -/
def candA2 (f : Fields) : Option Instr :=
  if f.minor = 0x01#8 then
    some (.cnti (f.imm.extractLsb' 0 8) (f.src2) (Scope.ofCode (f.ext.extractLsb' 2 3)) (bit1 (f.ext.extractLsb' 5 1)))
  else if f.minor = 0x02#8 then
    some (.cntr (f.dst) (f.imm.extractLsb' 0 8))
  else none

/-- The instructions of major opcode 0xA3 by their minors (R212). -/
def candA3 (f : Fields) : Option Instr :=
  if f.minor = 0x01#8 then
    some (.htest (f.dst) (f.src1.setWidth 4))
  else if f.minor = 0x02#8 then
    some (.hcancel (f.src1.setWidth 4))
  else if f.minor = 0x03#8 then
    if f.ext.extractLsb' 5 1 = 0 then
      some (.hwait (f.dst) (f.src1.setWidth 4))
    else
      some (.hwaitToken (f.dst) (f.src1))
  else if f.minor = 0x04#8 then
    some (.hmov (f.dst.setWidth 4) (f.src1.setWidth 4))
  else if f.minor = 0x05#8 then
    some (.htok (f.dst) (f.src1.setWidth 4))
  else none

/-- The instructions of major opcode 0xB0 by their minors (R212). -/
def candB0 (f : Fields) : Option Instr :=
  if f.minor = 0x01#8 then
    if f.ext.extractLsb' 5 1 = 0 then
      some (.rgrp (f.dst) (f.src1))
    else
      some (.rgrpFree (f.dst) (f.src1))
  else if f.minor = 0x02#8 then
    some (.nload (f.dst) (f.src1) (f.src2) (f.src3))
  else if f.minor = 0x03#8 then
    some (.redcfg (f.dst) (f.src1) (f.src2) (f.src3))
  else if f.minor = 0x04#8 then
    some (.rstep (f.dst.setWidth 4) (f.src1) (f.src2))
  else if f.minor = 0x05#8 then
    some (.rstat (f.dst) (f.src1) (f.imm))
  else none

/-- The instructions of major opcode 0xC0 by their minors (R212). -/
def candC0 (f : Fields) : Option Instr :=
  if f.minor = 0x01#8 then
    some (.sqins (ElemType.ofCode f.ty) (f.dst.setWidth 5) (f.src1.setWidth 5) (f.mask))
  else if f.minor = 0x02#8 then
    some (.shins (ElemType.ofCode f.ty) (f.dst.setWidth 5) (f.src1.setWidth 5) (f.mask))
  else if f.minor = 0x03#8 then
    some (.sdins (ElemType.ofCode f.ty) (f.dst.setWidth 5) (f.src1.setWidth 5) (f.mask))
  else if f.minor = 0x04#8 then
    some (.smerge (f.la) (f.dst.setWidth 5) (f.src1.setWidth 5) (f.src2.setWidth 5) (f.ext.extractLsb' 2 2))
  else if f.minor = 0x05#8 then
    some (.sqq (f.la) (f.dst) (f.src1.setWidth 5) (f.src2))
  else if f.minor = 0x06#8 then
    some (.sqrank (f.la) (f.dst) (f.src1.setWidth 5) (f.src2))
  else if f.minor = 0x07#8 then
    some (.shtop (f.dst) (f.src1.setWidth 5) (f.src2))
  else if f.minor = 0x08#8 then
    some (.sdest (f.dst) (f.src1.setWidth 5))
  else if f.minor = 0x09#8 then
    some (.scoin (f.dst.setWidth 5) (f.src1) (bit1 (f.ext.extractLsb' 5 1)))
  else none

/-- The instructions of major opcode 0xD0 by their minors (R212). -/
def candD0 (f : Fields) : Option Instr :=
  if f.minor = 0x01#8 then
    some (.gnode (f.dst) (f.src1))
  else if f.minor = 0x02#8 then
    some (.gdep (f.dst) (f.src1) (f.src2))
  else if f.minor = 0x03#8 then
    some (.gsub (f.dst.setWidth 4) (f.src1))
  else if f.minor = 0x04#8 then
    some (.crew (f.dst) (f.imm))
  else if f.minor = 0x05#8 then
    some (.yield (f.imm))
  else none

/-- The instructions of major opcode 0xE0 by their minors (R212). -/
def candE0 (f : Fields) : Option Instr :=
  if f.minor = 0x01#8 then
    some (.rdc (f.dst) (f.imm.extractLsb' 0 12))
  else if f.minor = 0x02#8 then
    some (.wrc (f.imm.extractLsb' 0 12) (f.src1))
  else if f.minor = 0x03#8 then
    some (.trap (f.imm.extractLsb' 0 16))
  else if f.minor = 0x04#8 then
    some (.pair (f.dst) (f.imm.extractLsb' 0 2))
  else if f.minor = 0x05#8 then
    some (.unpair (f.dst))
  else if f.minor = 0x06#8 then
    some (.idle (f.dst) (f.imm))
  else if f.minor = 0x07#8 then
    some (.svres (f.dst) (f.src1) (f.imm.extractLsb' 0 2) (f.imm.extractLsb' 4 4))
  else none

/-- The instruction that the major and minor opcodes select, its operands cut to their fields: none for an opcode the
map does not assign (R207 checks 1 and 2). Fields that must be zero, and codes out of range, are for `decodeFields`. -/
def cand (f : Fields) : Option Instr :=
  if f.major = 0x01#8 then cand01 f
  else if f.major = 0x02#8 then cand02 f
  else if f.major = 0x03#8 then cand03 f
  else if f.major = 0x04#8 then cand04 f
  else if f.major = 0x08#8 then cand08 f
  else if f.major = 0x20#8 then cand20 f
  else if f.major = 0x21#8 then cand21 f
  else if f.major = 0x22#8 then cand22 f
  else if f.major = 0x30#8 then cand30 f
  else if f.major = 0x31#8 then cand31 f
  else if f.major = 0x32#8 then cand32 f
  else if f.major = 0x33#8 then cand33 f
  else if f.major = 0x34#8 then cand34 f
  else if f.major = 0x3A#8 then cand3A f
  else if f.major = 0x40#8 then cand40 f
  else if f.major = 0x41#8 then cand41 f
  else if f.major = 0x42#8 then cand42 f
  else if f.major = 0x43#8 then cand43 f
  else if f.major = 0x50#8 then cand50 f
  else if f.major = 0x51#8 then cand51 f
  else if f.major = 0x52#8 then cand52 f
  else if f.major = 0x53#8 then cand53 f
  else if f.major = 0x54#8 then cand54 f
  else if f.major = 0x55#8 then cand55 f
  else if f.major = 0x80#8 then cand80 f
  else if f.major = 0x90#8 then cand90 f
  else if f.major = 0xA0#8 then candA0 f
  else if f.major = 0xA1#8 then candA1 f
  else if f.major = 0xA2#8 then candA2 f
  else if f.major = 0xA3#8 then candA3 f
  else if f.major = 0xB0#8 then candB0 f
  else if f.major = 0xC0#8 then candC0 f
  else if f.major = 0xD0#8 then candD0 f
  else if f.major = 0xE0#8 then candE0 f
  else none

/-- The fields of an instruction, by the format of its variant (R208) and its own chapter: none for an event, which has
no encoding. A field the instruction does not use is zero. -/
def encodeFields : Instr → Option Fields
  | .add dst a b sat => some { major := 0x01#8, minor := 0x01#8, dst := dst, src1 := a, src2 := b, ext := 0x0#6 ++ (BitVec.ofBool sat) }
  | .sub dst a b sat => some { major := 0x01#8, minor := 0x02#8, dst := dst, src1 := a, src2 := b, ext := 0x0#6 ++ (BitVec.ofBool sat) }
  | .mul dst a b sat => some { major := 0x01#8, minor := 0x03#8, dst := dst, src1 := a, src2 := b, ext := 0x0#6 ++ (BitVec.ofBool sat) }
  | .mulh dst a b => some { major := 0x01#8, minor := 0x04#8, dst := dst, src1 := a, src2 := b }
  | .mulhu dst a b => some { major := 0x01#8, minor := 0x05#8, dst := dst, src1 := a, src2 := b }
  | .div la dst a b => some { major := 0x01#8, minor := 0x06#8, la := la, dst := dst, src1 := a, src2 := b }
  | .divu la dst a b => some { major := 0x01#8, minor := 0x07#8, la := la, dst := dst, src1 := a, src2 := b }
  | .rem la dst a b => some { major := 0x01#8, minor := 0x08#8, la := la, dst := dst, src1 := a, src2 := b }
  | .remu la dst a b => some { major := 0x01#8, minor := 0x09#8, la := la, dst := dst, src1 := a, src2 := b }
  | .andR dst a b => some { major := 0x01#8, minor := 0x0A#8, dst := dst, src1 := a, src2 := b }
  | .orR dst a b => some { major := 0x01#8, minor := 0x0B#8, dst := dst, src1 := a, src2 := b }
  | .xorR dst a b => some { major := 0x01#8, minor := 0x0C#8, dst := dst, src1 := a, src2 := b }
  | .andn dst a b => some { major := 0x01#8, minor := 0x0D#8, dst := dst, src1 := a, src2 := b }
  | .shl dst a b => some { major := 0x01#8, minor := 0x0E#8, dst := dst, src1 := a, src2 := b }
  | .shr dst a b => some { major := 0x01#8, minor := 0x0F#8, dst := dst, src1 := a, src2 := b }
  | .sar dst a b => some { major := 0x01#8, minor := 0x10#8, dst := dst, src1 := a, src2 := b }
  | .rot dst a b => some { major := 0x01#8, minor := 0x11#8, dst := dst, src1 := a, src2 := b }
  | .minS dst a b => some { major := 0x01#8, minor := 0x12#8, dst := dst, src1 := a, src2 := b }
  | .maxS dst a b => some { major := 0x01#8, minor := 0x13#8, dst := dst, src1 := a, src2 := b }
  | .minu dst a b => some { major := 0x01#8, minor := 0x14#8, dst := dst, src1 := a, src2 := b }
  | .maxu dst a b => some { major := 0x01#8, minor := 0x15#8, dst := dst, src1 := a, src2 := b }
  | .seq dst a b => some { major := 0x01#8, minor := 0x16#8, dst := dst, src1 := a, src2 := b }
  | .slt dst a b => some { major := 0x01#8, minor := 0x17#8, dst := dst, src1 := a, src2 := b }
  | .sltu dst a b => some { major := 0x01#8, minor := 0x18#8, dst := dst, src1 := a, src2 := b }
  | .addi dst a imm => some { major := 0x02#8, minor := 0x01#8, dst := dst, src1 := a, imm := imm }
  | .subImm dst a imm => some { major := 0x02#8, minor := 0x02#8, dst := dst, src1 := a, imm := imm }
  | .mulImm dst a imm => some { major := 0x02#8, minor := 0x03#8, dst := dst, src1 := a, imm := imm }
  | .mulhImm dst a imm => some { major := 0x02#8, minor := 0x04#8, dst := dst, src1 := a, imm := imm }
  | .mulhuImm dst a imm => some { major := 0x02#8, minor := 0x05#8, dst := dst, src1 := a, imm := imm }
  | .divImm la dst a imm => some { major := 0x02#8, minor := 0x06#8, la := la, dst := dst, src1 := a, imm := imm }
  | .divuImm la dst a imm => some { major := 0x02#8, minor := 0x07#8, la := la, dst := dst, src1 := a, imm := imm }
  | .remImm la dst a imm => some { major := 0x02#8, minor := 0x08#8, la := la, dst := dst, src1 := a, imm := imm }
  | .remuImm la dst a imm => some { major := 0x02#8, minor := 0x09#8, la := la, dst := dst, src1 := a, imm := imm }
  | .andImm dst a imm => some { major := 0x02#8, minor := 0x0A#8, dst := dst, src1 := a, imm := imm }
  | .orImm dst a imm => some { major := 0x02#8, minor := 0x0B#8, dst := dst, src1 := a, imm := imm }
  | .xorImm dst a imm => some { major := 0x02#8, minor := 0x0C#8, dst := dst, src1 := a, imm := imm }
  | .andnImm dst a imm => some { major := 0x02#8, minor := 0x0D#8, dst := dst, src1 := a, imm := imm }
  | .shlImm dst a imm => some { major := 0x02#8, minor := 0x0E#8, dst := dst, src1 := a, imm := imm }
  | .shrImm dst a imm => some { major := 0x02#8, minor := 0x0F#8, dst := dst, src1 := a, imm := imm }
  | .sarImm dst a imm => some { major := 0x02#8, minor := 0x10#8, dst := dst, src1 := a, imm := imm }
  | .rotImm dst a imm => some { major := 0x02#8, minor := 0x11#8, dst := dst, src1 := a, imm := imm }
  | .minImm dst a imm => some { major := 0x02#8, minor := 0x12#8, dst := dst, src1 := a, imm := imm }
  | .maxImm dst a imm => some { major := 0x02#8, minor := 0x13#8, dst := dst, src1 := a, imm := imm }
  | .minuImm dst a imm => some { major := 0x02#8, minor := 0x14#8, dst := dst, src1 := a, imm := imm }
  | .maxuImm dst a imm => some { major := 0x02#8, minor := 0x15#8, dst := dst, src1 := a, imm := imm }
  | .seqImm dst a imm => some { major := 0x02#8, minor := 0x16#8, dst := dst, src1 := a, imm := imm }
  | .sltImm dst a imm => some { major := 0x02#8, minor := 0x17#8, dst := dst, src1 := a, imm := imm }
  | .sltuImm dst a imm => some { major := 0x02#8, minor := 0x18#8, dst := dst, src1 := a, imm := imm }
  | .mad dst a b c sat => some { major := 0x03#8, minor := 0x01#8, dst := dst, src1 := a, src2 := b, src3 := c, ext := 0x0#6 ++ (BitVec.ofBool sat) }
  | .clz dst a => some { major := 0x03#8, minor := 0x02#8, dst := dst, src1 := a }
  | .popc dst a => some { major := 0x03#8, minor := 0x03#8, dst := dst, src1 := a }
  | .brev dst a => some { major := 0x03#8, minor := 0x04#8, dst := dst, src1 := a }
  | .exts dst a pos w => some { major := 0x03#8, minor := 0x05#8, dst := dst, src1 := a, imm := 0x0#17 ++ w ++ 0x0#2 ++ pos }
  | .extu dst a pos w => some { major := 0x03#8, minor := 0x06#8, dst := dst, src1 := a, imm := 0x0#17 ++ w ++ 0x0#2 ++ pos }
  | .ins dst a pos w => some { major := 0x03#8, minor := 0x07#8, dst := dst, src1 := a, imm := 0x0#17 ++ w ++ 0x0#2 ++ pos }
  | .sel dst a b c => some { major := 0x03#8, minor := 0x08#8, dst := dst, src1 := a, src2 := b, src3 := c }
  | .li dst imm => some { major := 0x04#8, minor := 0x01#8, dst := dst, imm := imm }
  | .lih dst imm => some { major := 0x04#8, minor := 0x02#8, dst := dst, imm := imm }
  | .addr dst imm => some { major := 0x04#8, minor := 0x03#8, dst := dst, imm := imm }
  | .fadd dst a b ty rnd fzi fzo => some { major := 0x08#8, minor := 0x01#8, dst := dst, src1 := a, src2 := b, ty := ty.code, rnd := rnd.code, fzi := BitVec.ofBool fzi, fzo := BitVec.ofBool fzo }
  | .fsub dst a b ty rnd fzi fzo => some { major := 0x08#8, minor := 0x02#8, dst := dst, src1 := a, src2 := b, ty := ty.code, rnd := rnd.code, fzi := BitVec.ofBool fzi, fzo := BitVec.ofBool fzo }
  | .fmul dst a b ty rnd fzi fzo => some { major := 0x08#8, minor := 0x03#8, dst := dst, src1 := a, src2 := b, ty := ty.code, rnd := rnd.code, fzi := BitVec.ofBool fzi, fzo := BitVec.ofBool fzo }
  | .ffma dst a b c ty rnd fzi fzo => some { major := 0x08#8, minor := 0x04#8, dst := dst, src1 := a, src2 := b, src3 := c, ty := ty.code, rnd := rnd.code, fzi := BitVec.ofBool fzi, fzo := BitVec.ofBool fzo }
  | .fmin dst a b ty rnd fzi fzo => some { major := 0x08#8, minor := 0x05#8, dst := dst, src1 := a, src2 := b, ty := ty.code, rnd := rnd.code, fzi := BitVec.ofBool fzi, fzo := BitVec.ofBool fzo }
  | .fmax dst a b ty rnd fzi fzo => some { major := 0x08#8, minor := 0x06#8, dst := dst, src1 := a, src2 := b, ty := ty.code, rnd := rnd.code, fzi := BitVec.ofBool fzi, fzo := BitVec.ofBool fzo }
  | .fcmp dst a b ty p fzi fzo => some { major := 0x08#8, minor := 0x07#8, dst := dst, src1 := a, src2 := b, ty := ty.code, fzi := BitVec.ofBool fzi, fzo := BitVec.ofBool fzo, ext := 0x0#2 ++ p.code ++ 0x0#2 }
  | .fcvt dst a ty src rnd fzi fzo sat nov => some { major := 0x08#8, minor := 0x08#8, dst := dst, src1 := a, ty := ty.code, rnd := rnd.code, fzi := BitVec.ofBool fzi, fzo := BitVec.ofBool fzo, ext := 0x0#1 ++ src.code ++ (BitVec.ofBool nov) ++ (BitVec.ofBool sat) }
  | .br imm => some { major := 0x20#8, minor := 0x01#8, imm := imm }
  | .beq a b imm => some { major := 0x20#8, minor := 0x02#8, src1 := a, src2 := b, imm := imm }
  | .bne a b imm => some { major := 0x20#8, minor := 0x03#8, src1 := a, src2 := b, imm := imm }
  | .blt a b imm => some { major := 0x20#8, minor := 0x04#8, src1 := a, src2 := b, imm := imm }
  | .bge a b imm => some { major := 0x20#8, minor := 0x05#8, src1 := a, src2 := b, imm := imm }
  | .bltu a b imm => some { major := 0x20#8, minor := 0x06#8, src1 := a, src2 := b, imm := imm }
  | .bgeu a b imm => some { major := 0x20#8, minor := 0x07#8, src1 := a, src2 := b, imm := imm }
  | .bz a imm => some { major := 0x20#8, minor := 0x08#8, src1 := a, imm := imm }
  | .bnz a imm => some { major := 0x20#8, minor := 0x09#8, src1 := a, imm := imm }
  | .jmp dst a => some { major := 0x21#8, minor := 0x01#8, dst := dst, src1 := a }
  | .call dst imm => some { major := 0x21#8, minor := 0x02#8, dst := dst, imm := imm }
  | .ret a => some { major := 0x21#8, minor := 0x03#8, src1 := a }
  | .loop a imm => some { major := 0x22#8, minor := 0x01#8, src1 := a, imm := imm }
  | .align imm => some { major := 0x22#8, minor := 0x02#8, imm := imm }
  | .rep a imm => some { major := 0x22#8, minor := 0x03#8, src1 := a, imm := imm }
  | .nop => some { major := 0x22#8, minor := 0x04#8 }
  | .retire => some { major := 0x22#8, minor := 0x05#8 }
  | .ld la ty dst base imm req scope ord => some { major := 0x30#8, minor := 0x01#8, la := la, ty := ty.code, dst := dst, src1 := base, imm := imm, rnd := ord.code, ext := 0x0#2 ++ scope.code ++ req.code }
  | .st ty base data imm req scope ord => some { major := 0x30#8, minor := 0x02#8, ty := ty.code, src1 := base, src2 := data, imm := imm, rnd := ord.code, ext := 0x0#2 ++ scope.code ++ req.code }
  | .ldv la ty dst base imm mask z req => some { major := 0x31#8, minor := 0x01#8, la := la, ty := ty.code, dst := dst.setWidth 6, src1 := base, imm := imm, mask := mask, z := BitVec.ofBool z, ext := 0x0#5 ++ req.code }
  | .stv ty base data imm mask req => some { major := 0x31#8, minor := 0x02#8, ty := ty.code, src1 := base, src2 := data.setWidth 6, imm := imm, mask := mask, ext := 0x0#5 ++ req.code }
  | .ldvs la ty dst base stride imm mask z req => some { major := 0x31#8, minor := 0x03#8, la := la, ty := ty.code, dst := dst.setWidth 6, src1 := base, src3 := stride, imm := imm, mask := mask, z := BitVec.ofBool z, ext := 0x0#5 ++ req.code }
  | .stvs ty base data stride imm mask req => some { major := 0x31#8, minor := 0x04#8, ty := ty.code, src1 := base, src2 := data.setWidth 6, src3 := stride, imm := imm, mask := mask, ext := 0x0#5 ++ req.code }
  | .gath la ty dst base idx extent imm mask z req => some { major := 0x32#8, minor := 0x01#8, la := la, ty := ty.code, dst := dst.setWidth 6, src1 := base, src2 := idx.setWidth 6, src3 := extent, imm := imm, mask := mask, z := BitVec.ofBool z, ext := 0x0#5 ++ req.code }
  | .scat ty base idx data extent imm mask req => some { major := 0x32#8, minor := 0x02#8, ty := ty.code, src1 := base, src2 := idx.setWidth 6, src3 := data.setWidth 6, dst := extent, imm := imm, mask := mask, ext := 0x0#5 ++ req.code }
  | .scatAcc ty base idx data extent imm mask req scope rnd fzi fzo => some { major := 0x32#8, minor := 0x02#8, ty := ty.code, src1 := base, src2 := idx.setWidth 6, src3 := data.setWidth 6, dst := extent, imm := imm, mask := mask, rnd := rnd.code, fzi := BitVec.ofBool fzi, fzo := BitVec.ofBool fzo, ext := 0x1#2 ++ scope.code ++ req.code }
  | .ldt la ty dst base imm mask z => some { major := 0x33#8, minor := 0x01#8, la := la, ty := ty.code, dst := dst.setWidth 6, src1 := base, imm := imm, mask := mask, z := BitVec.ofBool z }
  | .stt ty base data imm mask => some { major := 0x33#8, minor := 0x02#8, ty := ty.code, src1 := base, src2 := data.setWidth 6, imm := imm, mask := mask }
  | .tdecl base size mode e => some { major := 0x33#8, minor := 0x03#8, src1 := base, src2 := size, ext := mode ++ 0x0#5, imm := 0x0#25 ++ e }
  | .tstateRead dst base e => some { major := 0x33#8, minor := 0x04#8, dst := dst, src1 := base, imm := 0x0#25 ++ e }
  | .tstateArm dst base n e => some { major := 0x33#8, minor := 0x04#8, dst := dst, src1 := base, src2 := n, ext := 0x20#7, imm := 0x0#25 ++ e }
  | .tstateReady dst base e => some { major := 0x33#8, minor := 0x04#8, dst := dst, src1 := base, ext := 0x40#7, imm := 0x0#25 ++ e }
  | .tstateEmpty dst base e => some { major := 0x33#8, minor := 0x04#8, dst := dst, src1 := base, ext := 0x60#7, imm := 0x0#25 ++ e }
  | .tfree base e => some { major := 0x33#8, minor := 0x05#8, src1 := base, imm := 0x0#25 ++ e }
  | .cinv base len imm => some { major := 0x34#8, minor := 0x01#8, src1 := base, src2 := len, imm := imm }
  | .cinvI base len imm => some { major := 0x34#8, minor := 0x01#8, src1 := base, src2 := len, imm := imm, ext := 0x20#7 }
  | .cflush base len imm => some { major := 0x34#8, minor := 0x02#8, src1 := base, src2 := len, imm := imm }
  | .promote la dst base imm => some { major := 0x3A#8, minor := 0x01#8, la := la, dst := dst, src1 := base, imm := imm }
  | .shpin la dst base imm => some { major := 0x3A#8, minor := 0x02#8, la := la, dst := dst, src1 := base, imm := imm }
  | .shunpin la dst base d imm => some { major := 0x3A#8, minor := 0x03#8, la := la, dst := dst, src1 := base, imm := imm, ext := 0x0#6 ++ (BitVec.ofBool d) }
  | .bcastw la base data imm => some { major := 0x3A#8, minor := 0x04#8, la := la, src1 := base, src2 := data.setWidth 6, imm := imm }
  | .amoAdd la ty dst base b imm req scope ord => some { major := 0x40#8, minor := 0x01#8, la := la, ty := ty.code, dst := dst, src1 := base, src2 := b, imm := imm, rnd := ord.code, ext := 0x0#2 ++ scope.code ++ req.code }
  | .amoMin la ty dst base b imm req scope ord => some { major := 0x40#8, minor := 0x02#8, la := la, ty := ty.code, dst := dst, src1 := base, src2 := b, imm := imm, rnd := ord.code, ext := 0x0#2 ++ scope.code ++ req.code }
  | .amoMax la ty dst base b imm req scope ord => some { major := 0x40#8, minor := 0x03#8, la := la, ty := ty.code, dst := dst, src1 := base, src2 := b, imm := imm, rnd := ord.code, ext := 0x0#2 ++ scope.code ++ req.code }
  | .amoAnd la ty dst base b imm req scope ord => some { major := 0x40#8, minor := 0x04#8, la := la, ty := ty.code, dst := dst, src1 := base, src2 := b, imm := imm, rnd := ord.code, ext := 0x0#2 ++ scope.code ++ req.code }
  | .amoOr la ty dst base b imm req scope ord => some { major := 0x40#8, minor := 0x05#8, la := la, ty := ty.code, dst := dst, src1 := base, src2 := b, imm := imm, rnd := ord.code, ext := 0x0#2 ++ scope.code ++ req.code }
  | .amoXor la ty dst base b imm req scope ord => some { major := 0x40#8, minor := 0x06#8, la := la, ty := ty.code, dst := dst, src1 := base, src2 := b, imm := imm, rnd := ord.code, ext := 0x0#2 ++ scope.code ++ req.code }
  | .amoSwap la ty dst base b imm req scope ord => some { major := 0x40#8, minor := 0x07#8, la := la, ty := ty.code, dst := dst, src1 := base, src2 := b, imm := imm, rnd := ord.code, ext := 0x0#2 ++ scope.code ++ req.code }
  | .cas la ty dst base b c imm req scope ord => some { major := 0x40#8, minor := 0x08#8, la := la, ty := ty.code, dst := dst, src1 := base, src2 := b, src3 := c, imm := imm, rnd := ord.code, ext := 0x0#2 ++ scope.code ++ req.code }
  | .amaxf la ty dst base b imm req scope ord nskip => some { major := 0x40#8, minor := 0x09#8, la := la, ty := ty.code, dst := dst, src1 := base, src2 := b, imm := imm, rnd := ord.code, ext := 0x0#1 ++ (BitVec.ofBool nskip) ++ scope.code ++ req.code }
  | .fence scope ord => some { major := 0x41#8, minor := 0x01#8, rnd := ord.code, ext := 0x0#2 ++ scope.code ++ 0x0#2 }
  | .publ scope level => some { major := 0x41#8, minor := 0x02#8, imm := level, ext := 0x0#2 ++ scope.code ++ 0x0#2 }
  | .tide level => some { major := 0x41#8, minor := 0x03#8, imm := level }
  | .bari base b imm req scope => some { major := 0x42#8, minor := 0x01#8, src1 := base, src2 := b, imm := imm, ext := 0x0#2 ++ scope.code ++ req.code }
  | .bara dst base n imm req scope => some { major := 0x42#8, minor := 0x02#8, dst := dst, src1 := base, src2 := n, imm := imm, ext := 0x0#2 ++ scope.code ++ req.code }
  | .barw dst base p imm req scope => some { major := 0x42#8, minor := 0x03#8, dst := dst, src1 := base, src2 := p, imm := imm, ext := 0x0#2 ++ scope.code ++ req.code }
  | .wbar dst base n imm req scope => some { major := 0x42#8, minor := 0x04#8, dst := dst, src1 := base, src2 := n, imm := imm, ext := 0x0#2 ++ scope.code ++ req.code }
  | .cmpl base v imm scope => some { major := 0x43#8, minor := 0x01#8, src1 := base, src2 := v, imm := imm, ext := 0x0#2 ++ scope.code ++ 0x0#2 }
  | .waitw dst base v bound imm req scope ord cond => some { major := 0x43#8, minor := 0x02#8, dst := dst, src1 := base, src2 := v, src3 := bound, imm := imm, rnd := ord.code, ext := cond.code ++ scope.code ++ req.code }
  | .vadd ty dst a b mask z rnd fzi fzo sat => some { major := 0x50#8, minor := 0x01#8, ty := ty.code, dst := dst.setWidth 6, src1 := a.setWidth 6, src2 := b.setWidth 6, mask := mask, z := BitVec.ofBool z, rnd := rnd.code, fzi := BitVec.ofBool fzi, fzo := BitVec.ofBool fzo, ext := 0x0#6 ++ (BitVec.ofBool sat) }
  | .vsub ty dst a b mask z rnd fzi fzo sat => some { major := 0x50#8, minor := 0x02#8, ty := ty.code, dst := dst.setWidth 6, src1 := a.setWidth 6, src2 := b.setWidth 6, mask := mask, z := BitVec.ofBool z, rnd := rnd.code, fzi := BitVec.ofBool fzi, fzo := BitVec.ofBool fzo, ext := 0x0#6 ++ (BitVec.ofBool sat) }
  | .vmul ty dst a b mask z rnd fzi fzo sat => some { major := 0x50#8, minor := 0x03#8, ty := ty.code, dst := dst.setWidth 6, src1 := a.setWidth 6, src2 := b.setWidth 6, mask := mask, z := BitVec.ofBool z, rnd := rnd.code, fzi := BitVec.ofBool fzi, fzo := BitVec.ofBool fzo, ext := 0x0#6 ++ (BitVec.ofBool sat) }
  | .vfma ty dst a b c mask z rnd fzi fzo sat => some { major := 0x50#8, minor := 0x04#8, ty := ty.code, dst := dst.setWidth 6, src1 := a.setWidth 6, src2 := b.setWidth 6, src3 := c.setWidth 6, mask := mask, z := BitVec.ofBool z, rnd := rnd.code, fzi := BitVec.ofBool fzi, fzo := BitVec.ofBool fzo, ext := 0x0#6 ++ (BitVec.ofBool sat) }
  | .vmin ty dst a b mask z rnd fzi fzo sat => some { major := 0x50#8, minor := 0x05#8, ty := ty.code, dst := dst.setWidth 6, src1 := a.setWidth 6, src2 := b.setWidth 6, mask := mask, z := BitVec.ofBool z, rnd := rnd.code, fzi := BitVec.ofBool fzi, fzo := BitVec.ofBool fzo, ext := 0x0#6 ++ (BitVec.ofBool sat) }
  | .vmax ty dst a b mask z rnd fzi fzo sat => some { major := 0x50#8, minor := 0x06#8, ty := ty.code, dst := dst.setWidth 6, src1 := a.setWidth 6, src2 := b.setWidth 6, mask := mask, z := BitVec.ofBool z, rnd := rnd.code, fzi := BitVec.ofBool fzi, fzo := BitVec.ofBool fzo, ext := 0x0#6 ++ (BitVec.ofBool sat) }
  | .vabs ty dst a mask z rnd fzi fzo sat => some { major := 0x50#8, minor := 0x07#8, ty := ty.code, dst := dst.setWidth 6, src1 := a.setWidth 6, mask := mask, z := BitVec.ofBool z, rnd := rnd.code, fzi := BitVec.ofBool fzi, fzo := BitVec.ofBool fzo, ext := 0x0#6 ++ (BitVec.ofBool sat) }
  | .vneg ty dst a mask z rnd fzi fzo sat => some { major := 0x50#8, minor := 0x08#8, ty := ty.code, dst := dst.setWidth 6, src1 := a.setWidth 6, mask := mask, z := BitVec.ofBool z, rnd := rnd.code, fzi := BitVec.ofBool fzi, fzo := BitVec.ofBool fzo, ext := 0x0#6 ++ (BitVec.ofBool sat) }
  | .vand ty dst a b mask z => some { major := 0x51#8, minor := 0x01#8, ty := ty.code, dst := dst.setWidth 6, src1 := a.setWidth 6, src2 := b.setWidth 6, mask := mask, z := BitVec.ofBool z }
  | .vor ty dst a b mask z => some { major := 0x51#8, minor := 0x02#8, ty := ty.code, dst := dst.setWidth 6, src1 := a.setWidth 6, src2 := b.setWidth 6, mask := mask, z := BitVec.ofBool z }
  | .vxor ty dst a b mask z => some { major := 0x51#8, minor := 0x03#8, ty := ty.code, dst := dst.setWidth 6, src1 := a.setWidth 6, src2 := b.setWidth 6, mask := mask, z := BitVec.ofBool z }
  | .vshl ty dst a b mask z immk k => some { major := 0x51#8, minor := 0x04#8, ty := ty.code, dst := dst.setWidth 6, src1 := a.setWidth 6, src2 := b.setWidth 6, mask := mask, z := BitVec.ofBool z, ext := 0x0#1 ++ (BitVec.ofBool immk) ++ 0x0#5, imm := 0x0#27 ++ k }
  | .vshr ty dst a b mask z immk k => some { major := 0x51#8, minor := 0x05#8, ty := ty.code, dst := dst.setWidth 6, src1 := a.setWidth 6, src2 := b.setWidth 6, mask := mask, z := BitVec.ofBool z, ext := 0x0#1 ++ (BitVec.ofBool immk) ++ 0x0#5, imm := 0x0#27 ++ k }
  | .vsar ty dst a b mask z immk k => some { major := 0x51#8, minor := 0x06#8, ty := ty.code, dst := dst.setWidth 6, src1 := a.setWidth 6, src2 := b.setWidth 6, mask := mask, z := BitVec.ofBool z, ext := 0x0#1 ++ (BitVec.ofBool immk) ++ 0x0#5, imm := 0x0#27 ++ k }
  | .vcmp ty dst a b p mask z => some { major := 0x52#8, minor := 0x01#8, ty := ty.code, dst := dst.setWidth 6, src1 := a.setWidth 6, src2 := b.setWidth 6, mask := mask, z := BitVec.ofBool z, ext := 0x0#2 ++ p.code ++ 0x0#2 }
  | .vsel ty dst a b mc mask z => some { major := 0x52#8, minor := 0x02#8, ty := ty.code, dst := dst.setWidth 6, src1 := a.setWidth 6, src2 := b.setWidth 6, src3 := mc.setWidth 6, mask := mask, z := BitVec.ofBool z }
  | .vmov ty dst a mask z => some { major := 0x52#8, minor := 0x03#8, ty := ty.code, dst := dst.setWidth 6, src1 := a.setWidth 6, mask := mask, z := BitVec.ofBool z }
  | .vmovToMask dst a => some { major := 0x52#8, minor := 0x03#8, dst := dst.setWidth 6, src1 := a.setWidth 6, ext := 0x4#7 }
  | .vmovFromMask dst a => some { major := 0x52#8, minor := 0x03#8, dst := dst.setWidth 6, src1 := a.setWidth 6, ext := 0x8#7 }
  | .vmovsToScalar ty dst a k => some { major := 0x52#8, minor := 0x04#8, ty := ty.code, dst := dst, src1 := a.setWidth 6, src2 := k }
  | .vmovsToVector ty dst a k => some { major := 0x52#8, minor := 0x04#8, ty := ty.code, dst := dst.setWidth 6, src1 := a, src2 := k, ext := 0x20#7 }
  | .vbcast ty dst a mask z => some { major := 0x52#8, minor := 0x05#8, ty := ty.code, dst := dst.setWidth 6, src1 := a, mask := mask, z := BitVec.ofBool z }
  | .viota ty dst a mask z => some { major := 0x52#8, minor := 0x06#8, ty := ty.code, dst := dst.setWidth 6, src1 := a, mask := mask, z := BitVec.ofBool z }
  | .vcvt ty dst a src mask z rnd fzi fzo sat nov => some { major := 0x53#8, minor := 0x01#8, ty := ty.code, dst := dst.setWidth 6, src1 := a.setWidth 6, mask := mask, z := BitVec.ofBool z, rnd := rnd.code, fzi := BitVec.ofBool fzi, fzo := BitVec.ofBool fzo, ext := 0x0#1 ++ src.code ++ (BitVec.ofBool nov) ++ (BitVec.ofBool sat) }
  | .vwmul ty dst a b mask z rnd fzi fzo => some { major := 0x53#8, minor := 0x02#8, ty := ty.code, dst := dst.setWidth 6, src1 := a.setWidth 6, src2 := b.setWidth 6, mask := mask, z := BitVec.ofBool z, rnd := rnd.code, fzi := BitVec.ofBool fzi, fzo := BitVec.ofBool fzo }
  | .vwadd ty dst a b mask z rnd fzi fzo => some { major := 0x53#8, minor := 0x03#8, ty := ty.code, dst := dst.setWidth 6, src1 := a.setWidth 6, src2 := b.setWidth 6, mask := mask, z := BitVec.ofBool z, rnd := rnd.code, fzi := BitVec.ofBool fzi, fzo := BitVec.ofBool fzo }
  | .vnarrow ty dst a sh mode mask z sat => some { major := 0x53#8, minor := 0x04#8, ty := ty.code, dst := dst.setWidth 6, src1 := a.setWidth 6, mask := mask, z := BitVec.ofBool z, ext := 0x0#3 ++ mode ++ 0x0#1 ++ (BitVec.ofBool sat), imm := 0x0#27 ++ sh }
  | .vdot la ty dst a b len rnd fzi fzo sat => some { major := 0x54#8, minor := 0x01#8, la := la, ty := ty.code, dst := dst, src1 := a.setWidth 6, src2 := b.setWidth 6, src3 := len, rnd := rnd.code, fzi := BitVec.ofBool fzi, fzo := BitVec.ofBool fzo, ext := 0x0#6 ++ (BitVec.ofBool sat) }
  | .vred la ty dst a op mask rnd fzi fzo sat => some { major := 0x54#8, minor := 0x02#8, la := la, ty := ty.code, dst := dst, src1 := a.setWidth 6, mask := mask, rnd := rnd.code, fzi := BitVec.ofBool fzi, fzo := BitVec.ofBool fzo, ext := 0x0#2 ++ op ++ 0x0#1 ++ (BitVec.ofBool sat) }
  | .vscan la ty dst a init op mask z rnd fzi fzo sat excl => some { major := 0x54#8, minor := 0x03#8, la := la, ty := ty.code, dst := dst.setWidth 6, src1 := a.setWidth 6, src2 := init, mask := mask, z := BitVec.ofBool z, rnd := rnd.code, fzi := BitVec.ofBool fzi, fzo := BitVec.ofBool fzo, ext := 0x0#1 ++ (BitVec.ofBool excl) ++ op ++ 0x0#1 ++ (BitVec.ofBool sat) }
  | .vperm ty dst a b mask z => some { major := 0x55#8, minor := 0x01#8, ty := ty.code, dst := dst.setWidth 6, src1 := a.setWidth 6, src2 := b.setWidth 6, mask := mask, z := BitVec.ofBool z }
  | .vrot ty dst a k mask z => some { major := 0x55#8, minor := 0x02#8, ty := ty.code, dst := dst.setWidth 6, src1 := a.setWidth 6, src2 := k, mask := mask, z := BitVec.ofBool z }
  | .vcompr ty dst a mask z => some { major := 0x55#8, minor := 0x03#8, ty := ty.code, dst := dst.setWidth 6, src1 := a.setWidth 6, mask := mask, z := BitVec.ofBool z }
  | .vexpand ty dst a mask z => some { major := 0x55#8, minor := 0x04#8, ty := ty.code, dst := dst.setWidth 6, src1 := a.setWidth 6, mask := mask, z := BitVec.ofBool z }
  | .vexp2 la ty dst a mask z fzi fzo => some { major := 0x80#8, minor := 0x01#8, la := la, ty := ty.code, dst := dst.setWidth 6, src1 := a.setWidth 6, mask := mask, z := BitVec.ofBool z, fzi := BitVec.ofBool fzi, fzo := BitVec.ofBool fzo }
  | .vexp la ty dst a mask z fzi fzo => some { major := 0x80#8, minor := 0x02#8, la := la, ty := ty.code, dst := dst.setWidth 6, src1 := a.setWidth 6, mask := mask, z := BitVec.ofBool z, fzi := BitVec.ofBool fzi, fzo := BitVec.ofBool fzo }
  | .vlog2 la ty dst a mask z fzi fzo => some { major := 0x80#8, minor := 0x03#8, la := la, ty := ty.code, dst := dst.setWidth 6, src1 := a.setWidth 6, mask := mask, z := BitVec.ofBool z, fzi := BitVec.ofBool fzi, fzo := BitVec.ofBool fzo }
  | .vlog la ty dst a mask z fzi fzo => some { major := 0x80#8, minor := 0x04#8, la := la, ty := ty.code, dst := dst.setWidth 6, src1 := a.setWidth 6, mask := mask, z := BitVec.ofBool z, fzi := BitVec.ofBool fzi, fzo := BitVec.ofBool fzo }
  | .vrcp la ty dst a mask z fzi fzo => some { major := 0x80#8, minor := 0x05#8, la := la, ty := ty.code, dst := dst.setWidth 6, src1 := a.setWidth 6, mask := mask, z := BitVec.ofBool z, fzi := BitVec.ofBool fzi, fzo := BitVec.ofBool fzo }
  | .vrsq la ty dst a mask z fzi fzo => some { major := 0x80#8, minor := 0x06#8, la := la, ty := ty.code, dst := dst.setWidth 6, src1 := a.setWidth 6, mask := mask, z := BitVec.ofBool z, fzi := BitVec.ofBool fzi, fzo := BitVec.ofBool fzo }
  | .vsqrt la ty dst a mask z fzi fzo => some { major := 0x80#8, minor := 0x07#8, la := la, ty := ty.code, dst := dst.setWidth 6, src1 := a.setWidth 6, mask := mask, z := BitVec.ofBool z, fzi := BitVec.ofBool fzi, fzo := BitVec.ofBool fzo }
  | .vtanh la ty dst a mask z fzi fzo => some { major := 0x80#8, minor := 0x08#8, la := la, ty := ty.code, dst := dst.setWidth 6, src1 := a.setWidth 6, mask := mask, z := BitVec.ofBool z, fzi := BitVec.ofBool fzi, fzo := BitVec.ofBool fzo }
  | .gang => some { major := 0x90#8, minor := 0x01#8 }
  | .mzero ty dst n => some { major := 0x90#8, minor := 0x02#8, ty := ty.code, dst := dst.setWidth 6, src1 := n }
  | .mldb la ty base n stride pair sp => some { major := 0x90#8, minor := 0x03#8, la := la, ty := ty.code, src1 := base, src2 := n, src3 := stride, ext := 0x0#2 ++ (BitVec.ofBool sp) ++ 0x0#1 ++ pair ++ 0x0#2 }
  | .mgath la ty base idx extent pair imm => some { major := 0x90#8, minor := 0x04#8, la := la, ty := ty.code, src1 := base, src2 := idx.setWidth 6, src3 := extent, imm := imm, ext := 0x0#4 ++ pair ++ 0x0#2 }
  | .mma la ty dst n rnd fzi fzo sat zs pair => some { major := 0x90#8, minor := 0x05#8, la := la, ty := ty.code, dst := dst.setWidth 6, src1 := n, rnd := rnd.code, fzi := BitVec.ofBool fzi, fzo := BitVec.ofBool fzo, ext := 0x0#4 ++ pair ++ (BitVec.ofBool zs) ++ (BitVec.ofBool sat) }
  | .mmas la ty dst n vm rnd fzi fzo sat zs pair s48 => some { major := 0x90#8, minor := 0x06#8, la := la, ty := ty.code, dst := dst.setWidth 6, src1 := n, src2 := vm.setWidth 6, rnd := rnd.code, fzi := BitVec.ofBool fzi, fzo := BitVec.ofBool fzo, ext := 0x0#3 ++ (BitVec.ofBool s48) ++ pair ++ (BitVec.ofBool zs) ++ (BitVec.ofBool sat) }
  | .mcomp la ty dst a b p s48 => some { major := 0x90#8, minor := 0x07#8, la := la, ty := ty.code, dst := dst.setWidth 6, src1 := a, src2 := b, src3 := p, ext := 0x0#3 ++ (BitVec.ofBool s48) ++ 0x0#3 }
  | .mscale ty a pair bside => some { major := 0x90#8, minor := 0x08#8, ty := ty.code, src1 := a.setWidth 6, ext := 0x0#3 ++ (BitVec.ofBool bside) ++ pair ++ 0x0#2 }
  | .mdrain la ty dst cell scale rnd fzo sat nov nskip scope acc row blk => some { major := 0x90#8, minor := 0x09#8, la := la, ty := ty.code, dst := dst.setWidth 6, src2 := cell, src3 := scale, rnd := rnd.code, fzo := BitVec.ofBool fzo, ext := scope.code ++ (BitVec.ofBool nskip) ++ 0x0#1 ++ (BitVec.ofBool nov) ++ (BitVec.ofBool sat), imm := 0x0#22 ++ blk ++ row ++ acc }
  | .mdrainVault la ty dst base cell scale rnd fzo sat nov nskip scope acc => some { major := 0x90#8, minor := 0x09#8, la := la, ty := ty.code, dst := dst, src1 := base, src2 := cell, src3 := scale, rnd := rnd.code, fzo := BitVec.ofBool fzo, ext := scope.code ++ (BitVec.ofBool nskip) ++ 0x1#1 ++ (BitVec.ofBool nov) ++ (BitVec.ofBool sat), imm := 0x0#30 ++ acc }
  | .copy h d src len req scope drain => some { major := 0xA0#8, minor := 0x01#8, dst := h.setWidth 6, src1 := d, src2 := src, src3 := len, ext := 0x0#1 ++ (BitVec.ofBool drain) ++ scope.code ++ req.code }
  | .copy2d h d src p req scope drain => some { major := 0xA0#8, minor := 0x02#8, dst := h.setWidth 6, src1 := d, src2 := src, src3 := p, ext := 0x0#1 ++ (BitVec.ofBool drain) ++ scope.code ++ req.code }
  | .put h r l n req scope sig ep => some { major := 0xA1#8, minor := 0x01#8, dst := h.setWidth 6, src1 := r, src2 := l, src3 := n, ext := 0x0#1 ++ (BitVec.ofBool sig) ++ scope.code ++ req.code, imm := 0x0#16 ++ ep }
  | .get h l r n req scope ep => some { major := 0xA1#8, minor := 0x02#8, dst := h.setWidth 6, src1 := l, src2 := r, src3 := n, ext := 0x0#2 ++ scope.code ++ req.code, imm := 0x0#16 ++ ep }
  | .radd ty h r b acc ep => some { major := 0xA1#8, minor := 0x03#8, ty := ty.code, dst := h.setWidth 6, src1 := r, src2 := b, ext := 0x0#2 ++ acc.scope.code ++ acc.req.code, imm := 0x0#16 ++ ep }
  | .trig h a acc => some { major := 0xA1#8, minor := 0x04#8, dst := h.setWidth 6, src1 := a, ext := 0x0#2 ++ acc.scope.code ++ acc.req.code }
  | .cnti c b scope set => some { major := 0xA2#8, minor := 0x01#8, src2 := b, ext := 0x0#1 ++ (BitVec.ofBool set) ++ scope.code ++ 0x0#2, imm := 0x0#24 ++ c }
  | .cntr dst c => some { major := 0xA2#8, minor := 0x02#8, dst := dst, imm := 0x0#24 ++ c }
  | .htest dst h => some { major := 0xA3#8, minor := 0x01#8, dst := dst, src1 := h.setWidth 6 }
  | .hcancel h => some { major := 0xA3#8, minor := 0x02#8, src1 := h.setWidth 6 }
  | .hwait dst h => some { major := 0xA3#8, minor := 0x03#8, dst := dst, src1 := h.setWidth 6 }
  | .hwaitToken dst k => some { major := 0xA3#8, minor := 0x03#8, dst := dst, src1 := k, ext := 0x20#7 }
  | .hmov dst h => some { major := 0xA3#8, minor := 0x04#8, dst := dst.setWidth 6, src1 := h.setWidth 6 }
  | .htok dst h => some { major := 0xA3#8, minor := 0x05#8, dst := dst, src1 := h.setWidth 6 }
  | .rgrp dst spec => some { major := 0xB0#8, minor := 0x01#8, dst := dst, src1 := spec }
  | .rgrpFree dst g => some { major := 0xB0#8, minor := 0x01#8, dst := dst, src1 := g, ext := 0x20#7 }
  | .nload dst g a n => some { major := 0xB0#8, minor := 0x02#8, dst := dst, src1 := g, src2 := a, src3 := n }
  | .redcfg dst g c a => some { major := 0xB0#8, minor := 0x03#8, dst := dst, src1 := g, src2 := c, src3 := a }
  | .rstep h g a => some { major := 0xB0#8, minor := 0x04#8, dst := h.setWidth 6, src1 := g, src2 := a }
  | .rstat dst g sel => some { major := 0xB0#8, minor := 0x05#8, dst := dst, src1 := g, imm := sel }
  | .sqins ty dst a mask => some { major := 0xC0#8, minor := 0x01#8, ty := ty.code, dst := dst.setWidth 6, src1 := a.setWidth 6, mask := mask }
  | .shins ty dst a mask => some { major := 0xC0#8, minor := 0x02#8, ty := ty.code, dst := dst.setWidth 6, src1 := a.setWidth 6, mask := mask }
  | .sdins ty dst a mask => some { major := 0xC0#8, minor := 0x03#8, ty := ty.code, dst := dst.setWidth 6, src1 := a.setWidth 6, mask := mask }
  | .smerge la dst a b kind => some { major := 0xC0#8, minor := 0x04#8, la := la, dst := dst.setWidth 6, src1 := a.setWidth 6, src2 := b.setWidth 6, ext := 0x0#3 ++ kind ++ 0x0#2 }
  | .sqq la dst a q => some { major := 0xC0#8, minor := 0x05#8, la := la, dst := dst, src1 := a.setWidth 6, src2 := q }
  | .sqrank la dst a x => some { major := 0xC0#8, minor := 0x06#8, la := la, dst := dst, src1 := a.setWidth 6, src2 := x }
  | .shtop dst a j => some { major := 0xC0#8, minor := 0x07#8, dst := dst, src1 := a.setWidth 6, src2 := j }
  | .sdest dst a => some { major := 0xC0#8, minor := 0x08#8, dst := dst, src1 := a.setWidth 6 }
  | .scoin dst a init => some { major := 0xC0#8, minor := 0x09#8, dst := dst.setWidth 6, src1 := a, ext := 0x0#1 ++ (BitVec.ofBool init) ++ 0x0#5 }
  | .gnode dst a => some { major := 0xD0#8, minor := 0x01#8, dst := dst, src1 := a }
  | .gdep dst a b => some { major := 0xD0#8, minor := 0x02#8, dst := dst, src1 := a, src2 := b }
  | .gsub h a => some { major := 0xD0#8, minor := 0x03#8, dst := h.setWidth 6, src1 := a }
  | .crew dst imm => some { major := 0xD0#8, minor := 0x04#8, dst := dst, imm := imm }
  | .yield imm => some { major := 0xD0#8, minor := 0x05#8, imm := imm }
  | .rdc dst num => some { major := 0xE0#8, minor := 0x01#8, dst := dst, imm := 0x0#20 ++ num }
  | .wrc num a => some { major := 0xE0#8, minor := 0x02#8, src1 := a, imm := 0x0#20 ++ num }
  | .trap code => some { major := 0xE0#8, minor := 0x03#8, imm := 0x0#16 ++ code }
  | .pair dst dir => some { major := 0xE0#8, minor := 0x04#8, dst := dst, imm := 0x0#30 ++ dir }
  | .unpair dst => some { major := 0xE0#8, minor := 0x05#8, dst := dst }
  | .idle dst imm => some { major := 0xE0#8, minor := 0x06#8, dst := dst, imm := imm }
  | .svres dst a op mask => some { major := 0xE0#8, minor := 0x07#8, dst := dst, src1 := a, imm := 0x0#24 ++ mask ++ 0x0#2 ++ op }
  | .newtWord .. => none
  | .newtResultReady .. => none
  | .stepLeaveArmed .. => none
  | .stepMoveComplete .. => none
  | .stepPublishComplete .. => none
  | .stepTimeout .. => none
  | .nloadCopyDone .. => none
  | .powerUpBoot => none
  | .firmwareUpdate .. => none
  | .attestationRequest .. => none
  | .debugAuthenticate .. => none
  | .lifecycleAdvance .. => none
  | .registerWrite .. => none
  | .supervisorGo .. => none
  | .tlbInvalidateGo .. => none
  | .tlbInvalidateDone .. => none
  | .pageWalkComplete .. => none
  | .formatWindowDisable .. => none
  | .formatWindowDisableAck .. => none
  | .inboundRemoteWrite .. => none
  | .inboundRemoteRead .. => none
  | .inboundRemoteAtomic .. => none
  | .homeRequest .. => none
  | .dirtyFifoAck .. => none
  | .releaseComplete .. => none
  | .remoteLoadReply .. => none
  | .bankOperation .. => none
  | .refresh .. => none
  | .patrolScrub .. => none
  | .shmodeWrite .. => none
  | .bkmodeClearRefused .. => none
  | .shmodeChangeDone .. => none
  | .rowRetireGo .. => none
  | .rowRetireDone .. => none
  | .tileArrival .. => none
  | .engineOperationComplete .. => none
  | .copyEngineStart .. => none
  | .tideArrival .. => none
  | .ebbComplete .. => none
  | .domainEnable .. => none
  | .domainAbort .. => none
  | .deferredCompletionStore .. => none
  | .fetchPortServe .. => none
  | .icacheFill .. => none
  | .lineRefetch .. => none
  | .alignRelease .. => none
  | .alignBoundExpiry .. => none
  | .repPassIssue .. => none
  | .barrierWaitTimeout .. => none
  | .waitwTimeout .. => none
  | .waitwWindowPoll .. => none
  | .yieldExpiry .. => none
  | .idleTimeout .. => none
  | .pairTimeout .. => none
  | .gangBarrierComplete .. => none
  | .matrixOperandLoadDone .. => none
  | .successorReleaseMessage .. => none
  | .priorityAging .. => none
  | .dispatchTask .. => none
  | .dispatchGangtask .. => none
  | .dispatchCrew .. => none
  | .dispatchStep .. => none
  | .dispatchCopy .. => none
  | .queueEnable .. => none
  | .queueSwitchOut .. => none
  | .queueSwitchIn .. => none
  | .queueVisit .. => none
  | .tranarNop .. => none
  | .tranarGraph .. => none
  | .tranarCopy .. => none
  | .tranarStore .. => none
  | .faultPacketDelivery .. => none
  | .faultRingEnable .. => none
  | .debugUnpark .. => none
  | .debugEvict .. => none
  | .debugPcWrite .. => none
  | .automaticEviction .. => none
  | .contextRestore .. => none
  | .wakeEventRetry .. => none
  | .breakwaterFence .. => none
  | .breakwaterReset .. => none
  | .breakwaterResetDone .. => none
  | .breakwaterRelease .. => none
  | .pairIntervalClose .. => none
  | .pairFingerprintExchange .. => none
  | .redundantRunGo .. => none
  | .redundantRunCompare .. => none
  | .counterPersist .. => none
  | .orderlyPowerDown => none
  | .linkDown .. => none
  | .linkErrorRateReplan .. => none
  | .powerGrantRequest => none
  | .packageEnterP3 => none
  | .packageLeaveP3 => none
  | .powerMeasurementInterval .. => none
  | .dieReturnToP0 .. => none
  | .unitWithdraw .. => none
  | .unitReturn .. => none
  | .checkpointGo => none
  | .checkpointComplete .. => none
  | .longLatencyInstructionComplete .. => none
  | .powerLoss => none
  | .thermalExcursion .. => none
  | .supplyDroop .. => none
  | .linkRetry .. => none
  | .linkReenable .. => none
  | .unitWithdrawalComplete .. => none
  | .unitReturnComplete .. => none
  | .inboundUnsupportedPacket .. => none

/-- The checks of R207 in order: the opcodes, then every field. A slot is accepted exactly when its fields are those of
the instruction read, so no bit of it is dropped. -/
def decodeFields (f : Fields) : Except DecodeError Instr :=
  match cand f with
  | none => .error .undefinedInstruction
  | some i => if encodeFields i = some f ∧ i.wf = true then .ok i else .error .reservedField

/-- Decoding of a slot (R207). DEDUCED, log entry 29. -/
def decodeSlot (w : Slot) : Except DecodeError Instr := decodeFields (Fields.unpack w)

/-- The slot of an instruction, none for an event (R208). -/
def encode (i : Instr) : Option Slot := (encodeFields i).map Fields.pack

/-- The number that little-endian bytes hold (R4). -/
def bytesToNat : List Byte → Nat
  | [] => 0
  | b :: bs => b.toNat + 256 * bytesToNat bs

/-- The n little-endian bytes of a number (R4). -/
def natToBytes : Nat → Nat → List Byte
  | 0, _ => []
  | n + 1, v => BitVec.ofNat 8 v :: natToBytes n (v / 256)

/-- Decoding of the bytes at a slot: the first twelve, little-endian (R199), and the bytes that follow. -/
def decode (bs : List Byte) : Except DecodeError (Instr × List Byte) :=
  if bs.length < 12 then .error .short
  else
    match decodeSlot (BitVec.ofNat 96 (bytesToNat (bs.take 12))) with
    | .ok i => .ok (i, bs.drop 12)
    | .error e => .error e

/-- The bytes of an instruction as memory holds them (R199): none for an event. -/
def encodeBytes (i : Instr) : Option (List Byte) := (encode i).map fun w => natToBytes 12 w.toNat

/-- The instruction the decoder reads from a slot given as a number, every bit above nbits zero. -/
def decodeTableWord (nbits w : Nat) : Option Instr :=
  match decode (natToBytes 12 (w % 2 ^ nbits)) with
  | .ok (i, _) => some i
  | .error _ => none

end Sys2Proof
end

