-- ==== Sys2Proof/Machine/Bits.lean ====
section
/-! DEFINITION. Bit-field, sign-extension, byte-order and element helpers. -/

namespace Sys2Proof

/-- The width in bits of an element type (R150). -/
def ElemType.width : ElemType → Nat
  | .s4 | .u4 => 4
  | .s8 | .u8 | .e4m3 => 8
  | .s16 | .u16 | .bf16 | .fp16 => 16
  | .s32 | .u32 | .fp32 => 32
  | .s64 | .u64 => 64

/-- The number of elements of a type in a vector register (R150). -/
def ElemType.count (t : ElemType) : Nat := 4096 / t.width

/-- A signed integer type (R150). -/
def ElemType.signed : ElemType → Bool
  | .s4 | .s8 | .s16 | .s32 | .s64 => true
  | .u4 | .u8 | .u16 | .u32 | .u64 | .e4m3 | .bf16 | .fp16 | .fp32 => false

/-- A 64-bit type. -/
def ElemType.is64 : ElemType → Bool
  | .s64 | .u64 => true
  | .s4 | .u4 | .s8 | .u8 | .s16 | .u16 | .s32 | .u32 | .e4m3 | .bf16 | .fp16 | .fp32 => false

end Sys2Proof

namespace Sys2Proof.Machine
open Sys2Proof

/-- Bits [lo + w - 1 : lo] of a number (R3). -/
def fld (x lo w : Nat) : Nat := (x >>> lo) % 2 ^ w

/-- Bit n of a number (R3). -/
def bit (x n : Nat) : Bool := x.testBit n

/-- A number with bits [lo + w - 1 : lo] replaced by v. -/
def setFld (x lo w v : Nat) : Nat := x - (fld x lo w <<< lo) + ((v % 2 ^ w) <<< lo)

/-- A Boolean as the number 0 or 1. -/
def b2n (b : Bool) : Nat := if b then 1 else 0

/-- A Boolean as a register value 0 or 1. -/
def boolWord (b : Bool) : Word := if b then 1#64 else 0#64

/-- The signed offset or immediate of a slot, extended to 64 bits (R8, R208). -/
def sext32 (i : BitVec 32) : Word := i.signExtend 64

/-- The signed value of the low w bits of a number (R153). -/
def signedOf (w x : Nat) : Int :=
  let y := x % 2 ^ w
  if w = 0 then 0 else if 2 ^ (w - 1) ≤ y then (y : Int) - 2 ^ w else y

/-- wrap(x, w) as a bit pattern (R8). -/
def wrapN (w : Nat) (x : Int) : Nat := (x % (2 ^ w : Nat)).toNat

/-- sat(x) for a w-bit signed range, as a bit pattern (R8, R153). -/
def satS (w : Nat) (x : Int) : Nat :=
  let hi : Int := 2 ^ (w - 1) - 1
  let lo : Int := -(2 ^ (w - 1))
  wrapN w (if hi < x then hi else if x < lo then lo else x)

/-- sat(x) for a w-bit unsigned range (R8, R153). -/
def satU (w : Nat) (x : Int) : Nat :=
  if x < 0 then 0 else if (2 ^ w : Nat) ≤ x.toNat then 2 ^ w - 1 else x.toNat

/-- A 64-bit register value from a number. -/
def wd (x : Nat) : Word := BitVec.ofNat 64 x

/-- A 64-bit register value from an integer (wrap). -/
def wdI (x : Int) : Word := BitVec.ofInt 64 x

/-- Element i of width w of a packed value: element 0 lowest (R4, R152). -/
def elemOf (w x i : Nat) : Nat := fld x (w * i) w

/-- A packed value from its elements of width w, element 0 first (R4, R152). -/
def packElems (w : Nat) : List Nat → Nat
  | [] => 0
  | e :: es => e % 2 ^ w + 2 ^ w * packElems w es

/-- The first n elements of width w of a packed value. -/
def unpackElems (w : Nat) : Nat → Nat → List Nat
  | 0, _ => []
  | n + 1, x => x % 2 ^ w :: unpackElems w n (x / 2 ^ w)

/-- The mask of the n lowest bits. -/
def ones (n : Nat) : Nat := 2 ^ n - 1

/-- Bytes with those of a mask replaced by new ones: byte i comes from new where bit i of the mask is set. -/
def mergeBytes : Nat → List Byte → List Byte → List Byte
  | m, o :: os, n :: ns => (if m % 2 = 1 then n else o) :: mergeBytes (m / 2) os ns
  | _, os, _ => os

/-- Replaces bytes from position p on. -/
def patchBytes (bs : List Byte) (p : Nat) (new : List Byte) : List Byte :=
  bs.take p ++ new ++ bs.drop (p + new.length)

/-- Part of a byte list. -/
def sliceBytes (bs : List Byte) (p n : Nat) : List Byte := (bs.drop p).take n

end Sys2Proof.Machine
end

