-- ==== Sys2Proof/Machine/Hash.lean ====
section
/-! DEFINITION. SHA-256 and CRC-32C over byte lists (R404, R406). -/

namespace Sys2Proof.Machine
open Sys2Proof

/-- The largest r below 2^bits, added to a start, whose k-th power does not exceed n. -/
def rootFrom (k n : Nat) : Nat → Nat → Nat
  | 0, r => r
  | i + 1, r => rootFrom k n i (if (r + 2 ^ i) ^ k ≤ n then r + 2 ^ i else r)

/-- The first 32 bits of the fractional part of a k-th root, of a number below 512: what SHA-256 takes its constants from. -/
def rootBits (k n : Nat) : Nat := rootFrom k (n * 2 ^ (32 * k)) 37 0 % 2 ^ 32

/-- The primes below 312: there are 64. -/
def shaPrimes : List Nat :=
  (List.range 312).filter fun n => decide (2 ≤ n) && (List.range 18).all fun d => decide (d < 2) || d == n || n % d != 0

/-- The constants of the rounds: of the cube roots of the primes. -/
def shaK : List Nat := shaPrimes.map (rootBits 3)

/-- The hash value before the first block: of the square roots of the first eight primes. -/
def shaInit : List Half := (shaPrimes.take 8).map fun p => BitVec.ofNat 32 (rootBits 2 p)

/-- The next word of the message schedule from the last sixteen, the newest first. -/
def shaNext (w : List Half) : Half :=
  let a := w.getD 14 0#32
  let b := w.getD 1 0#32
  let s0 := a.rotateRight 7 ^^^ a.rotateRight 18 ^^^ (a >>> 3)
  let s1 := b.rotateRight 17 ^^^ b.rotateRight 19 ^^^ (b >>> 10)
  w.getD 15 0#32 + s0 + w.getD 6 0#32 + s1

/-- One round. -/
def shaRound (h : List Half) (k w : Half) : List Half :=
  match h with
  | [a, b, c, d, e, f, g, x] =>
    let s1 := e.rotateRight 6 ^^^ e.rotateRight 11 ^^^ e.rotateRight 25
    let ch := (e &&& f) ^^^ (~~~e &&& g)
    let t1 := x + s1 + ch + k + w
    let s0 := a.rotateRight 2 ^^^ a.rotateRight 13 ^^^ a.rotateRight 22
    let mj := (a &&& b) ^^^ (a &&& c) ^^^ (b &&& c)
    [t1 + (s0 + mj), a, b, c, d + t1, e, f, g]
  | h => h

/-- The rounds of a block: the schedule so far with the newest word first, and the constants left. -/
def shaRounds : List Nat → Nat → List Half → List Half → List Half
  | [], _, _, h => h
  | k :: ks, i, w, h =>
    let x := if i < 16 then w.getD (15 - i) 0#32 else shaNext (w.take 16)
    shaRounds ks (i + 1) (if i < 16 then w else x :: w) (shaRound h (BitVec.ofNat 32 k) x)

/-- A big-endian word of four bytes. -/
def beWord (bs : List Byte) : Half := BitVec.ofNat 32 ((bs.take 4).foldl (fun a b => a * 256 + b.toNat) 0)

/-- The sixteen words of a block, the last first. -/
def blockWords (bs : List Byte) : List Half := ((List.range 16).map fun i => beWord (bs.drop (4 * i))).reverse

/-- The blocks of a padded message, absorbed in order. -/
def shaBlocks : Nat → List Byte → List Half → List Half
  | 0, _, h => h
  | n + 1, bs, h =>
    let r := shaRounds shaK 0 (blockWords bs) h
    shaBlocks n (bs.drop 64) ((h.zip r).map fun p => p.1 + p.2)

/-- SHA-256 of a byte list, the first byte of the digest being the most significant of the number. -/
def sha256 (bs : List Byte) : BitVec 256 :=
  let n := bs.length
  let pad := (119 - n % 64) % 64
  let msg := bs ++ [0x80#8] ++ List.replicate pad 0#8 ++ (natToBytes 8 (8 * n)).reverse
  BitVec.ofNat 256 ((shaBlocks (msg.length / 64) msg shaInit).foldl (fun a w => a * 2 ^ 32 + w.toNat) 0)

/-- One bit of CRC-32C, in its reflected form. -/
def crcBit (c : Nat) : Nat := if c % 2 = 1 then (c / 2) ^^^ 0x82F63B78 else c / 2

/-- One byte into a CRC-32C (polynomial 0x1EDC_6F41, R404). -/
def crcByte (c : Nat) (b : Byte) : Nat :=
  crcBit (crcBit (crcBit (crcBit (crcBit (crcBit (crcBit (crcBit (c ^^^ b.toNat))))))))

/-- Bytes into a running CRC-32C. -/
def crcBytes (c : Nat) (bs : List Byte) : Nat := bs.foldl crcByte c

/-- The final value of a CRC-32C. -/
def crcFinal (c : Nat) : Nat := c ^^^ 0xFFFFFFFF

end Sys2Proof.Machine
end

