-- ==== Sys2Proof/Config.lean ====
section
/-! DEFINITION. What an implementation fixes and the values the spec leaves open: constants without a body, so that no
proof can see what they are. -/

namespace Sys2Proof

/-- Who moves next: a core's issue turn, given by one of its contexts; an event of another agent happens; time passes, in
core cycles of 1.75 GHz; a bit upset strikes a stored word (R398 to R400); a dispatcher's message arrives for a supervisor core
(R238). -/
inductive Turn where
  | issue (cid : Nat)
  | event (i : Instr)
  | elapse (n : Nat)
  | upsetSector (sector symbols : Nat)
  | upsetVault (word bits : Nat)
  | upsetRegister (cid file reg bits : Nat)
  | message (core : Nat)
  deriving DecidableEq, Repr, Inhabited

end Sys2Proof

namespace Sys2Proof.Config
open Sys2Proof

/-- The turn that follows when the state names none: an open choice, the k-th (log entry 1). -/
opaque freeTurn (k : Nat) : Turn

/-- The number of entries of a die's ready pool, which the spec does not give (R354; log entry 7). Node numbers hold the
entry in 12 bits (R355), so the model uses at most 4,096 of them. -/
opaque poolEntries : Nat

/-- The entries of a die's ready pool: the implementation's figure, within the 12 bits of a node number (R355), and no fewer than the
641 that the program of chapter 24 holds on D4, more than the five of R423. DESIGN CHOICE, log entry 7. -/
def poolSize : Nat := max 641 (min poolEntries 4096)

/-- A free value: the k-th value drawn that the spec leaves open, of w bits (log entry 11). -/
opaque freeBits (w k : Nat) : BitVec w

/-- Whether the k-th open choice falls one way (log entry 11). -/
opaque freeChoice (k : Nat) : Nat

/-- The k-th byte that a remote agent supplies (log entry 14). -/
opaque remoteByte (k : Nat) : BitVec 8

/-- Where a special function takes a value among those R288 leaves open: the operand, as its place in the order of the
type's values, from which on the result is at least the value of place v (log entry 13). The function number is the minor
opcode of major 0x80. -/
opaque specialThreshold (fn : Nat) (ty : ElemType) (v : Int) : Int

/-- Whether a signature of SLH-DSA-SHA2-256s over a message verifies under a public key (R414; log entry 10). -/
opaque verify (key sig : Nat) (msg : Nat) : Bool

/-- The signature of the package's identity key over a message (R415; log entry 10). -/
opaque sign (key : Nat) (msg : Nat) : Nat

/-- The SHA-256 digest of an image given by its number (R414; log entry 10). -/
opaque imageDigest (image : Nat) : BitVec 256

/-- The number of further stages that an image boots, and the SHA-256 of each (R414; log entry 10). -/
opaque laterStages (image : Nat) : Nat
/-- The digest of a further stage. -/
opaque stageDigest (image k : Nat) : BitVec 256

/-- The SHA-256 digest of a public key (R414, R416; log entry 10). -/
opaque keyDigest (key : Nat) : BitVec 256

/-- The digest fused for a lifecycle state: which = 0 for firmware keys, 1 for debug keys (R414, R416; log entry 10). -/
opaque fusedDigest (lifecycle which : Nat) : BitVec 256

/-- The firmware image in the boot store, with its signature and key, at the k-th power-up (R414; log entry 10). -/
opaque bootImage (k : Nat) : Nat × Nat × Nat

/-- The identity key generated on chip (R415; log entry 10). -/
opaque identityKey (k : Nat) : Nat

end Sys2Proof.Config
end

