-- ==== Sys2Proof/Machine/SMap.lean ====
section
/-! DEFINITION. Sparse tables as plain data: lists of key and value pairs in rising order of their keys, and memory as such
a list with no entry equal to what an unlisted address reads as. -/

namespace Sys2Proof.Machine
open Sys2Proof

/-- A sparse table: a list of (key, value) pairs. -/
abbrev SMap (α : Type) := List (Nat × α)

/-- The value of a key, if it is listed. -/
def SMap.find? {α : Type} : SMap α → Nat → Option α
  | [], _ => none
  | (k, v) :: r, i => if i = k then some v else SMap.find? r i

/-- The value of a key, or a default. -/
def SMap.getD {α : Type} (m : SMap α) (i : Nat) (d : α) : α := (SMap.find? m i).getD d

/-- The table with a key's value set, in rising order of keys. -/
def SMap.put {α : Type} : SMap α → Nat → α → SMap α
  | [], i, v => [(i, v)]
  | (k, w) :: r, i, v =>
    if i = k then (i, v) :: r else if i < k then (i, v) :: (k, w) :: r else (k, w) :: SMap.put r i v

/-- The table without a key. -/
def SMap.del {α : Type} : SMap α → Nat → SMap α
  | [], _ => []
  | (k, w) :: r, i => if i = k then SMap.del r i else (k, w) :: SMap.del r i

/-- The least key not below n that is not listed. -/
def SMap.fresh {α : Type} (m : SMap α) (n : Nat) : Nat := m.foldl (fun a p => max a (p.1 + 1)) n

/-- Memory: the bytes that differ from what an unlisted address reads as. -/
abbrev Memory := List Host.Cell

/-- What an address that memory does not list reads as: zero (vaults: R74; DRAM: DESIGN CHOICE, log entry 8). -/
def Memory.default : Byte := 0#8

/-- One byte of memory. -/
def Memory.read (m : Memory) (a : Nat) : Byte := (SMap.find? m a).getD Memory.default

/-- One byte written: writing the default removes the entry, so that equal memories are equal lists. -/
def Memory.write (m : Memory) (a : Nat) (b : Byte) : Memory :=
  if b = Memory.default then SMap.del m a else SMap.put m a b

/-- Consecutive bytes read. -/
def Memory.readN (m : Memory) (a : Nat) : Nat → List Byte
  | 0 => []
  | n + 1 => m.read a :: Memory.readN m (a + 1) n

/-- Consecutive bytes written, the first at the lowest address. -/
def Memory.writeN (m : Memory) (a : Nat) : List Byte → Memory
  | [] => m
  | b :: bs => Memory.writeN (m.write a b) (a + 1) bs

/-- Consecutive bytes written where the mask is set: bit i for byte i. -/
def Memory.writeMask (m : Memory) (a : Nat) : Nat → List Byte → Memory
  | _, [] => m
  | k, b :: bs => Memory.writeMask (if k % 2 = 1 then m.write a b else m) (a + 1) (k / 2) bs

/-- Keys strictly rising. -/
def SMap.rising {α : Type} : SMap α → Bool
  | [] => true
  | [_] => true
  | (a, _) :: (b, w) :: r => decide (a < b) && SMap.rising ((b, w) :: r)

/-- The canonical form of memory: addresses strictly rising and no entry equal to the default. -/
def Memory.wf (m : Memory) : Bool := SMap.rising m && m.all fun c => c.2 != Memory.default

end Sys2Proof.Machine
end

