-- ==== Sys2Proof/Machine/Parts.lean ====
section
/-! DEFINITION. The parts of the machine's state: contexts, cores, gangs, dies, banks with their newts, I/O dies, the
package, and what travels between them. -/

namespace Sys2Proof.Machine
open Sys2Proof

/-! ## Contexts -/

/-- The states of a context (R180). -/
inductive CtxSt where
  | idle | ready | stalled | blocked | parked | frozen | evicted
  deriving DecidableEq, Repr

/-- The wake condition of a blocked context (R392). -/
inductive Wake where
  | none
  | barrier (va phase : Nat)
  | tide (dom : Nat) (phase : Bool) (level : Nat)
  | handle (h : Nat)
  | token (t : Nat)
  | tile (vault entry : Nat)
  | remote (dst : Nat) (vec : Bool) (ty : Nat)
  | word (va cond comparand : Nat)
  deriving DecidableEq, Repr

/-- How far the current instruction has come when it takes several issues: nothing yet; its release marker is placed; its
release is complete; it waits, with a number it keeps; a result was recorded for it; a fault code was recorded for it. -/
inductive Mid where
  | none
  | marker
  | released
  | waiting (tag : Nat)
  | result (v : Nat)
  | fault (code : Nat)
  deriving DecidableEq, Repr

/-- A handle register (R190): idle, pending on an operation, or complete with a status and the operation's scope and
owning agent's die (for the acquire of its first read, R129). -/
inductive Handle where
  | idle
  | pending (op : Nat)
  | complete (status : Word) (scope : Scope)
  deriving DecidableEq, Repr

/-- How the program counter was reached (R204, R205): in sequence, by a branch or a dispatch, or plainly (resumption, a
supervisor's first fetch, a written DWPC). -/
inductive Entry where
  | seq
  | branch
  | plain
  deriving DecidableEq, Repr

/-- A line held by a context: its virtual line address, the address that its bytes came from and the 64 bytes (R205). -/
structure LineBuf where
  va : Nat
  pa : Nat
  bytes : List Byte
  deriving DecidableEq, Repr

/-- An outstanding line request of a context (R184): virtual and physical line address and when it was made. -/
structure FetchReq where
  va : Nat
  pa : Nat
  since : Nat
  deriving DecidableEq, Repr

/-- The repetition buffer (R192, R229): the slots of the body, the count, the pass and the position to issue next. -/
structure RepBuf where
  body : List Slot := []
  count : Nat := 0
  pass : Nat := 0
  pos : Nat := 0
  flags : Nat := 0
  rstr : Nat := 0
  istr : Nat := 0
  pc : Nat := 0
  deriving DecidableEq, Repr

/-- A register name for destination sets (R214): s, v, m, a or c.fpflags. -/
inductive RegName where
  | s (r : SReg)
  | v (r : VReg)
  | m (r : MReg)
  | h (r : HReg)
  | a (r : AReg)
  | fpflags
  | ctl (n : Nat)
  deriving DecidableEq, Repr

/-- The fields of a fault that its packet reports (R377, R381, R382). -/
structure Trap where
  code : Nat
  addr : Nat := 0
  elem : Nat := 0
  info : Nat := 0
  aux : Nat := 0
  sub : Nat := 0
  srcPc : Option Nat := none
  deriving DecidableEq, Repr

/-- A long-latency instruction at its issue: its lookahead, the registers that it writes, its source operands src1, src2
and src3 as it read them (R214, R380), the matrix latch that it loads, by side and pair (R297), and whether it is a summary
instruction (R351). -/
structure Look where
  la : Nat
  dests : List RegName
  ops : Vector (BitVec 4096) 3
  latch : Option (Bool × Nat) := none
  summary : Bool := false
  deriving DecidableEq, Repr

/-- A fault that a long-latency instruction meets after its window has begun to issue (R379): the fault, the instruction's slot,
its lookahead, its source operands, and the matrix latch that it loads. -/
structure Late where
  trap : Trap
  pc : Nat
  size : Nat
  ops : Vector (BitVec 4096) 3
  latch : Option (Bool × Nat) := none
  deriving DecidableEq, Repr

/-- A value to be written to a register when a long-latency instruction completes (R214). -/
inductive RegWrite where
  | s (r : SReg) (v : Word)
  | v (r : VReg) (v : Vec)
  | fpflags (bits : Nat)
  deriving DecidableEq, Repr

/-- A lookahead window (R214): how many instructions it still holds, the owner's destination set, the results that the
owner has yet to write, whether the owner has completed, whether the owner is a summary instruction (R351) or a load of a matrix
operand, the operation that it awaits at a bank, and the fault that the owner is about to meet. -/
structure Window where
  left : Nat
  dests : List RegName
  writes : List RegWrite
  finished : Bool := false
  summary : Bool := false
  mload : Bool := false
  bank : Option Nat := none
  late : Option Late := none
  deriving DecidableEq, Repr

/-- A translation obtained for the current instruction of a context (R43, R44): the 64 KiB page number, and the leaf's
fields, or the fault code with its walk level and the entry read. -/
structure Xlat where
  page : Nat
  ok : Bool
  oa : Nat := 0
  attrs : Nat := 0
  code : Nat := 0
  level : Nat := 0
  ent : Nat := 0
  deriving DecidableEq, Repr

/-- A context (R177 to R182, R232): beside its registers, its state and what it waits for, with the bytes that a remote load
awaits, as (element, offset, length), and those that have come (R117, R393); its line; its repetition buffer; its windows, the
long-latency instruction that it issues, the replay record and the address to go on at after the replay (R379, R380). -/
structure Ctx where
  st : CtxSt := .idle
  prev : CtxSt := .idle
  pc : Nat := 0
  sregs : Vector Word 64 := Vector.replicate 64 0#64
  vregs : Vector Vec 32 := Vector.replicate 32 0#4096
  mregs : Vector Mask 8 := Vector.replicate 8 0#1024
  hregs : Vector Handle 16 := Vector.replicate 16 .idle
  round : Word := 0#64
  fpflags : Word := 0#64
  fpen : Word := 0#64
  mode : Word := 0#64
  doms : Vector Word 4 := Vector.replicate 4 0#64
  asid : Word := 0#64
  troot : Word := 0#64
  icount : Word := 0#64
  wake : Wake := .none
  deadline : Nat := 0
  met : Bool := false
  mid : Mid := .none
  entry : Entry := .seq
  srcPc : Option Nat := none
  line : Option LineBuf := none
  checked : Bool := false
  fetchReq : Option FetchReq := none
  refetched : Bool := false
  rep : RepBuf := {}
  windows : List Window := []
  replayV : Bool := false
  replay : Vector (BitVec 4096) 3 := Vector.replicate 3 0#4096
  ahead : Nat := 0
  skipTo : Nat := 0
  look : Option Look := none
  awaits : List (Nat × Nat × Nat) := []
  reply : List Byte := []
  passFault : Option (Nat × Nat) := none
  xlat : List Xlat := []
  node : Option Nat := none
  graph : Nat := 0
  codeBase : Nat := 0
  codeLim : Nat := 0
  incarnation : Nat := 0
  inGang : Bool := false
  interval : Nat := 0
  atGang : Bool := false
  upsets : List (Nat × Nat × Nat) := []
  blockedAt : Nat := 0
  ev : Nat := 0
  watch : Option Nat := none
  passing : Bool := false
  message : Bool := false
  deriving DecidableEq, Repr

/-! ## Cores -/

/-- The states of a sector in L1 (R86). A sector in S, E, M or W has its home's bytes, so only V holds bytes of its own. -/
inductive L1St where
  | i | s | e | m | w | v
  deriving DecidableEq, Repr

/-- One sector of an L1 line: its state and, for V, the bytes of the copy and the mask of bytes written and not yet sent
home, with the context that wrote them. -/
structure L1Sector where
  st : L1St := .i
  bytes : List Byte := []
  mask : Nat := 0
  writer : Nat := 0
  deriving DecidableEq, Repr

/-- An L1 line: 256 bytes of DRAM by its bank-local line number, four sectors (R86). -/
structure L1Line where
  line : Nat
  sec : Vector L1Sector 4 := Vector.replicate 4 {}
  deriving DecidableEq, Repr

/-- An entry of the dirty-address FIFO (R96, R98): a store or atomic to a sector; a store that clears EN of a format window,
by its stack and its number (R51); or a release marker. -/
inductive FifoEntry where
  | store (sector ctx : Nat) (req : ReqType)
  | disable (stack win ctx : Nat)
  | marker (ctx : Nat) (scope : Scope)
  deriving DecidableEq, Repr

/-- A sector of tidal stores in L1, of one context and the task in it, not yet sent home (R122, R123). -/
structure TidalSector where
  ctx : Nat
  inc : Nat
  sector : Nat
  mask : Nat
  bytes : List Byte
  deriving DecidableEq, Repr

/-- A TLB entry (R42): address space, virtual base, page size as a power of two, and the leaf's fields. -/
structure TlbEntry where
  asid : Nat
  va : Nat
  log2 : Nat
  oa : Nat
  attrs : Nat
  deriving DecidableEq, Repr

/-- The states of an operand latch (R292). -/
inductive LatchSt where
  | empty
  | loaded
  | poisoned (record : Nat)
  deriving DecidableEq, Repr

/-- An A latch pair of one member (R290): 16 rows of 64 elements, type and scales. -/
structure ALatch where
  st : LatchSt := .empty
  ty : ElemType := .s4
  rows : List Nat := []
  scales : List Nat := []
  deriving DecidableEq, Repr

/-- A slice of an accumulator (R290): 16 rows, element (r, n) at key 512 r + n. -/
structure AccSlice where
  valid : Bool := false
  cls : ElemType := .fp32
  n : Nat := 0
  words : SMap Half := []
  deriving DecidableEq, Repr

/-- One eighth of a B latch pair (R290, R296, R298): its rows as packed elements, type, form, width, scale indices, scales,
and the stack, window and line that its scales came from. -/
structure BEighth where
  st : LatchSt := .empty
  ty : ElemType := .s4
  sp : Bool := false
  n : Nat := 0
  rows : List Nat := []
  idx : List (Option Nat) := []
  scales : List Nat := []
  src : Option (Nat × Nat × Nat) := none
  deriving DecidableEq, Repr

/-- A B latch pair as published (R290). -/
structure BLatch where
  eighths : Vector BEighth 8 := Vector.replicate 8 {}
  scales : List Nat := []
  poison : Option Nat := none
  deriving DecidableEq, Repr

/-- A B shadow: the eighths written, each with its member's interval, and the scales of MSCALE with theirs (R293, R299). -/
structure BShadow where
  eighths : List (Nat × Nat × BEighth) := []
  scales : List (Nat × Nat × List Nat) := []
  deriving DecidableEq, Repr

/-- A matrix operand load under way (R297, R306): its context, A or B side, the pair, the eighth or latch to be written, and
the format error that it met: cause, stack, window and line. -/
structure MLoad where
  cid : Nat
  err : Option (Nat × Nat × Nat × Nat) := none
  bside : Bool
  pair : Nat
  interval : Nat
  a : ALatch
  b : BEighth
  deriving DecidableEq, Repr

/-- One side of a pair (R402 to R404): the partner's direction and core, the pairing context, whether this side leads, the
context at the last agreed point, the running CRC of the interval, whether nothing has run since that point, whether the
interval is to be closed and is closed, the core that owns its stores, the disagreements in a row, the incarnation of the task
that is paired, and whether an instruction is under way that is performed once, after a close (R403). -/
structure PairRec where
  dir : Nat
  partner : Nat
  ctx : Nat
  leader : Bool
  checkpoint : Ctx
  crc : Nat := 0xFFFFFFFF
  fresh : Bool := true
  want : Bool := false
  closed : Bool := false
  owner : Nat := 0
  disagreements : Nat := 0
  inc : Nat := 0
  direct : Bool := false
  deriving DecidableEq, Repr

/-- A context that waits at PAIR (R237): its number in its core, its direction, the end of its wait and its status
register. -/
structure PairAsk where
  ctx : Nat
  dir : Nat
  deadline : Nat
  dst : SReg
  deriving DecidableEq, Repr

/-- A core: its L1, FIFO with the number of entries that have left it, TLB, matrix slice with the upset words of its
accumulators, fault state, and the incarnations of its contexts, which its next tasks take (R397). -/
structure Core where
  l1 : List L1Line := []
  fifo : List FifoEntry := []
  fifoLeft : Nat := 0
  tidal : List TidalSector := []
  tlb : List TlbEntry := []
  frozen : Bool := false
  bwr : Bool := false
  fenced : Bool := false
  ckFrozen : Bool := false
  packet : BitVec 512 := 0#512
  pair : Option PairRec := none
  pairWait : Option PairAsk := none
  rot : Nat := 0
  alatch : Vector ALatch 2 := Vector.replicate 2 {}
  acc : Vector AccSlice 4 := Vector.replicate 4 {}
  halted : Option Nat := none
  mloads : List MLoad := []
  accUpsets : List (Nat × Nat × Nat) := []
  incs : Vector Nat 4 := Vector.replicate 4 0
  deriving DecidableEq, Repr

/-- A gang: instruction cache, joint B latches and the GANGTASK that holds it (R184, R195, R290). -/
structure Gang where
  icache : List (Nat × List Byte) := []
  miss : List Nat := []
  bpub : Vector BLatch 2 := Vector.replicate 2 {}
  bshadow : Vector BShadow 2 := Vector.replicate 2 {}
  task : Option Nat := none
  members : List Nat := []
  retired : List Nat := []
  deriving DecidableEq, Repr

/-! ## Memory bookkeeping -/

/-- A race record (R95, R113): the sector, the writing context, the mask of open bytes, the mask of closed bytes and the
scope at which those are closed. -/
structure Race where
  sector : Nat
  ctx : Nat
  opn : Nat
  closed : Nat
  scope : Scope
  deriving DecidableEq, Repr

/-- The owner of a pending sector (R119, R123): tidal stores of a context and the task in it for a domain generation with its
member index, an engine operation, a pair's interval, or a copy of a redundant run. -/
inductive Owner where
  | tidal (ctx inc dom index : Nat)
  | op (id : Nat)
  | interval (core : Nat)
  | run (die copy : Nat)
  deriving DecidableEq, Repr

/-- A pending sector (R119): sector number, byte mask and bytes; spilled says that it lies in its die's spill area. -/
structure Pend where
  owner : Owner
  sector : Nat
  mask : Nat
  bytes : List Byte
  spilled : Bool := false
  deriving DecidableEq, Repr

/-- A line of an L2 slice (R87, R100): the line number, whether it is dirty, and its format tag: format code, scale
index, window, and ill-formed. -/
structure L2Tag where
  fmt : Nat
  index : Nat
  stack : Nat
  win : Nat
  scl : Nat
  ill : Bool
  deriving DecidableEq, Repr

/-- A line held by its home slice. -/
structure L2Line where
  line : Nat
  dirty : Bool
  tag : Option L2Tag
  deriving DecidableEq, Repr

/-- A request posted to a home (R91): an SINV write-back of the bytes of a mask, or a device's write of them, which its target may
hold back (R56, R62, R68). -/
structure HomeReq where
  sector : Nat
  core : Nat
  writer : Nat
  mask : Nat
  bytes : List Byte
  dev : Bool := false
  deriving DecidableEq, Repr

/-- What an atomic does at its remote target (R93, R250, R251, R246): the minor opcode of its instruction and its type. -/
structure RemoteOp where
  minor : Nat
  ty : ElemType
  deriving DecidableEq, Repr

/-- Where an access through a network window goes (R33): the I/O die, the peer's index in its endpoint table, the memory key,
the remote address, and whether delivery is ordered. -/
structure Remote where
  io : Nat
  peer : Nat
  key : Nat
  addr : Nat
  ord : Bool
  deriving DecidableEq, Repr

/-- A message sent to a remote agent (R33, R117, R262): an access through a window, an atomic with its operation and its
operands, or an access through an endpoint. -/
inductive NetMsg where
  | write (r : Remote) (bytes : List Byte)
  | atomic (r : Remote) (op : RemoteOp) (bytes : List Byte)
  | read (r : Remote) (len : Nat)
  | put (io ep addr : Nat) (bytes : List Byte)
  | get (io ep addr len : Nat)
  | radd (io ep addr : Nat) (bytes : List Byte)
  | response (io : Nat) (ok : Bool) (bytes : List Byte)
  | attestation (sig : Nat)
  | image (ep off : Nat) (bytes : List Host.Cell)
  | report (die : Nat)
  deriving DecidableEq, Repr

/-- The states of a tile (R77). -/
inductive TileSt where
  | free | empty | filling | ready | draining
  deriving DecidableEq, Repr

/-- A tile-table entry (R77). -/
structure Tile where
  st : TileSt := .free
  w : Bool := false
  f : Bool := false
  base : Nat := 0
  size : Nat := 0
  expect : Nat := 0
  arrived : Nat := 0
  ovr : Bool := false
  derr : Bool := false
  ferr : Bool := false
  deriving DecidableEq, Repr

/-! ## Engine operations -/

/-- What translates an engine's, a dispatcher's or a repetition's operand: the context it acts for, the address space, and
whether system instructions are enabled (R259, R358, R365). -/
structure Space where
  die : Nat
  asid : Nat
  root : Nat
  sys : Bool
  raw : Bool := false
  core : Option Nat := none
  deriving DecidableEq, Repr

/-- Where an operation's completion goes beside the handles and tokens that wait on it. -/
inductive Dest where
  | none
  | node (die entry : Nat)
  | tranar (io q entry : Nat)
  | trigger (die idx : Nat)
  | deferred
  | inbound (io : Nat)
  | run (die copy : Nat)
  deriving DecidableEq, Repr

/-- What an engine operation does. -/
inductive OpKind where
  | copy | put | get | radd | inbound
  deriving DecidableEq, Repr

/-- An engine operation in progress (R259, R261, R262, R118): what it does, where it runs, its pieces by address and
length, what it has read at its start, how far it has come, where its status goes, the copy of a redundant run that it belongs to, and the signal of a PUT or the old value
that an inbound atomic answers with. The stage is 0 while its source
tile is awaited, 1 while its destination tile is, 2 once it moves data, 3 once its status is known. A tile that it names may
have become free (R81), and an inbound operation may carry ordered delivery, or be an atomic: its operation and operands (R118, R408). -/
structure EngOp where
  kind : OpKind
  die : Nat
  engine : Nat := 16
  cid : Nat := 0
  det : Bool := false
  req : ReqType := .own
  scope : Scope := .thr
  src : List (Nat × Nat) := []
  dst : List (Nat × Nat) := []
  snap : List Byte := []
  done : Nat := 0
  total : Nat := 0
  stage : Nat := 3
  status : Nat := 0
  tileSrc : Option (Nat × Nat) := none
  tileDst : Option (Nat × Nat) := none
  srcStarted : Bool := false
  dstStarted : Bool := false
  drain : Bool := false
  freed : Bool := false
  ord : Bool := false
  atom : Option (Nat × Nat × Nat) := none
  claims : List (Nat × Nat) := []
  dest : Dest := .none
  io : Nat := 0
  ep : Nat := 0
  raddr : Nat := 0
  sig : Option Nat := none
  run : Option (Nat × Nat) := none
  deriving DecidableEq, Repr

/-- A copy of a fired trigger or of a Tranar command that waits for a free engine of its die (R261): its operands, the
context whose address space translates them, or none for region-form addresses. -/
structure Waiting where
  op : Nat
  sp : Option Space
  cid : Nat
  req : ReqType := .own
  scope : Scope
  dst : Nat
  src : Nat
  len : Nat
  dest : Dest
  deriving DecidableEq, Repr

/-- What follows a completion store once it has been made (R368, R370, R375): nothing, the end of a node's retirement, a
graph's completion, or an entry's place in its queue's progress. -/
inductive After where
  | none
  | node (n : Nat)
  | graph (g : Nat)
  | entry (io q entry : Nat)
  | progress
  deriving DecidableEq, Repr

/-- A completion or progress store that waits (R440): the die (0 to 11) or I/O die (12, 13) that makes it, the address of
its word, the value, and what follows it. -/
structure Deferred where
  unit : Nat
  addr : Nat
  value : Nat
  after : After := .none
  deriving DecidableEq, Repr

/-- An armed trigger (R264): its record, who armed it and in which address space, its operation, its source
request type (R259), and c.mode.DET. -/
structure Trigger where
  bits : BitVec 512
  cid : Nat
  sp : Space
  op : Nat
  req : ReqType := .own
  det : Bool := false
  fired : Bool := false
  deriving DecidableEq, Repr

/-- An entry of the token table (R191): generation and what it holds. -/
structure Token where
  gen : Nat := 0
  h : Handle := .idle
  deriving DecidableEq, Repr

/-! ## Dies -/

/-- A domain-table entry (R187) and the members that wait at TIDE, by context and incarnation. -/
structure Domain where
  en : Bool := false
  scope : Nat := 0
  gen : Nat := 0
  count : Nat := 0
  arrived : Nat := 0
  phase : Bool := false
  ovl : Bool := false
  ebb : Bool := false
  ovr : Bool := false
  first : Nat := 0
  waiting : List (Nat × Nat) := []
  deriving DecidableEq, Repr

/-- A TIDE arrival on its way to the home die (R188). -/
structure TideMsg where
  cid : Nat
  dom : Word
  incarnation : Nat
  deriving DecidableEq, Repr

/-- A miss that waits for a page-table walk (R43). -/
structure Miss where
  asid : Nat
  page : Nat
  root : Nat
  cids : List Nat
  deriving DecidableEq, Repr

/-- A walk-cache entry (R34, R43): the table that an index path of an address space leads to from its level-0 table. -/
structure WalkEntry where
  asid : Nat
  root : Nat
  level : Nat
  idx : Nat
  table : Nat
  deriving DecidableEq, Repr

/-- A packet or message that waits for its ring (R384): destination ring, the context it concerns, the bits,
whether its wait has been counted and its ring reported. -/
structure Packet where
  ring : Nat
  cid : Nat
  bits : BitVec 512
  counted : Bool := false
  reported : Bool := false
  deriving DecidableEq, Repr

/-- A fault ring's registers (R383). -/
structure Ring where
  base : Nat := 0
  log2 : Nat := 0
  en : Bool := false
  wr : Nat := 0
  rd : Nat := 0
  deriving DecidableEq, Repr

/-- A save image (R391, R393): its slot, the context's state, its message entries and how many of them its slot holds, and its
place in the order in which wake conditions were met. -/
structure Image where
  slot : Nat
  cid : Nat
  ctx : Ctx
  events : List (Nat × Nat) := []
  written : Nat := 0
  due : Option Nat := none
  deriving DecidableEq, Repr

/-- A wake event refused with back-pressure (R393, R397): the task that it is for, its kind and source, and what it records if it
meets the wake condition. -/
structure Retry where
  cid : Nat
  inc : Nat
  kind : Nat
  source : Nat
  meets : Option Mid
  deriving DecidableEq, Repr

/-- A breakwater (R395): the states are 0 idle, 1 fenced, 2 resetting, 3 reset. -/
structure Breakwater where
  rect : Nat := 0
  st : Nat := 0
  refused : Bool := false
  deriving DecidableEq, Repr

/-- The redundant-execution control block (R405), with the statuses of the copies, what failed the run beside its nodes, the
completion word of this die's copy, and whether GO still waits for its graph to be read. -/
structure Redundant where
  desc : Nat := 0
  peer : Nat := 0
  st : Nat := 0
  fstat : Nat := 0
  sta : Option Nat := none
  stb : Option Nat := none
  fail : Bool := false
  go : Bool := false
  cw : Option (Nat × Nat) := none
  siga : BitVec 256 := 0#256
  sigb : BitVec 256 := 0#256
  deriving DecidableEq, Repr

/-- The states of a node (R354). -/
inductive NodeSt where
  | waiting | ready | running
  deriving DecidableEq, Repr

/-- A graph node in a ready pool (R354, R355, R359): its record, its graph, its successors by node number and identity, the
holds of the nodes that its task entered, the place of its completion word, whether one of its contexts was lost, how
many of its contexts have not yet retired, the core cycle since which it has been ready with no place for it (R366), and whether it has finished and awaits its completion store (R368, R440). -/
structure Node where
  uid : Nat
  bits : BitVec 512
  graph : Nat
  st : NodeSt := .waiting
  count : Nat := 0
  readyAt : Nat := 0
  aged : Nat := 0
  succ : List (Nat × Nat) := []
  holds : List (Nat × Nat × Nat) := []
  cwpa : Option Nat := none
  lost : Bool := false
  left : Nat := 0
  stuck : Option Nat := none
  finished : Bool := false
  deriving DecidableEq, Repr

/-- A graph that has been entered (R357, R370), with the copy of a redundant run that it belongs to (R406): the numbers of its
nodes that have retired tell GDEP what they were, it may await its own completion store (R440), and it keeps the time and
the number of the node whose failure gave its status. -/
structure Graph where
  die : Nat
  asid : Nat
  troot : Nat
  codeBase : Nat
  codeLim : Nat
  cwpa : Option Nat := none
  cwseq : Nat := 0
  op : Nat
  halted : Bool := false
  status : Nat := 0
  dest : Dest := .none
  run : Option (Nat × Nat) := none
  gone : List Nat := []
  storing : Bool := false
  failed : Option (Nat × Nat) := none
  deriving DecidableEq, Repr

/-- A crew number allocated on a die (R230, R367). -/
structure Crew where
  size : Nat
  entered : Nat := 0
  live : Nat := 0
  deriving DecidableEq, Repr

/-- The phases of a rank step (R318, R326). -/
inductive StepPhase where
  | armed | flood | move | publish
  deriving DecidableEq, Repr

/-- An accepted rank step (R324, R326). -/
structure RStep where
  op : Nat
  bits : BitVec 512
  shape : Nat := 0
  oper : Nat := 0
  words : Nat := 0
  tres : Option Nat := none
  gen : Nat
  cwpa : Option Nat := none
  phase : StepPhase := .armed
  since : Nat := 0
  node : Option (Nat × Nat) := none
  recvNew : List (Nat × Nat × Nat × Nat) := []
  deriving DecidableEq, Repr

/-- A rank group (R316 to R318). -/
structure Group where
  en : Bool := false
  gen : Nat := 0
  first : Nat := 0
  log2 : Nat := 0
  serial : Nat := 0
  valid : Bool := false
  shape : Nat := 0
  oper : Nat := 0
  words : Nat := 0
  tres : Nat := 0
  fail0 : Word := 0#64
  fail1 : Word := 0#64
  fail2 : Word := 0#64
  steps : List RStep := []
  deriving DecidableEq, Repr

/-- A format window of a memory controller (R49): the three registers. -/
structure FmtWin where
  base : Word := 0#64
  limit : Word := 0#64
  scale : Word := 0#64
  busy : Option Word := none
  deriving DecidableEq, Repr

/-- An NLOAD copy under way: the context and the banks to load (R322). -/
structure NLoadJob where
  cid : Nat
  group : Nat
  words : List (BitVec 64)
  first : Nat
  size : Nat
  deriving DecidableEq, Repr

/-- A compute die's own registers, tables and units. While an invalidation is in progress, the fields tinv… name what it waits
for (R45): operations numbered below tinvOps, entries in FIFOs by core and number, loads that await a remote reply by context
and instruction count, misses by die, address space and page, and lines being fetched, by context and by gang. The field remotes holds the tasks, by context and incarnation,
whose remote loads await a reply (R117), lastDisp the core cycle of the last dispatch to contexts, rank groups and copy
engines (R361), intervals the measurement intervals that have closed (R21), persists the periods after which the counters were
copied to the persistent store (R407); the list of retired rows is persistent itself (R68). -/
structure Die where
  cycle2 : Nat := 0
  ungated8 : Nat := 0
  svpc : Vector Nat 8 := Vector.replicate 8 0
  svcBase : Nat := 0
  svcLim : Nat := 0
  svRun : Bool := false
  tinvAddr : Nat := 0
  tinvCtl : Nat := 0
  tinvBusy : Bool := false
  tinvOps : Nat := 0
  tinvFifo : List (Nat × Nat) := []
  tinvLoads : List (Nat × Word) := []
  tinvMiss : List (Nat × Nat × Nat) := []
  tinvLines : List (Nat × Nat) := []
  tinvKeys : List (Nat × Nat) := []
  tinvRefused : Bool := false
  walkCache : List WalkEntry := []
  missq : List Miss := []
  fw : SMap FmtWin := []
  domains : SMap Domain := []
  tideMsgs : List TideMsg := []
  eshBase : Nat := 0
  eshSize : Nat := 0
  eshFull : Bool := false
  groups : SMap Group := []
  nloads : List NLoadJob := []
  mxrec : Vector (BitVec 256) 16 := Vector.replicate 16 0#256
  mxNext : Nat := 0
  mxOvf : Bool := false
  rings : Vector Ring 2 := Vector.replicate 2 {}
  froute : Nat := 0
  svBase : Nat := 0
  svSlots : Nat := 0
  svEvmin : Nat := 0
  svFull : Bool := false
  packets : List Packet := []
  seq : Nat := 0
  images : List Image := []
  dueCount : Nat := 0
  retries : List Retry := []
  remotes : List (Nat × Nat) := []
  lastDisp : Vector (Option Nat) 3 := Vector.replicate 3 none
  bw : Vector Breakwater 8 := Vector.replicate 8 {}
  rx : Redundant := {}
  ctrs : SMap Nat := []
  saved : SMap Nat := []
  persists : Nat := 0
  retired : List (Nat × Nat) := []
  counters : SMap Word := []
  triggers : List (Nat × Trigger) := []
  trigNext : Nat := 0
  tokens : SMap Token := []
  tokNext : Nat := 0
  waiting : List Waiting := []
  pool : SMap Node := []
  crews : SMap Crew := []
  succMsgs : List (Nat × Nat) := []
  lastEvict : Option Nat := none
  ratio : Nat := 8
  intervals : Nat := 0
  pstate : Nat := 0
  returning : Bool := false
  deriving DecidableEq, Repr

/-! ## Banks and newts -/

/-- A promotion slot (R57) that holds a row; a free slot is not listed. -/
structure PromoSlot where
  row : Nat
  dirty : Bool := false
  pin : Bool := false
  stamp : Nat := 0
  deriving DecidableEq, Repr

/-- A shadow of a logical row (R65): the pool row it took and the bytes stored into it. -/
structure Shadow where
  prow : Nat
  cells : Memory := []
  deriving DecidableEq, Repr

/-- What waits at a bank (R53, R63): a promotion operation with its number, of a context and its incarnation (R397), or of the
bank's newt where the context's name is 2^20; the kinds are 0 PROMOTE, 1 SHPIN, 2 SHUNPIN and 3 SHUNPIN.D. -/
structure BankOp where
  uid : Nat
  cid : Nat
  kind : Nat
  row : Nat
  dst : SReg
  inc : Nat := 0
  deriving DecidableEq, Repr

/-- A newt (R310, R314): its registers, guards, ports and buffers, the kind that its sketch buffer holds, the operation of its
PROMOTE unit that is outstanding, the units whose result is: 1 floating point, 2 load/store, 4 sketch, 9 the line buffer; and
the number of newt cycles that had passed once its last word had executed (R312). -/
structure Newt where
  n : Vector Half 32 := Vector.replicate 32 0#32
  g : Vector Bool 4 := Vector.replicate 4 false
  pc : Nat := 0
  aluB : Half := 0#32
  aluR : Half := 0#32
  fmaB : Half := 0#32
  fmaC : Half := 0#32
  fmaR : Half := 0#32
  lsD : Half := 0#32
  lsR : Half := 0#32
  lb : Vector Half 16 := Vector.replicate 16 0#32
  prR : Half := 0#32
  prOp : Option Nat := none
  sk : Vec := 0#4096
  skKind : Nat := 0
  szD : Half := 0#32
  sizes : SMap Nat := []
  rcR : Half := 0#32
  trD : Half := 0#32
  contrib : SMap Half := []
  busy : List Nat := []
  halted : Bool := true
  last : Nat := 0
  deriving DecidableEq, Repr

/-- A bank with its controller and its newt. -/
structure Bank where
  shmode : Nat := 0
  shNew : Nat := 0
  shBusy : Bool := false
  shRefused : Bool := false
  fenced : Bool := false
  prow : Nat := 0
  rtRow : Nat := 0
  rtBusy : Bool := false
  rtRefused : Bool := false
  slots : SMap PromoSlot := []
  stampCtr : SMap Nat := []
  remap : SMap Nat := []
  retired : List Nat := []
  shadows : SMap Shadow := []
  queue : List BankOp := []
  refreshes : Nat := 0
  scrubRow : Nat := 0
  prog : SMap (BitVec 64) := []
  progTag : Option Nat := none
  recv : SMap (Nat × Nat) := []
  newt : Newt := {}
  deriving DecidableEq, Repr

/-! ## I/O dies and the package -/

/-- A Tranar command queue (R372), with the entries started and completed, and the number of times it was enabled. -/
structure Queue where
  en : Bool := false
  swin : Bool := false
  halt : Bool := false
  log2n : Nat := 0
  hctx : Nat := 0
  qerr : Nat := 0
  base : Nat := 0
  tail : Nat := 0
  prog : Nat := 0
  head : Nat := 0
  done : Nat := 0
  finished : List Nat := []
  run : Nat := 0
  deriving DecidableEq, Repr

/-- A Tranar command that its queue has handed over (R373, R411); its entry is named with the queue's run, 2^64 · run +
entry. -/
structure Command where
  q : Nat
  entry : Nat
  bits : BitVec 512
  started : Bool := false
  deriving DecidableEq, Repr

/-- An I/O die: register words by offset, queues, counters, and the periods after which they were copied (R407). -/
structure IoDie where
  regs : SMap Word := []
  queues : SMap Queue := []
  visit : Nat := 0
  cmdq : List Command := []
  ctrs : SMap Nat := []
  saved : SMap Nat := []
  persists : Nat := 0
  out : Bool := false
  deriving DecidableEq, Repr

/-- The lifecycle states (R416). -/
inductive Lifecycle where
  | manufacture | develop | production | returned
  deriving DecidableEq, Repr

/-- Package-wide firmware state: power shares in force, staged and granted for the next interval, units, checkpoint, boot and
identity (R414 to R421). -/
structure Pkg where
  dieShare : Vector Nat 12 := Vector.replicate 12 515
  stkShare : Vector Nat 24 := Vector.replicate 24 80
  stagedShare : Vector Nat 12 := Vector.replicate 12 515
  stagedPstate : Vector Nat 12 := Vector.replicate 12 0
  stagedStk : Vector Nat 24 := Vector.replicate 24 80
  pgRefused : Bool := false
  grant : Option (List Nat × List Nat × List Nat) := none
  hold : Nat := 0
  p3 : Bool := false
  svuState : Vector Nat 38 := Vector.replicate 38 0
  svuRefused : Vector Bool 38 := Vector.replicate 38 false
  ckState : Nat := 0
  ckep : Nat := 0
  lifecycle : Lifecycle := .manufacture
  debugOpen : Bool := false
  identity : Option Nat := none
  firmware : Option Nat := none
  recovery : Bool := false
  measurements : List (BitVec 256) := []
  stored : Option (Nat × Nat × Nat) := none
  boots : Nat := 0
  deriving DecidableEq, Repr

/-- The state of a link: consecutive retries and whether it is down (R412). -/
structure LinkSt where
  retries : Nat := 0
  down : Bool := false
  deriving DecidableEq, Repr

end Sys2Proof.Machine
end

