-- ==== Sys2Proof/Machine/State.lean ====
section
/-! DEFINITION. The machine's state as plain data, its state after reset, and the reasons a step can stop. -/

namespace Sys2Proof.Machine
open Sys2Proof

/-- Why the machine stops. The faults the spec describes are not these: taking one is a next state (R378). -/
inductive Fault where
  /-- Raised by the step for a turn of a context that the package does not have (R13, R14). Safe: no agent takes such a
  turn. -/
  | noSuchContext
  deriving DecidableEq, Repr

/-- Why an instruction has no meaning. -/
inductive Refusal where
  /-- Raised by an arm of exec whose instruction has no meaning yet. Safe: the machine stops. -/
  | notModelled (mnemonic : String)
  deriving DecidableEq, Repr

/-- The state of the package: every register, table, memory and queue the spec names, and the model's own bookkeeping
(turns, tick, free, time, cur). A context is named by DIE·4096 + Y·256 + X·16 + CTX, as in c.self [15:0] (R177); a core by
that number without CTX; a gang by DIE·20 + g (R14); a vault by DIE·160 + v; a bank by stack·768 + b. -/
structure State where
  ctxs : SMap Ctx := []
  cores : SMap Core := []
  gangs : SMap Gang := []
  dies : SMap Die := []
  banks : SMap Bank := []
  ios : SMap IoDie := []
  pkg : Pkg := {}
  mem : Memory := []
  tiles : SMap Tile := []
  l2 : SMap (List L2Line) := []
  races : List Race := []
  pend : List Pend := []
  ops : SMap EngOp := []
  nextOp : Nat := 0
  deferred : List Deferred := []
  homeq : List HomeReq := []
  netOut : List NetMsg := []
  graphs : SMap Graph := []
  links : SMap LinkSt := []
  upsets : SMap Nat := []
  poison : List Nat := []
  turns : List Turn := []
  tick : Nat := 0
  free : Nat := 0
  time : Nat := 0
  cur : Nat := 0
  deriving DecidableEq, Repr

/-- The machine right after power-up reset. Tables list what differs from the reset value of their entries, which is the
default of each part's structure, so nothing is listed. -/
def State.reset : State := {}

/-- A context. -/
def State.ctx (s : State) (k : Nat) : Ctx := SMap.getD s.ctxs k {}
/-- A core. -/
def State.core (s : State) (k : Nat) : Core := SMap.getD s.cores k {}
/-- A gang. -/
def State.gang (s : State) (k : Nat) : Gang := SMap.getD s.gangs k {}
/-- A compute die. -/
def State.die (s : State) (k : Nat) : Die := SMap.getD s.dies k {}
/-- A bank. -/
def State.bank (s : State) (k : Nat) : Bank := SMap.getD s.banks k {}
/-- An I/O die. -/
def State.io (s : State) (k : Nat) : IoDie := SMap.getD s.ios k {}
/-- A tile-table entry: vault number · 128 + entry. -/
def State.tile (s : State) (k : Nat) : Tile := SMap.getD s.tiles k {}

/-- A context replaced. -/
def State.setCtx (s : State) (k : Nat) (c : Ctx) : State := { s with ctxs := SMap.put s.ctxs k c }
/-- A core replaced. -/
def State.setCore (s : State) (k : Nat) (c : Core) : State := { s with cores := SMap.put s.cores k c }
/-- A gang replaced. -/
def State.setGang (s : State) (k : Nat) (g : Gang) : State := { s with gangs := SMap.put s.gangs k g }
/-- A die replaced. -/
def State.setDie (s : State) (k : Nat) (d : Die) : State := { s with dies := SMap.put s.dies k d }
/-- A bank replaced. -/
def State.setBank (s : State) (k : Nat) (b : Bank) : State := { s with banks := SMap.put s.banks k b }
/-- An I/O die replaced. -/
def State.setIo (s : State) (k : Nat) (d : IoDie) : State := { s with ios := SMap.put s.ios k d }
/-- A tile replaced. -/
def State.setTile (s : State) (k : Nat) (t : Tile) : State := { s with tiles := SMap.put s.tiles k t }

/-- A context changed by a function. -/
def State.modCtx (s : State) (k : Nat) (f : Ctx → Ctx) : State := s.setCtx k (f (s.ctx k))
/-- A core changed by a function. -/
def State.modCore (s : State) (k : Nat) (f : Core → Core) : State := s.setCore k (f (s.core k))
/-- A gang changed by a function. -/
def State.modGang (s : State) (k : Nat) (f : Gang → Gang) : State := s.setGang k (f (s.gang k))
/-- A die changed by a function. -/
def State.modDie (s : State) (k : Nat) (f : Die → Die) : State := s.setDie k (f (s.die k))
/-- A bank changed by a function. -/
def State.modBank (s : State) (k : Nat) (f : Bank → Bank) : State := s.setBank k (f (s.bank k))
/-- An I/O die changed by a function. -/
def State.modIo (s : State) (k : Nat) (f : IoDie → IoDie) : State := s.setIo k (f (s.io k))
/-- A tile changed by a function. -/
def State.modTile (s : State) (k : Nat) (f : Tile → Tile) : State := s.setTile k (f (s.tile k))

end Sys2Proof.Machine
end

