-- ==== Sys2Proof/Machine/Ops.lean ====
section
/-! DEFINITION. The operations every meaning shares: registers, the end of an instruction, stalls and blocking points,
taking a fault and resuming from one, floating-point events, wakes, operation statuses and free values. -/

namespace Sys2Proof.Machine
open Sys2Proof

/-! ## Names -/

/-- The core of a context. -/
def coreOf (cid : Nat) : Nat := cid / 16
/-- The context's number within its core. -/
def ctxNo (cid : Nat) : Nat := cid % 16
/-- The die of a context. -/
def dieOf (cid : Nat) : Nat := cid / 4096
/-- The mesh row of a context, 15 for a supervisor core (R177). -/
def rowOf (cid : Nat) : Nat := cid / 256 % 16
/-- The mesh column of a context (R177). -/
def colOf (cid : Nat) : Nat := cid / 16 % 16
/-- A context of a supervisor core (R175). -/
def isSup (cid : Nat) : Bool := rowOf cid == 15
/-- The gang of a mesh context (R14), numbered over the package. -/
def gangOf (cid : Nat) : Nat := dieOf cid * 20 + 2 * rowOf cid + colOf cid / 8
/-- The vault above a mesh context's core (R26), numbered over the package. -/
def vaultOf (cid : Nat) : Nat := dieOf cid * 160 + rowOf cid * 16 + colOf cid
/-- A context that the package has (R13, R174, R175). -/
def validCtx (cid : Nat) : Bool :=
  decide (dieOf cid < 12) && decide (ctxNo cid < 4) &&
    (decide (rowOf cid < 10) || (rowOf cid == 15 && decide (colOf cid < 2)))
/-- The four contexts of a core. -/
def ctxsOf (core : Nat) : List Nat := [16 * core, 16 * core + 1, 16 * core + 2, 16 * core + 3]
/-- The supervisor core k (0 or 1) of a die. -/
def supCore (die k : Nat) : Nat := die * 256 + 240 + k
/-- The eight cores of a gang in member order (R14, R290). -/
def coresOfGang (g : Nat) : List Nat :=
  let d := g / 20
  let y := g % 20 / 2
  let x := 8 * (g % 20 % 2)
  (List.range 8).map fun p => d * 256 + y * 16 + x + p
/-- Every mesh core of a die. -/
def coresOfDie (d : Nat) : List Nat :=
  ((List.range 10).map fun y => (List.range 16).map fun x => d * 256 + y * 16 + x).flatten

/-! ## Registers of the current context -/

/-- A scalar register; s0 reads zero (R386). -/
def Ctx.getS (c : Ctx) (r : SReg) : Word := if r = 0#6 then 0#64 else c.sregs[r.toNat]'r.isLt
/-- A scalar register written; a write to s0 is discarded (R218). -/
def Ctx.setS (c : Ctx) (r : SReg) (v : Word) : Ctx :=
  if r = 0#6 then c else { c with sregs := c.sregs.set r.toNat v r.isLt }
/-- A vector register. -/
def Ctx.getV (c : Ctx) (r : VReg) : Vec := c.vregs[r.toNat]'r.isLt
/-- A vector register written. -/
def Ctx.setV (c : Ctx) (r : VReg) (v : Vec) : Ctx := { c with vregs := c.vregs.set r.toNat v r.isLt }
/-- A mask register. -/
def Ctx.getM (c : Ctx) (r : MReg) : Mask := c.mregs[r.toNat]'r.isLt
/-- A mask register written. -/
def Ctx.setM (c : Ctx) (r : MReg) (v : Mask) : Ctx := { c with mregs := c.mregs.set r.toNat v r.isLt }
/-- A handle register. -/
def Ctx.getH (c : Ctx) (r : HReg) : Handle := c.hregs[r.toNat]'r.isLt
/-- A handle register written. -/
def Ctx.setH (c : Ctx) (r : HReg) (v : Handle) : Ctx := { c with hregs := c.hregs.set r.toNat v r.isLt }

/-- The context whose instruction runs. -/
def State.me (s : State) : Ctx := s.ctx s.cur
/-- The current context changed. -/
def State.modMe (s : State) (f : Ctx → Ctx) : State := s.modCtx s.cur f
/-- A scalar register of the current context. -/
def State.rs (s : State) (r : SReg) : Word := s.me.getS r
/-- A vector register of the current context. -/
def State.rv (s : State) (r : VReg) : Vec := s.me.getV r
/-- A mask register of the current context. -/
def State.rm (s : State) (r : MReg) : Mask := s.me.getM r
/-- A handle register of the current context. -/
def State.rh (s : State) (r : HReg) : Handle := s.me.getH r
/-- A scalar register of the current context written. -/
def State.setS (s : State) (r : SReg) (v : Word) : State := s.modMe fun c => c.setS r v
/-- A vector register of the current context written. -/
def State.setV (s : State) (r : VReg) (v : Vec) : State := s.modMe fun c => c.setV r v
/-- A mask register of the current context written. -/
def State.setM (s : State) (r : MReg) (v : Mask) : State := s.modMe fun c => c.setM r v
/-- A handle register of the current context written. -/
def State.setH (s : State) (r : HReg) (v : Handle) : State := s.modMe fun c => c.setH r v

/-- c.self (R177): CTX, X, Y, DIE, SUP, SYS. System instructions are enabled on supervisor cores (R175). -/
def selfWord (cid : Nat) : Word := wd (cid % 65536 + 2 ^ 16 * b2n (isSup cid) + 2 ^ 17 * b2n (isSup cid))

/-- System instructions enabled in a context (R175, R177). -/
def sysEnabled (cid : Nat) : Bool := isSup cid

/-- c.cycle of a die (R233): core cycles since it left reset. -/
def cycleOf (s : State) (die : Nat) : Nat := (s.die die).cycle2 / 2

/-- Ungated core cycles of a die (R21). -/
def ungatedOf (s : State) (die : Nat) : Nat := (s.die die).ungated8 / 16

/-- Ungated core cycles as a context counts them: a supervisor core is never gated (R21). -/
def ungatedFor (s : State) (cid : Nat) : Nat := if isSup cid then cycleOf s (dieOf cid) else ungatedOf s (dieOf cid)

/-- Newt cycles since power-up (R7). -/
def newtCycles (s : State) : Nat := s.time / 2

/-- A state with the parked dies that another has begun to wake (R62): what is left of a step that must wait. -/
def withWakes (s s1 : State) : State :=
  { s with dies := s.dies.map fun p => (p.1, { p.2 with returning := p.2.returning || (s1.die p.1).returning }) }

/-! ## Free values -/

/-- The next free value of w bits (log entry 11). -/
def drawBits (s : State) (w : Nat) : BitVec w × State := (Config.freeBits w s.free, { s with free := s.free + 1 })

/-- The next open choice among n (log entry 11). -/
def drawChoice (s : State) (n : Nat) : Nat × State := (Config.freeChoice s.free % n, { s with free := s.free + 1 })

/-- The next n bytes that a remote agent supplies (log entry 14). -/
def drawBytes (s : State) (n : Nat) : List Byte × State :=
  ((List.range n).map fun i => Config.remoteByte (s.free + i), { s with free := s.free + n })

/-! ## Faults -/

/-- What ends an instruction other than its effect: a fault, with the state as before the instruction or with the one
effect its rule leaves; a fault for want of pending room, which leaves FULL set on a die and nothing else (R119); a stall; a blocking point with its wake condition and deadline. -/
inductive Stop where
  | trap (t : Trap)
  | trapIn (t : Trap) (s : State)
  | trapFull (t : Trap) (die : Nat)
  | stall (s : State)
  | block (w : Wake) (deadline : Nat) (s : State)
  deriving DecidableEq, Repr

/-- A result, or what stops the instruction. -/
abbrev Res (α : Type) := Except Stop α

/-- The illegal-operand fault (R377). -/
def illegal : Stop := .trap { code := 0x12 }

/-- Raises a fault when a condition holds. -/
def trapIf (b : Bool) (e : Stop) : Res Unit := if b then .error e else .ok ()

/-- Raises the illegal-operand fault when a condition holds. -/
def illegalIf (b : Bool) : Res Unit := trapIf b illegal

/-- The code of a context state in DWST and PREV (R386). -/
def CtxSt.code : CtxSt → Nat
  | .idle => 0 | .ready => 1 | .stalled => 2 | .blocked => 3 | .parked => 4 | .frozen => 5 | .evicted => 6

/-- Applies the pending register writes of windows to a context (R214). -/
def applyWrites (c : Ctx) : List RegWrite → Ctx
  | [] => c
  | .s r v :: ws => applyWrites (c.setS r v) ws
  | .v r v :: ws => applyWrites (c.setV r v) ws
  | .fpflags b :: ws =>
    applyWrites { c with fpflags := c.fpflags ||| wd b, ev := c.ev ||| (b &&& c.fpen.toNat) } ws

/-- Every long-latency instruction of a context completes (R379), and their windows go on for the rest of their length (R214); one
that waits at a bank is not complete until the bank has served it, and one that will fault does not complete. -/
def finishWindows (c : Ctx) : Ctx :=
  { applyWrites c (c.windows.map (·.writes)).flatten with
    windows := (c.windows.map fun w => { w with writes := [], finished := w.bank.isNone && w.late.isNone }).filter fun w =>
      !(w.left == 0 && w.finished) }

/-- The supervisor ring that a core's packets go to (R383, R384). -/
def ringOf (s : State) (core : Nat) : Nat :=
  let y := core / 16 % 16
  if y = 15 then 1 - core % 16 % 2 else b2n (bit (s.die (core / 256)).froute y)

/-- The state of a context before its core froze (R381, R386). -/
def stateBefore (c : Ctx) : CtxSt := if c.st = .frozen then c.prev else c.st

/-- The 64-byte fault packet (R381, R382). -/
def packetBits (s : State) (cid : Nat) (t : Trap) (pc : Nat) : BitVec 512 :=
  let c := s.ctx cid
  let d := s.die (dieOf cid)
  let prevs := (ctxsOf (coreOf cid)).zipIdx.foldl (fun a p => a + ((stateBefore (s.ctx p.1)).code <<< (4 * p.2))) 0
  let pass : Option (Nat × Nat) := if c.passing then some (c.rep.pass, c.rep.pos) else none
  let lo := t.code % 256 + ((cid % 4) <<< 8) + ((c.ahead % 16) <<< 10) + (b2n pass.isSome <<< 14)
    + (b2n t.srcPc.isSome <<< 15) + (dieOf cid <<< 16) + (rowOf cid <<< 20) + (colOf cid <<< 24)
    + ((d.seq % 2 ^ 32) <<< 32)
  let pas := match pass with
    | none => 0
    | some (j, i) => (j % 2 ^ 16) + ((i % 8) <<< 16)
  BitVec.ofNat 512 (lo + ((pc % 2 ^ 48) <<< 64) + ((t.addr % 2 ^ 48) <<< 128) + ((t.elem % 2 ^ 16) <<< 176)
    + ((t.info % 2 ^ 64) <<< 192) + ((t.aux % 2 ^ 16) <<< 256) + ((t.sub % 256) <<< 272) + (pas <<< 280)
    + (((t.srcPc.getD 0) % 2 ^ 48) <<< 320) + (prevs <<< 384))

/-- A packet or message queued for its ring (R384). -/
def sendPacket (s : State) (die ring cid : Nat) (bits : BitVec 512) : State :=
  s.modDie die fun d => { d with packets := d.packets ++ [{ ring := ring, cid := cid, bits := bits }], seq := d.seq + 1 }

/-- A fault of a die is reported to the firmware of IO0 when both of its supervisor cores are frozen (R384). -/
def reportDead (s : State) (die : Nat) : State :=
  if (s.core (supCore die 0)).frozen && (s.core (supCore die 1)).frozen then
    { s with netOut := s.netOut ++ [.report die] }
  else s

/-- A context stops with its core (R182): a resident context keeps its state in PREV. -/
def freezeCtx (c : Ctx) : Ctx :=
  match c.st with
  | .idle | .evicted | .frozen => c
  | st => { c with st := .frozen, prev := st }

/-- A core freezes (R378): every resident context of it is frozen. -/
def freezeCore (s : State) (core : Nat) : State :=
  let s1 := (ctxsOf core).foldl (fun s k => s.modCtx k freezeCtx) s
  s1.modCore core fun c => { c with frozen := true }

/-- The address of the body's instruction i, from the address of its first (R199). -/
def bodySlot (r : RepBuf) (i : Nat) : Nat :=
  let k := (r.pc % 64) / 12 + i
  r.pc - r.pc % 64 + 64 * (k / 5) + 12 * (k % 5)

/-- The address that the packet gives as the resume address: the slot of the faulting instruction, which for a pass is the
slot of the body's instruction (R381, R194). -/
def faultPc (c : Ctx) : Nat := if c.passing then bodySlot c.rep c.rep.pos else c.pc

/-! ## Matrix operand loads -/

/-- A format-error record (R307). -/
def mxRecord (cid pair : Nat) (bside : Bool) (e : Nat × Nat × Nat × Nat) : BitVec 256 :=
  let (cause, stack, win, line) := e
  BitVec.ofNat 256 (1 + (cause <<< 1) + (6 <<< 8) + (win <<< 16) + (stack <<< 24) + (rowOf cid <<< 32)
    + (colOf cid <<< 36) + (pair <<< 40) + (b2n bside <<< 41) + ((line * 256) <<< 64))

/-- A record written in ring order, with its number (R307). -/
def mxWrite (s : State) (die : Nat) (r : BitVec 256) : Nat × State :=
  let d := s.die die
  let i := d.mxNext % 16
  let old := d.mxrec[i]'(Nat.mod_lt _ (by decide))
  (i, s.setDie die { d with mxrec := d.mxrec.set i r (Nat.mod_lt _ (by decide)), mxNext := (i + 1) % 16,
                            mxOvf := d.mxOvf || old.getLsbD 0 })

/-- A matrix operand load writes its latch; one that met a format error poisons it, writes a record and halts its member's
queue (R292, R298, R306). -/
def applyMload (s : State) (l : MLoad) : State :=
  let core := coreOf l.cid
  let (r, s1) := match l.err with
    | none => (none, s)
    | some e =>
      let (i, s1) := mxWrite s (dieOf l.cid) (mxRecord l.cid l.pair l.bside e)
      (some i, s1.modCore core fun c => { c with halted := some i })
  let st := match r with | none => LatchSt.loaded | some i => .poisoned i
  let k := l.pair % 2
  have hk : k < 2 := Nat.mod_lt _ (by decide)
  if l.bside then
    s1.modGang (gangOf l.cid) fun g =>
      let sh := g.bshadow[k]
      let p := colOf l.cid % 8
      let x : BShadow := {
        eighths := (sh.eighths.filter fun e => e.1 != p) ++ [(p, l.interval, { l.b with st := st })],
        scales := sh.scales.filter fun e => e.1 != p }
      { g with bshadow := g.bshadow.set k x hk }
  else s1.modCore core fun c => { c with alatch := c.alatch.set k { l.a with st := st } hk }

/-- Every outstanding matrix operand load of a core completes. -/
def finishMloads (s : State) (core : Nat) : State :=
  (s.core core).mloads.foldl applyMload (s.modCore core fun c => { c with mloads := [] })

/-! ## Floating-point events -/

/-- The first instruction of a context that has not issued: of a pass while its buffer holds a body, which program order places
before those that follow it (R194, R389). -/
def nextPc (c : Ctx) : Nat := if c.rep.body.isEmpty then c.pc else bodySlot c.rep c.rep.pos

/-- The 16-byte message of a parked context (R389). -/
def parkBits (s : State) (cid ev : Nat) : BitVec 512 :=
  let c := s.ctx cid
  BitVec.ofNat 512 (0x40 + ((cid % 4) <<< 8) + (dieOf cid <<< 16) + (rowOf cid <<< 20) + (colOf cid <<< 24)
    + (((s.die (dieOf cid)).seq % 2 ^ 32) <<< 32) + ((nextPc c % 2 ^ 48) <<< 64) + ((ev % 32) <<< 112))

/-- A context with an enabled floating-point condition parked: ready, stalled, or frozen in one of these states (R182, R389). A
blocked one parks when it becomes ready. -/
def parkCtx (c : Ctx) : Option Ctx :=
  if c.ev = 0 then none
  else match c.st with
    | .ready | .stalled => some { c with ev := 0, st := .parked }
    | .frozen => if c.prev = .ready ∨ c.prev = .stalled then some { c with ev := 0, prev := .parked } else none
    | _ => none

/-- A context with an enabled floating-point condition parks and sends its message (R182, R389). -/
def parkIfEvent (s : State) (cid : Nat) : State :=
  match parkCtx (s.ctx cid) with
  | none => s
  | some c =>
    let s1 := s.setCtx cid c
    sendPacket s1 (dieOf cid) (b2n (bit (s1.die (dieOf cid)).froute 16)) cid (parkBits s1 cid (s.ctx cid).ev)

/-! ## Taking a fault -/

/-- The window of a context whose owner is about to fault, if there is one (R379). -/
def lateWindow (c : Ctx) : Option (Window × Late) := c.windows.findSome? fun w => w.late.map fun l => (w, l)

/-- A context brought back to the long-latency instruction that faults late: the instructions of its window that have completed are
counted, what has not completed is cancelled, and the replay record is kept where there are any (R379, R380). Where there are none it
is issued anew, and counts in earlier windows then. -/
def lateCtx (c : Ctx) (w : Window) (l : Late) : Ctx :=
  let before := c.windows.filter (·.late.isNone)
  { c with windows := if l.size = w.left then before.map fun x => { x with left := x.left + 1 } else before,
           pc := l.pc, skipTo := c.pc, ahead := l.size - w.left,
           replayV := l.size != w.left, replay := if l.size = w.left then c.replay else l.ops, passing := false, st := .ready }

/-- The fault that a context takes and the context as it stands at it: of the oldest instruction that faulted (R379). -/
def oldestFault (c : Ctx) (t : Trap) : Ctx × Trap :=
  match lateWindow c with
  | some (w, l) => (lateCtx c w l, l.trap)
  | none => (c, t)

/-- What a fault leaves of the instruction under way: it is entered again plainly when the core resumes (R182, R205, R388). -/
def faultCtx (c : Ctx) : Ctx :=
  { c with mid := .none, xlat := [], wake := .none, deadline := 0, entry := .plain, met := false, look := none,
           awaits := [], reply := [], ahead := if c.replayV then c.ahead else 0,
           passFault := if c.passing then some (c.rep.pass, c.rep.pos) else none, passing := false, atGang := false }

/-- Every long-latency instruction of a context completed, at a freeze (R379, R389). -/
def settleCtx (s : State) (cid : Nat) : State :=
  parkIfEvent ((finishMloads s (coreOf cid)).modCtx cid finishWindows) cid

/-- One packet sent for a context to its core's supervisor, and the core frozen (R378 to R384). -/
def freezeWith (s : State) (cid : Nat) (t : Trap) (f : Ctx → Ctx) : State :=
  let core := coreOf cid
  let bits := packetBits s cid t (faultPc (s.ctx cid))
  let s1 := (sendPacket s (dieOf cid) (ringOf s core) cid bits).modCtx cid f
  reportDead (freezeCore (s1.modCore core fun c => { c with packet := bits }) core) (dieOf cid)

/-- TAKING A FAULT (R378 to R384): the context's earlier long-latency instructions complete, one packet is sent to the
supervisor, and the core freezes. The program counter stays at the faulting instruction, which is entered again plainly
when the core resumes. DEDUCED, log entry 16. -/
def takeFault (s : State) (cid : Nat) (t : Trap) : State :=
  let x := oldestFault (s.ctx cid) t
  freezeWith (settleCtx (s.setCtx cid x.1) cid) cid x.2 faultCtx

/-! ## Flags -/

/-- Floating-point flags added to c.fpflags; the enabled ones park the context when the instruction ends (R161, R389). -/
def raiseFlags (s : State) (bits : Nat) : State :=
  s.modMe fun c => { c with fpflags := c.fpflags ||| wd bits, ev := c.ev ||| (bits &&& c.fpen.toNat) }

/-! ## The end of an instruction -/

/-- The slot that follows a slot in sequence (R199). -/
def nextSlot (pc : Nat) : Nat := if pc % 64 = 48 then pc - pc % 64 + 64 else pc + 12

/-- One instruction has passed in every window of the context; a window that has passed and whose owner has completed
ends (R214). -/
def tickWindows (ws : List Window) : List Window :=
  (ws.map fun w => { w with left := w.left - 1 }).filter fun w => !(w.left == 0 && w.finished)

/-- The sequencer's place after a pass instruction (R192). -/
def advanceRep (r : RepBuf) : RepBuf :=
  if r.pos + 1 < r.body.length then { r with pos := r.pos + 1 }
  else if r.pass + 1 < r.count then { r with pos := 0, pass := r.pass + 1 }
  else {}

/-- What every completed instruction does to its context: it counts, its windows advance, and what it kept while it
waited is cleared (R233, R214). -/
def retireInstr (c : Ctx) : Ctx :=
  { c with icount := c.icount + 1#64, mid := .none, xlat := [], wake := .none, deadline := 0, met := false,
           watch := none, look := none, awaits := [], reply := [], st := .ready, windows := tickWindows c.windows }

/-- An instruction completes in sequence: the program counter moves to the next slot, or the sequencer to its next place
(R199, R192). -/
def finish (s : State) : State :=
  let s1 := s.modMe fun c =>
    if c.passing then { retireInstr c with rep := advanceRep c.rep, passing := false, passFault := none }
    else { retireInstr c with pc := nextSlot c.pc, entry := .seq }
  parkIfEvent s1 s1.cur

/-- An instruction completes with a taken transfer to an address (R204, R225). -/
def finishTo (s : State) (target : Nat) : State :=
  let s1 := s.modMe fun c => { retireInstr c with pc := target, entry := .branch, srcPc := some c.pc }
  parkIfEvent s1 s1.cur

/-- The current context stalls (R180, R182). -/
def stallNow (s : State) : State := s.modMe fun c => { c with st := .stalled, passing := false }

/-- The current context waits at a blocking point (R181, R182). -/
def blockNow (s : State) (w : Wake) (deadline : Nat) : State :=
  s.modMe fun c => { c with st := .blocked, wake := w, deadline := deadline, met := false, passing := false,
                            blockedAt := cycleOf s (dieOf s.cur) }

/-- An earlier instruction of the current context waits at a bank, so that a fault waits for it (R379). -/
def awaitsBank (s : State) : Bool := s.me.windows.any fun w => w.bank.isSome

/-- The faults that a long-latency instruction may meet after its window has begun to issue: those of its accesses (R379). -/
def lateCode (code : Nat) : Bool :=
  (decide (1 ≤ code) && decide (code ≤ 8)) || code == 0x20 || code == 0x21 || code == 0x29 || code == 0x2A

/-- A long-latency instruction with lookahead goes on to its window and will fault after that has begun to issue (R379). -/
def openLate (s : State) (k : Look) (t : Trap) : State :=
  s.modMe fun c =>
    let w : Window := { left := k.la, dests := k.dests, writes := [],
                        summary := k.summary,
                        late := some { trap := t, pc := c.pc, size := k.la, ops := k.ops, latch := k.latch } }
    { c with pc := nextSlot c.pc, entry := .seq, mid := .none, xlat := [], wake := .none, deadline := 0, met := false,
             watch := none, look := none, st := .ready, windows := tickWindows c.windows ++ [w] }

/-- A fault of the current context: taken at once, once the earlier instructions have completed (R379), or, of an access of a
long-latency instruction with lookahead, perhaps after its window has begun to issue, which is an open choice.
DEDUCED, log entry 16. -/
def faultNow (s : State) (t : Trap) : State :=
  if awaitsBank s then stallNow s
  else match s.me.look with
    | some k =>
      if lateCode t.code && (lateWindow s.me).isNone then
        let (c, s1) := drawChoice s 2
        if c = 0 then takeFault s1 s1.cur t else openLate s1 k t
      else takeFault s s.cur t
    | none => takeFault s s.cur t

/-- What stops an instruction, performed: s is the state before the instruction. -/
def stopNow (s : State) : Stop → State
  | .trap t => faultNow s t
  | .trapIn t s' => faultNow s' t
  | .trapFull t d => faultNow (s.modDie d fun x => { x with eshFull := true }) t
  | .stall s' => stallNow s'
  | .block w d s' => blockNow s' w d

/-- The outcome of an instruction in sequence from its effect. -/
def run (s : State) (r : Res State) : Host.Outcome State Fault Refusal :=
  .next (match r with | .ok s' => finish s' | .error e => stopNow s e)

/-- The outcome of an instruction that may transfer: the target, or none to go on in sequence. -/
def runJump (s : State) (r : Res (State × Option Nat)) : Host.Outcome State Fault Refusal :=
  .next (match r with
    | .ok (s', some t) => finishTo s' t
    | .ok (s', none) => finish s'
    | .error e => stopNow s e)

/-- The end of a long-latency instruction with lookahead la and its register writes (R213, R214): without lookahead the
writes are made at once; with it, a window opens and they are made when the instruction completes. -/
def finishLong (s : State) (la : BitVec 4) (dests : List RegName) (ws : List RegWrite) : State :=
  if la = 0#4 then finish (s.modMe fun c => applyWrites c ws)
  else (finish s).modMe fun c =>
    { c with windows := c.windows ++ [{ left := la.toNat, dests := dests, writes := ws }] }

/-- The outcome of a long-latency instruction. -/
def runLong (s : State) (la : BitVec 4) (dests : List RegName) (r : Res (State × List RegWrite)) :
    Host.Outcome State Fault Refusal :=
  .next (match r with | .ok (s', ws) => finishLong s' la dests ws | .error e => stopNow s e)

/-! ## Wakes -/

/-- The kind number of a wake condition (R392). -/
def Wake.kind : Wake → Nat
  | .none => 0 | .barrier .. => 1 | .tide .. => 2 | .handle _ => 3 | .token _ => 4 | .tile .. => 5 | .remote .. => 6
  | .word .. => 7

/-- A wake condition as the 128 bits of DWWAKE and of the save image (R392). -/
def Wake.bits : Wake → Nat
  | .none => 0
  | .barrier va p => 1 + ((va % 2 ^ 48) <<< 4) + ((p % 16) <<< 52)
  | .tide d ph l => 2 + ((d % 2 ^ 16) <<< 4) + (b2n ph <<< 20) + ((l % 4) <<< 21)
  | .handle h => 3 + ((h % 16) <<< 4)
  | .token t => 4 + ((t % 2 ^ 20) <<< 4)
  | .tile v e => 5 + ((v % 160) <<< 4) + ((e % 128) <<< 12)
  | .remote d f t => 6 + ((d % 64) <<< 4) + (b2n f <<< 10) + ((t % 16) <<< 11)
  | .word va c v => 7 + ((va % 2 ^ 48) <<< 4) + ((c % 4) <<< 52) + ((v % 2 ^ 64) <<< 64)

/-- A context whose wake condition is met: a blocked one becomes ready and its instruction issues again with what the
event recorded; a frozen one keeps the event for its resumption (R182). -/
def wakeOne (m : Mid) (c : Ctx) : Ctx :=
  match c.st with
  | .blocked => { c with st := .ready, met := true, mid := m }
  | .frozen => if c.prev = .blocked ∧ c.met = false then { c with met := true, mid := m } else c
  | _ => c

/-- The source of what is no event of R393's message entries: a context's own deadline, or its next look at a window. -/
def ownClock (cid : Nat) : Nat := 2 ^ 32 + cid

/-- An event of a kind from a source reaches a save image (R393): it is merged with an entry of its kind and source; with
all sixteen entries taken and the condition unmet it is refused, and its sender retries; once the condition is met it is
discarded and counted. A handle's completion and the context's own clock take no entry, and are neither refused nor counted. The
result says what the event records when it meets the condition. -/
def imageEvent (d : Die) (img : Image) (kind source : Nat) (m : Option Mid) : Image × Option Retry × Nat × Nat :=
  let own := kind == 3 || decide (2 ^ 32 ≤ source)
  if img.ctx.met then (img, none, b2n !own, d.dueCount)
  else if own then
    match m with
    | some r => ({ img with ctx := { img.ctx with met := true, mid := r }, due := some d.dueCount }, none, 0, d.dueCount + 1)
    | none => (img, none, 0, d.dueCount)
  else if img.events.contains (kind, source) || decide (img.events.length < 16) then
    let ev := if img.events.contains (kind, source) then img.events else img.events ++ [(kind, source)]
    match m with
    | some r => ({ img with events := ev, ctx := { img.ctx with met := true, mid := r }, due := some d.dueCount },
        none, 0, d.dueCount + 1)
    | none => ({ img with events := ev }, none, 0, d.dueCount)
  else
    (img, some { cid := img.cid, inc := img.ctx.incarnation, kind := kind, source := source, meets := m }, 0, d.dueCount)

/-- The number of the EVDISC lifetime counter in a die's counter table: its offset (R407). -/
def ctrEvdisc : Nat := 0x58

/-- A lifetime counter of a die advanced; it saturates (R407). -/
def bumpCtr (m : SMap Nat) (off n : Nat) : SMap Nat :=
  if n = 0 then m else SMap.put m off (min (SMap.getD m off 0 + n) (2 ^ 64 - 1))

/-- A lifetime counter of a die counts n more events (R407). -/
def countDie (s : State) (die off n : Nat) : State := s.modDie die fun d => { d with ctrs := bumpCtr d.ctrs off n }

/-- A lifetime counter of an I/O die counts n more events (R407). -/
def countIo (s : State) (io off n : Nat) : State := s.modIo io fun d => { d with ctrs := bumpCtr d.ctrs off n }

/-- The images of one die after an event that reaches those that p names. -/
def imagesEvent (kind source : Nat) (p : Nat → Ctx → Option (Option Mid)) (d : Die) : Die :=
  d.images.foldl (fun d img =>
    match p img.cid img.ctx with
    | none => { d with images := d.images ++ [img] }
    | some m =>
      let (img', r, disc, due) := imageEvent d img kind source m
      { d with images := d.images ++ [img'], retries := d.retries ++ r.toList, dueCount := due,
               ctrs := bumpCtr d.ctrs ctrEvdisc disc }) { d with images := [] }

/-- An event that waiting contexts may be waiting for. For a context that waits, p says whether the event reaches it and,
if it meets the wake condition, what it records. Evicted contexts take it in their images (R182, R393). -/
def wakeAll (s : State) (kind source : Nat) (p : Nat → Ctx → Option (Option Mid)) : State :=
  { s with
    ctxs := s.ctxs.map fun kc =>
      match p kc.1 kc.2 with
      | some (some m) => (kc.1, wakeOne m kc.2)
      | _ => kc
    dies := s.dies.map fun kd => if kd.2.images.isEmpty then kd else (kd.1, imagesEvent kind source p kd.2) }

end Sys2Proof.Machine
end

