-- ==== Sys2Proof/Machine/Addr.lean ====
section
/-! DEFINITION. Physical addresses: regions and their forms, the interleave function, homes, banks and their rows
(spec chapters 02 and 03). -/

namespace Sys2Proof.Machine
open Sys2Proof

/-- Where a physical address leads: a byte of DRAM by its bank-local address, a byte of a vault by its region-form address,
a device register, a debug window, or a network window with its number and offset. -/
inductive Loc where
  | dram (a : Nat)
  | vault (a : Nat)
  | dev (a : Nat)
  | dbg (a : Nat)
  | net (w off : Nat)
  deriving DecidableEq, Repr

/-- The region of a physical address (R27). -/
def regionOf (pa : Nat) : Nat := fld pa 42 6

/-- A DRAM region (R27). -/
def isDramRegion (r : Nat) : Bool := r == 0 || r == 4 || r == 5 || r == 6

/-- A bank-local address from its fields (R28). -/
def bankLocal (stack bank cls row col : Nat) : Nat :=
  (stack <<< 37) + (bank <<< 27) + (cls <<< 26) + (row <<< 10) + col

/-- The stack of a bank-local address (R28). -/
def stackOf (a : Nat) : Nat := fld a 37 5
/-- The bank within the stack (R28). -/
def bankNo (a : Nat) : Nat := fld a 27 10
/-- The bank of a bank-local address, numbered over the package. -/
def bankKey (a : Nat) : Nat := stackOf a * 768 + bankNo a
/-- The class of a bank-local address: 0 deep, 1 shelf (R28). -/
def classOf (a : Nat) : Nat := fld a 26 1
/-- The row of a bank-local address (R28). -/
def rowNo (a : Nat) : Nat := fld a 10 16
/-- The column of a bank-local address (R28). -/
def colNo (a : Nat) : Nat := fld a 0 10

/-- The promotion slots of each subarray under a bank's SHMODE (R54). -/
def promoSlots (b : Bank) : Nat := 8 * b.shmode

/-- The addressed shelf rows of a bank (R55). -/
def shelfRows (b : Bank) : Nat := 128 * (32 - promoSlots b)

/-- The usable deep rows of a bank (R29). -/
def deepRows : Nat := 59520

/-- Whether a class and row name a row of the bank (R29). -/
def validRow (b : Bank) (cls row : Nat) : Bool :=
  if cls = 0 then decide (row < deepRows) else decide (row < shelfRows b)

/-- A bank-local address that names a byte of a bank (R28, R29). -/
def validBankLocal (s : State) (a : Nat) : Bool :=
  decide (stackOf a < 24) && decide (bankNo a < 768) && validRow (s.bank (bankKey a)) (classOf a) (rowNo a)

/-- The interleave function (R30): the bank-local address that a region-form DRAM address names, if it is valid for its
form. -/
def dramLoc (s : State) (pa : Nat) : Option Nat :=
  let r := regionOf pa
  if r = 0 then if validBankLocal s pa then some pa else none
  else if r = 4 then
    let n := fld pa 10 20
    let st := fld pa 37 5
    let ch := fld pa 31 6
    if fld pa 30 1 = 0 ∧ st < 24 ∧ ch < 48 ∧ n < 952320 then
      some (bankLocal st (16 * ch + n % 16) 0 (n / 16) (colNo pa))
    else none
  else if r = 5 then
    let n := fld pa 10 26
    let st := fld pa 37 5
    if fld pa 36 1 = 0 ∧ st < 24 ∧ n < 45711360 then some (bankLocal st (n % 768) 0 (n / 768) (colNo pa)) else none
  else if r = 6 then
    let n := fld pa 10 31
    if fld pa 41 1 = 0 ∧ n < 1097072640 then
      some (bankLocal (n % 24) (n / 24 % 768) 0 (n / 18432) (colNo pa))
    else none
  else none

/-- The size of a vault (R26, R31). -/
def vaultSize : Nat := 0xC00000

/-- A vault's address from its number over the package and the offset (R31). -/
def vaultAddr (v off : Nat) : Nat := 2 ^ 42 + ((v / 160) <<< 36) + ((v % 160) <<< 28) + off

/-- The vault of a vault address, numbered over the package. -/
def vaultNo (a : Nat) : Nat := fld a 36 4 * 160 + fld a 28 8

/-- The byte offset of a vault address. -/
def vaultOff (a : Nat) : Nat := fld a 0 24

/-- A valid vault address (R31). -/
def validVault (pa : Nat) : Bool :=
  regionOf pa == 1 && fld pa 40 2 == 0 && decide (fld pa 36 4 < 12) && decide (fld pa 28 8 < 160) && fld pa 24 4 == 0
    && decide (fld pa 0 24 < vaultSize)

/-- A valid device-register address (R32). -/
def validDev (pa : Nat) : Bool := regionOf pa == 2 && fld pa 40 2 == 0 && decide (fld pa 36 4 < 14)

/-- A valid debug-window address (R385). -/
def validDbg (pa : Nat) : Bool :=
  regionOf pa == 3 && fld pa 40 2 == 0 && decide (fld pa 36 4 < 12) && decide (fld pa 32 4 < 10) && fld pa 20 8 == 0

/-- The region checks of a physical address (R27 to R32, R385): none raises the physical-address fault. A network window's
own checks follow in `netFault`. -/
def physLoc (s : State) (pa : Nat) : Option Loc :=
  if 2 ^ 48 ≤ pa then none
  else if isDramRegion (regionOf pa) then (dramLoc s pa).map .dram
  else if regionOf pa = 1 then (if validVault pa then some (.vault pa) else none)
  else if regionOf pa = 2 then (if validDev pa then some (.dev pa) else none)
  else if regionOf pa = 3 then (if validDbg pa then some (.dbg pa) else none)
  else if bit pa 47 then some (.net (fld pa 40 7) (fld pa 0 40))
  else none

/-- A register word of an I/O die (R32). -/
def IoDie.reg (d : IoDie) (off : Nat) : Word := SMap.getD d.regs off 0#64

/-- The I/O die of a network window (R33). -/
def winIo (w : Nat) : Nat := w / 64

/-- The offset of a window's first register (R33). -/
def winOff (w : Nat) : Nat := 0x20000 + 32 * (w % 64)

/-- Kinds of access (R38). -/
inductive AccKind where
  | load | store | atomic | fetch
  deriving DecidableEq, Repr

/-- Whether an access to a network window raises the network-window fault (R33, R420). An instruction fetch needs RD, as a load
does: DESIGN CHOICE, log entry 28. -/
def netFault (s : State) (w off size : Nat) (k : AccKind) : Bool :=
  let d := s.io (winIo w)
  let ctl := (d.reg (winOff w)).toNat
  let sz := (d.reg (winOff w + 8)).toNat
  d.out || !bit ctl 0 || decide (sz < off + size) ||
    (match k with
     | .load | .fetch => !bit ctl 1
     | .store => !bit ctl 2
     | .atomic => !bit ctl 3 || !(size == 4 || size == 8))

/-- The home slice of a DRAM line, numbered over the package (R88). -/
def homeSlice (a : Nat) : Nat :=
  let l := fld a 8 40
  let h := (l % 65536) ^^^ (l / 65536 % 65536) ^^^ (l / 2 ^ 32)
  stackOf a / 2 * 160 + h * 160 / 65536

/-- The physical deep row that a logical deep row is mapped to (R64). -/
def mapRow (b : Bank) (d : Nat) : Nat := SMap.getD b.remap d d

/-- The promotion slot that holds a logical deep row, if one does (R57). -/
def slotOfRow (b : Bank) (d : Nat) : Option (Nat × PromoSlot) := List.find? (fun p => p.2.row == d) b.slots

/-- The physical place that serves a bank-local address: a shelf slot when its row is promoted, else the mapped physical
row (R57, R58, R64). Slot k of subarray a is shelf row 128 k + a (R29); slots are keyed by that row. -/
def physAddr (s : State) (a : Nat) : Nat :=
  if classOf a = 1 then a
  else
    let b := s.bank (bankKey a)
    match slotOfRow b (rowNo a) with
    | some (k, _) => bankLocal (stackOf a) (bankNo a) 1 k (colNo a)
    | none => bankLocal (stackOf a) (bankNo a) 0 (mapRow b (rowNo a)) (colNo a)

/-- The group and step that hold a bank, if the bank is a member of a group whose head step is in one of the phases
(R69). -/
def stepsOfBank (s : State) (bk : Nat) : List (Group × RStep) :=
  let die := bk / 1536
  let idx := bk % 1536
  (s.die die).groups.filterMap fun (_, g) =>
    if g.en ∧ g.first ≤ idx ∧ idx < g.first + 2 ^ g.log2 then g.steps.head?.map fun st => (g, st) else none

/-- A bank in a step in flood, in move or in publish (R69). -/
def bankLive (s : State) (bk : Nat) : Bool := (stepsOfBank s bk).any fun p => p.2.phase != .armed

/-- A bank in a step that is armed, in flood, in move or in publish (R56, R68). -/
def bankInStep (s : State) (bk : Nat) : Bool := !(stepsOfBank s bk).isEmpty

/-- A bank in a step in publish (R69). -/
def bankPublish (s : State) (bk : Nat) : Bool := (stepsOfBank s bk).any fun p => p.2.phase == .publish

/-- A bank that is fenced, by its stack's or its die's withdrawal (R54, R420). -/
def bankFenced (s : State) (bk : Nat) : Bool := (s.bank bk).fenced

end Sys2Proof.Machine
end

