-- ==== Sys2Proof/Machine/Translate.lean ====
section
/-! DEFINITION. Translation of virtual addresses: page-table entries, TLBs, misses, the order of checks (R25, R26, R34 to R45). -/

namespace Sys2Proof.Machine
open Sys2Proof

/-- Eight bytes of published memory as a number. -/
def readWord64 (s : State) (a : Nat) : Nat := bytesToNat (s.mem.readN a 8)

/-- A table address that the walker accepts: in a DRAM region and valid for its form (R35, R37). -/
def tableOk (s : State) (pa : Nat) : Bool := isDramRegion (regionOf pa) && (dramLoc s pa).isSome

/-- The lowest bit of the index at a level, which is also the page size of a leaf there (R35). -/
def levelShift : Nat → Nat
  | 0 => 39 | 1 => 30 | 2 => 21 | _ => 16

/-- Whether a page of 2^log2 bytes at a region-form address stays within the valid range of its form (R37). -/
def pageFits (s : State) (oa log2 : Nat) : Bool :=
  let last := oa + 2 ^ log2 - 1
  let r := regionOf oa
  if isDramRegion r then
    (r != 0 || decide (log2 ≤ 26)) && (dramLoc s oa).isSome && (dramLoc s last).isSome && regionOf last == r
  else if r = 1 then decide (log2 ≤ 21) && validVault oa && validVault last
  else if r = 2 then log2 == 16 && validDev oa
  else if r = 3 then log2 == 16 && validDbg oa
  else true

/-- The checks of a valid leaf (R37). -/
def leafOk (s : State) (level ent : Nat) : Bool :=
  let oa := fld ent 12 36 * 4096
  let log2 := levelShift level
  let r := regionOf oa
  level != 0 && fld ent 48 16 == 0 && oa % 2 ^ log2 == 0 && pageFits s oa log2
    && (!(r == 2 || r == 3) || bit ent 4)
    && (!bit ent 5 || (!bit ent 2 && level != 1 && isDramRegion r && r != 6 && decide (fld oa 37 5 < 2)))

/-- The checks of a valid table entry (R37). -/
def tableEntOk (s : State) (level ent : Nat) : Bool :=
  level != 3 && fld ent 48 16 == 0 && fld ent 2 6 == 0 && tableOk s (fld ent 12 36 * 4096)

/-- The output address that a core of a die uses for a leaf: an RM page names the die's own copy (R39). -/
def leafOut (die ent : Nat) : Nat :=
  let oa := fld ent 12 36 * 4096
  if bit ent 5 then setFld oa 37 5 (2 * die + fld oa 37 5) else oa

/-- The page number of an address at the walker's granularity (R43). -/
def pageNo (va : Nat) : Nat := va / 65536

/-- The output address and fields for a 64 KiB page from a leaf. -/
def xlatOfLeaf (page log2 oa attrs : Nat) : Xlat :=
  { page := page, ok := true, oa := oa + (page * 65536) % 2 ^ log2, attrs := attrs }

/-- A supervisor context whose ROOT is 0 does not translate (R176). -/
def untranslated (s : State) (cid : Nat) : Bool := isSup cid && fld (s.ctx cid).troot.toNat 12 36 == 0

/-- A TLB entry for an address, if the core holds one (R42). -/
def tlbHit (c : Core) (asid va : Nat) : Option TlbEntry :=
  c.tlb.find? fun e => e.asid == asid && e.va == va >>> e.log2

/-- A TLB entry moved to the front as the most recently used, or entered, dropping the least recently used beyond 128
(R42). -/
def tlbTouch (c : Core) (e : TlbEntry) : Core := { c with tlb := (e :: c.tlb.filter (· != e)).take 128 }

/-- A miss entered in the die's queue, coalesced with one of the same key and level-0 table; a full queue leaves the access
waiting in its core (R34, R43). A miss whose walk a walker holds still counts among the 1,024: DESIGN CHOICE, log entry 28. -/
def enqueueMiss (s : State) (cid page : Nat) : State :=
  let c := s.ctx cid
  let asid := fld c.asid.toNat 0 16
  let root := fld c.troot.toNat 12 36 * 4096
  let same := fun m : Miss => m.asid == asid && m.page == page && m.root == root
  s.modDie (dieOf cid) fun d =>
    if d.missq.any same then
      { d with missq := d.missq.map fun m =>
          if same m && !m.cids.contains cid then { m with cids := m.cids ++ [cid] } else m }
    else if d.missq.length < 1024 then
      { d with missq := d.missq ++ [{ asid := asid, page := page, root := root, cids := [cid] }] }
    else d

/-- The leaf fields and address of a virtual address below the vault window for a context: from what its instruction has
obtained, or its TLB; otherwise it stalls on a miss (R42, R43). -/
def lookupPage (s : State) (cid va : Nat) : Res (Xlat × State) :=
  let c := s.ctx cid
  let page := pageNo va
  match c.xlat.find? fun x => x.page == page with
  | some x => .ok (x, s)
  | none =>
    match tlbHit (s.core (coreOf cid)) (fld c.asid.toNat 0 16) va with
    | some e => .ok (xlatOfLeaf page e.log2 e.oa e.attrs, s.modCore (coreOf cid) fun k => tlbTouch k e)
    | none => .error (.stall (enqueueMiss s cid page))

/-- A translated address: the physical address in region form, where it leads, and whether its page is tidal. -/
structure Phys where
  pa : Nat
  loc : Loc
  tide : Bool := false
  deriving DecidableEq, Repr

/-- A request type that R38 step 7 refuses for a place or a page. -/
def reqRefused (loc : Nat) (unco : Bool) (k : AccKind) (req : ReqType) : Bool :=
  let r := regionOf loc
  let special := r == 2 || r == 3 || bit loc 47
  (k != .fetch && req != .unc && (unco || special)) || (k == .atomic && (r == 2 || r == 3))

/-- Whether R38 step 7 refuses an access: by its place and page, or by R122 in a tidal page. An access without a request type,
which R62 and R247 check by the other steps alone, is not refused. -/
def typeRefused (pa : Nat) (unco tide : Bool) (k : AccKind) : Option ReqType → Bool
  | none => false
  | some req => reqRefused pa unco k req || (tide && (k == .atomic || (k != .fetch && req == .unc)))

/-- Steps 7 and 8 of R38 for an access of size bytes whose virtual address is reported. -/
def checkPhys (s : State) (k : AccKind) (req : Option ReqType) (va pa size elem : Nat) (unco tide : Bool) : Res Phys :=
  if typeRefused pa unco tide k req then .error (.trap { code := 6, addr := va, elem := elem })
  else
    match physLoc s pa with
    | none => .error (.trap { code := 7, addr := va, elem := elem })
    | some loc =>
      let bad := match loc with | .net w off => req.isSome && netFault s w off size k | _ => false
      if bad then .error (.trap { code := 8, addr := va, elem := elem })
      else .ok { pa := pa, loc := loc, tide := tide }

/-- Steps 3 to 6 of R38 for a page's fields. -/
def checkPage (k : AccKind) (sys : Bool) (attrs va elem : Nat) : Res Unit :=
  let store := k == .store || k == .atomic
  if bit attrs 4 && !sys then .error (.trap { code := 4, addr := va, elem := elem })
  else if k == .fetch && !bit attrs 3 then .error (.trap { code := 4, addr := va, elem := elem })
  else if store && bit attrs 5 then .error (.trap { code := 5, addr := va, elem := elem })
  else if store && !bit attrs 2 then .error (.trap { code := 4, addr := va, elem := elem })
  else .ok ()

/-- A vault-window address as the vault address it names for a die and core, or none for an ill-formed one (R26). -/
def vaultWindow (cid va : Nat) : Option Nat :=
  let v := fld va 28 8
  if fld va 36 4 ≠ 0 ∨ fld va 24 4 ≠ 0 ∨ vaultSize ≤ fld va 0 24 then none
  else if v = 255 then if isSup cid then none else some (vaultAddr (vaultOf cid) (fld va 0 24))
  else if v < 160 then some (vaultAddr (dieOf cid * 160 + v) (fld va 0 24))
  else none

/-- The translation and the checks of R38, in order, of one access of a context, with or without a request type. -/
def translateAs (s : State) (cid : Nat) (k : AccKind) (req : Option ReqType) (va size elem : Nat) : Res (Phys × State) :=
  if 2 ^ 48 ≤ va then .error (.trap { code := 1, addr := va, elem := elem })
  else if fld va 40 8 = 0xFF then
    match vaultWindow cid va with
    | none => .error (.trap { code := 1, addr := va, elem := elem })
    | some a => .ok ({ pa := a, loc := .vault a }, s)
  else if untranslated s cid then (checkPhys s k req va va size elem false false).map fun p => (p, s)
  else
    match lookupPage s cid va with
    | .error e => .error e
    | .ok (x, s1) =>
      if !x.ok then
        .error (.trap { code := x.code, addr := va, elem := elem, info := if x.code = 3 then x.ent else 0,
                        sub := x.level })
      else
        match checkPage k (sysEnabled cid) x.attrs va elem with
        | .error e => .error e
        | .ok () =>
          (checkPhys s1 k req va (x.oa + va % 65536) size elem (bit x.attrs 7) (bit x.attrs 6)).map fun p => (p, s1)

/-- The translation and the checks of R38, in order, of one access of a context. -/
def translate (s : State) (cid : Nat) (k : AccKind) (req : ReqType) (va size elem : Nat) : Res (Phys × State) :=
  translateAs s cid k (some req) va size elem

/-- The address space of a context (R34). -/
def spaceOf (s : State) (cid : Nat) : Space :=
  let c := s.ctx cid
  { die := dieOf cid, asid := fld c.asid.toNat 0 16, root := fld c.troot.toNat 12 36 * 4096, sys := sysEnabled cid,
    raw := untranslated s cid, core := some cid }

/-- The vault address that a vault-window operand names for an address space (R26): a space without a core refuses vault
number 0xFF. -/
def vaultWindowIn (sp : Space) (va : Nat) : Option Nat :=
  match sp.core with
  | some cid => vaultWindow cid va
  | none => if fld va 28 8 = 255 then none else vaultWindow (sp.die * 4096) va

end Sys2Proof.Machine
end

