-- ==== Sys2Proof/Machine/Race.lean ====
section
/-! DEFINITION. Agents and scopes, race records, pending room, and which units refuse a request (R95, R104, R105,
R111 to R113, R119, R396, R412, R420). -/

namespace Sys2Proof.Machine
open Sys2Proof

/-- The agents that access memory (R101). -/
inductive Agent where
  | ctx (cid : Nat)
  | engine (die : Nat)
  | newt (die : Nat)
  | io
  | remote
  deriving DecidableEq, Repr

/-- The gang instance of a context; a supervisor core belongs to no gang and stands alone (R14, R104).
DESIGN CHOICE, log entry 31. -/
def gangKey (cid : Nat) : Nat := if isSup cid then 1000000 + coreOf cid else gangOf cid

/-- A scope named by context w covers an agent (R104, R105). -/
def covers (sc : Scope) (w : Nat) (a : Agent) : Bool :=
  match sc, a with
  | .sys, _ => true
  | .pkg, .remote => false
  | .pkg, _ => true
  | .die, .ctx b => dieOf w == dieOf b
  | .die, .engine d => dieOf w == d
  | .die, .newt d => dieOf w == d
  | .gang, .ctx b => gangKey w == gangKey b
  | .core, .ctx b => coreOf w == coreOf b
  | .thr, .ctx b => w == b
  | _, _ => false

/-- A scope named by the agent of an engine operation or handle on a die covers a context: a die's engine belongs to no
thread, core or gang instance but that of its owner. -/
def scopeAtLeastGang : Scope → Bool
  | .thr | .core => false
  | .gang | .die | .pkg | .sys => true

/-- The rank of a scope in the order in which scopes nest (R105). -/
def scopeRank : Scope → Nat
  | .thr => 0 | .core => 1 | .gang => 2 | .die => 3 | .pkg => 4 | .sys => 5

/-- The mask of n bytes from a byte's place in its sector. -/
def byteMask (a n : Nat) : Nat := ones n <<< (a % 64)

/-- Whether an agent is the context of a record. -/
def isWriter (w : Nat) : Agent → Bool
  | .ctx b => w == b
  | _ => false

/-- The bytes of a record that conflict with an access of an agent to a mask of its sector (R112). -/
def raceOverlap (r : Race) (a : Agent) (sector mask : Nat) : Nat :=
  if r.sector ≠ sector ∨ isWriter r.ctx a then 0
  else (r.opn ||| (if covers r.scope r.ctx a then 0 else r.closed)) &&& mask

/-- The first of some records that conflicts, with the overlap (R112). -/
def raceIn (rs : List Race) (a : Agent) (sector mask : Nat) : Option (Race × Nat) :=
  rs.findSome? fun r => let o := raceOverlap r a sector mask; if o = 0 then none else some (r, o)

/-- The first record that conflicts, with the overlap (R112). -/
def raceConflict (s : State) (a : Agent) (sector mask : Nat) : Option (Race × Nat) := raceIn s.races a sector mask

/-- Records without bytes are no records. -/
def liveRaces (rs : List Race) : List Race := rs.filter fun r => r.opn ||| r.closed != 0

/-- An accepted write of a context to a mask of a sector: the closed bytes of other contexts that it covers leave their
records, and a write that opens a record opens or extends the writer's own (R111, R113). -/
def raceWrite (s : State) (cid sector mask : Nat) (opens : Bool) : State :=
  let rs := s.races.map fun r =>
    if r.sector = sector ∧ r.ctx ≠ cid then { r with closed := r.closed &&& (ones 64 ^^^ (mask &&& ones 64)) }
    else if r.sector = sector ∧ r.ctx = cid ∧ opens then
      { r with opn := r.opn ||| mask, closed := r.closed &&& (ones 64 ^^^ (mask &&& ones 64)) }
    else r
  let rs := liveRaces rs
  if opens && !(rs.any fun r => r.sector == sector && r.ctx == cid) then
    { s with races := rs ++ [{ sector := sector, ctx := cid, opn := mask, closed := 0, scope := .thr }] }
  else { s with races := rs }

/-- The marker closes the records of its context at its scope; records closed at package or system scope are removed
(R98, R113). -/
def raceClose (s : State) (cid : Nat) (sc : Scope) : State :=
  { s with races := liveRaces (s.races.map fun r =>
      if r.ctx ≠ cid then r
      else if 4 ≤ scopeRank sc then { r with opn := 0, closed := 0 }
      else if r.opn ≠ 0 then { r with opn := 0, closed := r.closed ||| r.opn, scope := sc }
      else if scopeRank r.scope < scopeRank sc then { r with scope := sc }
      else r) }

/-- Committed bytes leave the records that hold them (R113, R118, R127). -/
def raceStrip (s : State) (sector mask : Nat) : State :=
  let k := ones 64 ^^^ (mask &&& ones 64)
  { s with races := liveRaces (s.races.map fun r =>
      if r.sector = sector then { r with opn := r.opn &&& k, closed := r.closed &&& k } else r) }

/-- Bytes that a device's accepted write covers leave the closed parts of the records that hold them (R113). -/
def raceCover (s : State) (sector mask : Nat) : State :=
  let k := ones 64 ^^^ (mask &&& ones 64)
  { s with races := liveRaces (s.races.map fun r => if r.sector = sector then { r with closed := r.closed &&& k } else r) }

/-- The memory-model exception (R114): the sector's address, the overlap, the conflicting context and the cause. -/
def raceTrap (elem sector overlap ctx cause : Nat) : Stop :=
  .trap { code := 0x20, addr := sector * 64, elem := elem, info := overlap, aux := ctx % 65536, sub := cause }

/-! ## Units that refuse -/

/-- A boundary direction between neighbouring dies (R15, R412): 0 to 9 horizontal, 10 to 15 vertical; direction 0 is right
or down. The key of its link is 2 · boundary + direction; ports are 32 + port. -/
def hopDown (s : State) (a b : Nat) : Bool :=
  let key :=
    if b = a + 1 then 2 * (a / 6 * 5 + a % 6)
    else if a = b + 1 then 2 * (b / 6 * 5 + b % 6) + 1
    else if b = a + 6 then 2 * (10 + a)
    else 2 * (10 + b) + 1
  (SMap.getD s.links key {}).down

/-- A die that is withdrawing, out or returning (R419, R420). -/
def dieOut (s : State) (d : Nat) : Bool := if h : d < 38 then s.pkg.svuState[d] != 0 else false

/-- The dies passed along a row, the start left out. -/
def alongRow (a b : Nat) : List Nat :=
  if a ≤ b then (List.range (b - a)).map fun i => a + i + 1 else (List.range (a - b)).map fun i => a - i - 1

/-- The route of dies from one to another, along X first or along Y first (R72, R412). -/
def routeOf (xFirst : Bool) (a b : Nat) : List Nat :=
  let row := fun r c => r * 6 + c
  let (ra, ca, rb, cb) := (a / 6, a % 6, b / 6, b % 6)
  if xFirst then (alongRow ca cb).map (row ra) ++ (if ra = rb then [] else [b])
  else (if ra = rb then [] else [row rb ca]) ++ (alongRow ca cb).map (row rb)

/-- Whether a route crosses a boundary that is down in the direction of the request or in that of its reply, which takes the
reverse route, or passes through a die out of service (R72, R412, R420). -/
def routeDown (s : State) (a : Nat) : List Nat → Bool
  | [] => false
  | b :: rest => hopDown s a b || hopDown s b a || (!rest.isEmpty && dieOut s b) || routeDown s b rest

/-- No route from one die to another (R412). -/
def unreachable (s : State) (a b : Nat) : Bool :=
  routeDown s a (routeOf true a b) && routeDown s a (routeOf false a b)

/-- The dies that an I/O die attaches to (R15). -/
def ioSides (io : Nat) : List Nat := if io = 0 then [0, 6] else [5, 11]

/-- An enabled entry of an I/O die's endpoint table (R409). -/
def endpointOk (s : State) (io ep : Nat) : Bool :=
  decide (ep < 1024) && bit ((s.io io).reg (0x40000 + 32 * ep)).toNat 0

/-- The ports that an endpoint allows (R409): a mask of eight. -/
def endpointPorts (s : State) (io ep : Nat) : Nat :=
  let m := fld ((s.io io).reg (0x40000 + 32 * ep)).toNat 8 8
  if m = 0 then 255 else m

/-- A port of an I/O die is down (R412, R420). -/
def portDown (s : State) (io p : Nat) : Bool := (s.io io).out || (SMap.getD s.links (32 + 8 * io + p) {}).down

/-- An operation through an endpoint fails with its link: a down port under DET, or no port left (R260, R413). -/
def linkFailed (s : State) (io ep : Nat) (det : Bool) : Bool :=
  let ps := (List.range 8).filter fun p => bit (endpointPorts s io ep) p
  if det then ps.any (portDown s io) else ps.all (portDown s io)

/-- The status with which an engine's access through a network window ends before it is sent (R260, R409): the window's endpoint is not
enabled, or no port is left. -/
def windowStatus (s : State) (w : Nat) : Nat :=
  let ep := fld ((s.io (winIo w)).reg (winOff w)).toNat 16 16
  if !endpointOk s (winIo w) ep then 9 else if linkFailed s (winIo w) ep false then 8 else 0

/-- The fault of a core's access through a network window whose endpoint is not enabled, or that has no port left: the spec gives an
operation's status alone (R33, R409, R412). DESIGN CHOICE, log entry 78. -/
def windowFault (s : State) (l : Loc) : Option Nat :=
  match l with
  | .net w _ => match windowStatus s w with
    | 0 => none
    | 8 => some 0x2A
    | _ => some 0x08
  | _ => none

/-- The unit that serves a place: a compute die, its home's, its vault's or its registers', or 12 and up for an I/O die. -/
def servedBy (l : Loc) : Nat :=
  match l with
  | .dram a => stackOf a / 2
  | .vault a => vaultNo a / 160
  | .dev a => fld a 36 4
  | .dbg a => fld a 36 4
  | .net w _ => 12 + winIo w

/-- No route between a die and a unit: an I/O die is reached through either die that it attaches to (R15, R412, R420). -/
def noRoute (s : State) (a unit : Nat) : Bool :=
  if unit < 12 then dieOut s unit || unreachable s a unit
  else (ioSides (unit - 12)).all fun d => (d != a && dieOut s d) || unreachable s a d

/-- A place whose unit refuses requests from a die: a fenced bank, a vault or core in a fenced breakwater, a die out of
service, or no route (R377 code 0x2A, R396, R412, R420). -/
def refuses (s : State) (fromDie : Nat) (l : Loc) : Bool :=
  (match l with
   | .dram a => bankFenced s (bankKey a)
   | .vault a => (s.core (vaultNo a / 160 * 256 + vaultNo a % 160)).fenced
   | _ => false) || noRoute s fromDie (servedBy l)

/-- A place whose unit refuses requests from a unit: those of an I/O die enter by either die that it attaches to (R15). -/
def refusesUnit (s : State) (unit : Nat) (l : Loc) : Bool :=
  if unit < 12 then refuses s unit l
  else if servedBy l = unit then false
  else (ioSides (unit - 12)).all fun d => (servedBy l != d && dieOut s d) || refuses s d l

/-- A place that is parked with its die (R62, R417). -/
def parkedAt (s : State) (l : Loc) : Option Nat :=
  let d := servedBy l
  match l with
  | .dbg _ => none
  | _ => if d < 12 ∧ (s.die d).pstate = 2 then some d else none

/-- A bank whose controller holds requests back: it changes SHMODE or retires a row, or its step is in publish, where loads
wait and writes are refused (R56, R68, R69). -/
def bankHolds (s : State) (k : AccKind) (bk : Nat) : Bool :=
  let b := s.bank bk
  b.shBusy || b.rtBusy || ((k == .load || k == .fetch) && bankPublish s bk)

/-- What holds a request to a place back, if anything does: a parked die, which the request wakes, or a bank's controller
(R56, R62, R68, R69, R417). -/
def heldAt (s : State) (k : AccKind) (l : Loc) : Option State :=
  match parkedAt s l with
  | some d => some (s.modDie d fun x => { x with returning := true })
  | none =>
    match l with
    | .dram a => if bankHolds s k (bankKey a) then some s else none
    | _ => none

/-- A sector of a shelf row that has become promotion slots, whose addresses are invalid now (R29, R56). -/
def rowGone (s : State) (sector : Nat) : Bool := regionOf (sector * 64) == 0 && !validBankLocal s (sector * 64)

/-- A request reaches its place: refused with the fenced-target fault, or held (R56, R62, R68, R69, R409). -/
def letIn (s : State) (cid : Nat) (k : AccKind) (l : Loc) (va elem : Nat) : Res Unit :=
  if refuses s (dieOf cid) l then .error (.trap { code := 0x2A, addr := va, elem := elem })
  else match windowFault s l with
    | some c => .error (.trap { code := c, addr := va, elem := elem })
    | none => match heldAt s k l with
      | some s1 => .error (.stall s1)
      | none => .ok ()

/-! ## Pending sectors -/

/-- The home of a sector: its slice, or 10,000 + its vault (R119). -/
def homeOf (sector : Nat) : Nat :=
  let a := sector * 64
  if regionOf a = 1 then 10000 + vaultNo a else homeSlice a

/-- The pending sectors that a home may hold (R119). -/
def homeRoom (home : Nat) : Nat := if 10000 ≤ home then 1024 else 4096

/-- The die of a home. -/
def homeDie (home : Nat) : Nat := if 10000 ≤ home then (home - 10000) / 160 else home / 160

/-- The bytes of a die's spill area in use (R120). -/
def spillUsed (s : State) (die : Nat) : Nat :=
  64 * (s.pend.filter fun p => p.spilled && homeDie (homeOf p.sector) == die).length

/-- The size of a die's spill area in bytes: one that does not lie wholly within one DRAM region counts as 0 (R120). -/
def spillSize (s : State) (die : Nat) : Nat :=
  let d := s.die die
  let a := d.eshBase * 65536
  let n := d.eshSize * 65536
  if n = 0 then 0
  else if (dramLoc s a).isSome && (dramLoc s (a + n - 1)).isSome && regionOf a == regionOf (a + n - 1) then n else 0

/-- A byte list of 64 with bytes put at a place. -/
def sectorBytes (off : Nat) (bs : List Byte) : List Byte :=
  List.replicate off 0#8 ++ bs ++ List.replicate (64 - off - bs.length) 0#8

/-- Bytes added to a pending sector of an owner (R119): none, with FULL set, when no room is left. -/
def pendAdd (s : State) (o : Owner) (sector mask : Nat) (bytes : List Byte) : Option State × State :=
  if s.pend.any fun p => p.owner == o && p.sector == sector then
    (some { s with pend := s.pend.map fun p =>
      if p.owner == o && p.sector == sector then
        { p with mask := p.mask ||| mask, bytes := mergeBytes mask p.bytes bytes } else p }, s)
  else
    let home := homeOf sector
    let held := (s.pend.filter fun p => !p.spilled && homeOf p.sector == home).length
    let bs := mergeBytes mask (List.replicate 64 0#8) bytes
    let add := fun (sp : Bool) =>
      { s with pend := s.pend ++ [{ owner := o, sector := sector, mask := mask, bytes := bs, spilled := sp }] }
    if held < homeRoom home then (some (add false), s)
    else if spillUsed s (homeDie home) + 64 ≤ spillSize s (homeDie home) then (some (add true), s)
    else (none, s.modDie (homeDie home) fun d => { d with eshFull := true })

/-- The pending sectors of an owner discarded (R121). -/
def pendDrop (s : State) (f : Owner → Bool) : State := { s with pend := s.pend.filter fun p => !f p.owner }

/-- The published bytes of a sector as an owner reads them, its pending bytes laid over (R123, R404, R406). -/
def overlay (s : State) (o : Owner) (sector : Nat) (bytes : List Byte) : List Byte :=
  s.pend.foldl (fun bs p => if p.owner == o && p.sector == sector then mergeBytes p.mask bs p.bytes else bs) bytes

/-- A byte of a destination of an engine operation in progress (R128): the claim of an operation other than one. -/
def claimedBy (s : State) (except : Option Nat) (a n : Nat) : Bool :=
  s.ops.any fun (k, o) => some k != except && o.claims.any fun (lo, len) => decide (lo < a + n) && decide (a < lo + len)

/-- The bytes of an access that lie in claims. -/
def claimMask (s : State) (a n : Nat) : Nat :=
  (List.range n).foldl (fun m i => if claimedBy s none (a + i) 1 then m ||| (1 <<< ((a + i) % 64)) else m) 0

end Sys2Proof.Machine
end

