-- ==== Sys2Proof/Machine/Cache.lean ====
section
/-! DEFINITION. The L1 and L2 caches as tags, format tags, the homes that perform reads and writes, and the words that
protect stored bytes (spec chapter 04; R49 to R51, R399, R400). The bytes that S, E, M and W copies and L2 lines hold are
those of their home, which memory holds once; only V copies hold bytes of their own. -/

namespace Sys2Proof.Machine
open Sys2Proof

/-! ## L1 -/

/-- A sector's place in its line. -/
def secIdx (sector : Nat) : Nat := sector % 4

/-- A sector of an L1 line. -/
def L1Line.at (l : L1Line) (sector : Nat) : L1Sector := l.sec[secIdx sector]'(Nat.mod_lt _ (by decide))

/-- A sector of an L1 line replaced. -/
def L1Line.put (l : L1Line) (sector : Nat) (x : L1Sector) : L1Line :=
  { l with sec := l.sec.set (secIdx sector) x (Nat.mod_lt _ (by decide)) }

/-- A sector as a core's L1 holds it: I where the line is absent (R86). -/
def l1Sec (c : Core) (sector : Nat) : L1Sector :=
  match c.l1.find? fun l => l.line == sector / 4 with
  | some l => l.at sector
  | none => {}

/-- Every L1 copy of a sector changed, by the core that holds it. -/
def modSector (s : State) (sector : Nat) (f : Nat → L1Sector → L1Sector) : State :=
  { s with cores := s.cores.map fun kc =>
      (kc.1, { kc.2 with l1 := kc.2.l1.map fun l =>
        if l.line = sector / 4 then l.put sector (f kc.1 (l.at sector)) else l }) }

/-- The S, W, E and M copies of other cores invalidated, or of every core (R91). V copies are not tracked. -/
def dropCopies (s : State) (keep : Option Nat) (sector : Nat) : State :=
  modSector s sector fun k x => if some k = keep then x else match x.st with | .v => x | _ => {}

/-- Another core's E or M copy recalled to S (R91). -/
def recallOwner (s : State) (core sector : Nat) : State :=
  modSector s sector fun k x => if k = core then x else match x.st with
    | .e | .m => { x with st := .s }
    | _ => x

/-- A way that is in use: a sector of its line holds a copy, or tidal stores (R86, R122). -/
def l1Used (c : Core) (l : L1Line) : Bool :=
  (l.sec.toList.any fun x => x.st != .i) || c.tidal.any fun t => t.sector / 4 == l.line

/-- The least recently used line of a full set (R86): 64 sets of 8 ways. -/
def l1Victim (c : Core) (line : Nat) : Option L1Line :=
  let set := c.l1.filter fun l => l.line % 64 == line % 64
  if set.length < 8 then none else set.getLast?

/-- The write-backs that leaving an L1 line owes: the written bytes of its V sectors (R86). -/
def lineDebts (core : Nat) (l : L1Line) : List HomeReq :=
  (List.range 4).filterMap fun i =>
    let x := l.at i
    if x.st = .v ∧ x.mask ≠ 0 then
      some { sector := l.line * 4 + i, core := core, writer := x.writer, mask := x.mask, bytes := x.bytes }
    else none

/-- The domain of tidal bytes that have gone home before their writer's next arrival is not known yet (R122). -/
def noDomain : Nat := 2 ^ 20

/-- One sector of tidal stores sent home as a pending sector: cause 4 when no room is left (R119, R122). -/
def tidalHome (s : State) (core : Nat) (t : TidalSector) : Res State :=
  let s1 := s.modCore core fun c =>
    { c with tidal := c.tidal.filter fun x => !(x.ctx == t.ctx && x.inc == t.inc && x.sector == t.sector) }
  match pendAdd s1 (.tidal t.ctx t.inc noDomain 0) t.sector t.mask t.bytes with
  | (some s2, _) => .ok s2
  | (none, _) =>
    .error (.trapFull { code := 0x20, addr := t.sector * 64, info := t.mask, sub := 4 } (homeDie (homeOf t.sector)))

/-- Tidal sectors of a core sent home as pending sectors (R119, R122). -/
def tidalSend (s : State) (core : Nat) (f : TidalSector → Bool) : Res State :=
  ((s.core core).tidal.filter f).foldlM (fun s t => tidalHome s core t) s

/-- A sector entered in a core's L1 as the most recently used. Where its set is full, the least recently used line is
evicted: its V bytes are posted to their homes, and its tidal stores go home as pending sectors (R86, R122). -/
def l1Enter (s : State) (core sector : Nat) (x : L1Sector) : Res State :=
  let c := s.core core
  let line := sector / 4
  match c.l1.find? fun l => l.line == line with
  | some l => .ok (s.setCore core { c with l1 := l.put sector x :: c.l1.filter fun l => l.line != line })
  | none =>
    let fresh : L1Line := ({ line := line } : L1Line).put sector x
    let used := c.l1.filter (l1Used c)
    match l1Victim { c with l1 := used } line with
    | none => .ok (s.setCore core { c with l1 := fresh :: used })
    | some v =>
      let s1 := s.setCore core { c with l1 := fresh :: used.filter fun l => l.line != v.line }
      tidalSend { s1 with homeq := s1.homeq ++ lineDebts core v } core fun t => t.sector / 4 == v.line

/-! ## Format tags -/

/-- The region-form address that a line of DRAM has in a region's form (R30), for class-0 rows of the interleaved forms.
DEDUCED, log entry 24. -/
def nameIn (region a : Nat) : Option Nat :=
  let st := stackOf a
  let bk := bankNo a
  let row := rowNo a
  if region = 0 then some a
  else if classOf a = 1 then none
  else if region = 4 then
    some ((4 <<< 42) + (st <<< 37) + ((bk / 16) <<< 31) + ((row * 16 + bk % 16) <<< 10) + colNo a)
  else if region = 5 then some ((5 <<< 42) + (st <<< 37) + ((row * 768 + bk) <<< 10) + colNo a)
  else if region = 6 then some ((6 <<< 42) + (((row * 768 + bk) * 24 + st) <<< 10) + colNo a)
  else none

/-- An ill-formed window (R50). -/
def winIll (w : FmtWin) : Bool :=
  let fmt := fld w.base.toNat 4 4
  let scl := fld w.base.toNat 8 2
  let base := fld w.base.toNat 16 32
  let lim := fld w.limit.toNat 16 32
  let rl := fld w.limit.toNat 0 16
  decide (14 ≤ fmt) || scl == 3 || decide (lim < base) || rl == 0 || (scl != 0 && rl % 128 != 0)
    || !isDramRegion (regionOf (base * 65536)) || !isDramRegion (regionOf (lim * 65536))
    || !isDramRegion (regionOf (fld w.scale.toNat 2 46 * 4))

/-- The scale index of the element that holds a byte offset from a window's base (R50). -/
def scaleIndex (w : FmtWin) (o : Nat) : Nat :=
  let fmt := fld w.base.toNat 4 4
  let scl := fld w.base.toNat 8 2
  let rl := fld w.limit.toNat 0 16
  let b := (ElemType.ofCode (BitVec.ofNat 4 fmt)).width
  let e := o * 8 / b
  let row := e / rl
  let col := e % rl
  let t := (rl + 127) / 128
  if scl = 1 then row * t + col / 128 else if scl = 2 then row / 128 * t + col / 128 else 0

/-- The byte offset of a line from a window's base, if the enabled window's range contains the line (R50): by its name in
BASE's own region, or else by one in another region that the range reaches. DEDUCED, log entry 24. -/
def winOffset (w : FmtWin) (line : Nat) : Option Nat :=
  let base := fld w.base.toNat 16 32 * 65536
  let lim := (fld w.limit.toNat 16 32 + 1) * 65536
  if !bit w.base.toNat 0 then none
  else [regionOf base, 0, 4, 5, 6].findSome? fun r => match nameIn r (line * 256) with
    | some a => if base ≤ a ∧ a < lim then some (a - base) else none
    | none => none

/-- The tag of a line that enters L2 from its controller: of the lowest-numbered enabled window that contains it (R50,
R100). -/
def tagOf (s : State) (line : Nat) : Option L2Tag :=
  let st := stackOf (line * 256)
  let d := s.die (st / 2)
  (List.range 64).findSome? fun w =>
    match SMap.find? d.fw (st % 2 * 64 + w) with
    | none => none
    | some win => (winOffset win line).map fun o =>
        { fmt := fld win.base.toNat 4 4, index := if winIll win then 0 else scaleIndex win o, stack := st, win := w,
          scl := fld win.base.toNat 8 2, ill := winIll win }

/-! ## L2 -/

/-- The lines a slice holds, most recently used first. -/
def l2Lines (s : State) (slice : Nat) : List L2Line := SMap.getD s.l2 slice []

/-- A line in its home slice. -/
def l2Find (s : State) (line : Nat) : Option L2Line := (l2Lines s (homeSlice (line * 256))).find? fun l => l.line == line

/-- The race records that a line carries. -/
def lineRecords (s : State) (line : Nat) : Nat := (s.races.filter fun r => r.sector / 4 == line).length

/-- The records in a slice's record store: those of DRAM lines of the slice that L2 does not hold (R95). -/
def storedRecords (s : State) (slice : Nat) : Nat :=
  (s.races.filter fun r => regionOf (r.sector * 64) == 0 && homeSlice (r.sector * 64) == slice
    && (l2Find s (r.sector / 4)).isNone).length

/-- The copies that inclusion invalidates when a line leaves L2 (R89). -/
def dropLineCopies (s : State) (line : Nat) : State :=
  (List.range 4).foldl (fun s i => dropCopies s none (line * 4 + i)) s

/-- A line out of its slice, its copies invalidated (R89). -/
def l2Remove (s : State) (line : Nat) : State :=
  let sl := homeSlice (line * 256)
  dropLineCopies { s with l2 := SMap.put s.l2 sl ((l2Lines s sl).filter fun l => l.line != line) } line

/-- Lines out of their slices in turn: none while a record store cannot take the records of one of them (R89, R95). -/
def l2RemoveAll (s : State) : List Nat → Option State
  | [] => some s
  | l :: ls =>
    if (l2Find s l).isNone || decide (storedRecords s (homeSlice (l * 256)) + lineRecords s l ≤ 16384) then
      l2RemoveAll (l2Remove s l) ls
    else none

/-- The victim of a full set of 16 ways (128 sets): the least recently used whose records the store can take, or else one
without records (R87, R95). -/
def l2Victim (s : State) (slice line : Nat) : Option (Option Nat) :=
  let set := (l2Lines s slice).filter fun l => l.line % 128 == line % 128
  if set.length < 16 then some none
  else
    match set.getLast? with
    | none => some none
    | some v =>
      if storedRecords s slice + lineRecords s v.line ≤ 16384 then some (some v.line)
      else ((set.reverse.find? fun l => lineRecords s l.line == 0).map fun l => some l.line)

/-- A line wanted in L2: made the most recently used, or allocated with a tag; none when the request must wait for a record
to close (R89, R95). DESIGN CHOICE, log entry 27. -/
def l2Touch (s : State) (line : Nat) (tagged dirty : Bool) : Option State :=
  let sl := homeSlice (line * 256)
  match l2Find s line with
  | some l =>
    some { s with l2 := SMap.put s.l2 sl ({ l with dirty := l.dirty || dirty } ::
      (l2Lines s sl).filter fun x => x.line != line) }
  | none =>
    match l2Victim s sl line with
    | none => none
    | some v =>
      let s1 := match v with | some x => l2Remove s x | none => s
      let t := if tagged then tagOf s1 line else none
      some { s1 with l2 := SMap.put s1.l2 sl ({ line := line, dirty := dirty, tag := t } :: l2Lines s1 sl) }

/-- A line that its slice holds made the most recently used by an access that allocates none (R87). -/
def l2Refresh (s : State) (line : Nat) : State :=
  if (l2Find s line).isSome then (l2Touch s line false false).getD s else s

/-! ## Stored words and their codes -/

/-- The CORR counter of a bank in its die's lifetime block (R407): die-bank index i at 0x1000 + 8 i; UNCOR is kept 4 above
it. -/
def corrOff (bk : Nat) : Nat := 0x1000 + 8 * (bk % 1536)

/-- A 32-bit lifetime counter of a bank advanced; it saturates (R407). -/
def countBank (s : State) (bk off : Nat) : State :=
  s.modDie (bk / 1536) fun d => { d with ctrs := SMap.put d.ctrs off (min (SMap.getD d.ctrs off 0 + 1) (2 ^ 32 - 1)) }

/-- What a read of a protected word of n bytes finds (R399, R400): whether it is uncorrectable or poisoned, the bytes that it
holds from now on where they are no longer those stored, and the state after correction, poisoning and counting. Errors
beyond the code's guarantee take one of three outcomes by a free choice (log entry 3): detection, or a wrong correction or
no detection, after which the word holds free bytes. -/
def codeOutcome (s : State) (key n : Nat) (count : State → Bool → State) : Bool × Option (List Byte) × State :=
  if s.poison.contains key then (true, none, count s false)
  else
    match SMap.find? s.upsets key with
    | none => (false, none, s)
    | some k =>
      let clear := { s with upsets := SMap.del s.upsets key }
      if k = 1 then (false, none, count clear true)
      else if k = 2 then (true, none, count { clear with poison := key :: clear.poison } false)
      else
        let (c, s1) := drawChoice clear 3
        if c = 0 then (true, none, count { s1 with poison := key :: s1.poison } false)
        else
          let (w, s2) := drawBits s1 (8 * n)
          (false, some (natToBytes n w.toNat), s2)

/-- The read of a protected word whose bytes memory holds at an address. -/
def readCode (s : State) (key n base : Nat) (count : State → Bool → State) : Bool × State :=
  match codeOutcome s key n count with
  | (bad, none, s1) => (bad, s1)
  | (bad, some bs, s1) => (bad, { s1 with mem := s1.mem.writeN base bs })

/-- The read of one DRAM sector through its code (R399), at the physical place that serves it.
DESIGN CHOICE, log entry 25. -/
def readSector (s : State) (sector : Nat) : Bool × State :=
  let a := sector * 64
  let bk := bankKey a
  readCode s (physAddr s a / 64) 64 a fun s ok => countBank s bk (if ok then corrOff bk else corrOff bk + 4)

/-- The key of a 64-bit vault word among the words with errors. -/
def vaultWordKey (a : Nat) : Nat := 2 ^ 48 + a / 8

/-- The read of the vault words that an access touches (R400), with the place in it of the first byte that fails, if one does
(R382). -/
def readVault (s : State) (a n : Nat) : Option Nat × State :=
  let ws := (List.range ((a + n + 7) / 8 - a / 8)).map fun i => a / 8 + i
  ws.foldl (fun (bad, s) w =>
    let (b, s1) := readCode s (2 ^ 48 + w) 8 (w * 8) fun s ok => if ok then countDie s (vaultNo a / 160) 0x10 1 else s
    (bad <|> if b then some (w * 8 - a) else none, s1)) (none, s)

/-- The read of the protected words of DRAM or of a vault that n bytes of one sector touch (R399, R400), with the place of the
first byte that fails. -/
def readProtected (s : State) (a n : Nat) : Option Nat × State :=
  if regionOf a = 1 then readVault s a n
  else match readSector s (a / 64) with
    | (bad, s1) => (if bad then some 0 else none, s1)

/-! ## A context's own view -/

/-- The copy of a redundant run that a context's graph belongs to (R406). -/
def runOf (s : State) (cid : Nat) : Option (Nat × Nat) :=
  match (s.ctx cid).node with
  | none => none
  | some _ =>
    match SMap.find? s.graphs (s.ctx cid).graph with
    | some g => g.run
    | none => none

/-- The owner of the interval of a context's pair, if the context is paired (R404): none for an instruction that is performed
once, after the interval's close (R403). -/
def intervalOf (s : State) (cid : Nat) : Option Owner :=
  match (s.core (coreOf cid)).pair with
  | some p => if p.ctx = cid % 4 ∧ p.inc = (s.ctx cid).incarnation ∧ p.direct = false then some (.interval p.owner) else none
  | none => none

/-- The owner into whose pending sectors a context's plain stores go, if any (R404, R406). -/
def privateOwner (s : State) (cid : Nat) : Option Owner :=
  match runOf s cid with
  | some (d, c) => some (.run d c)
  | none => intervalOf s cid

/-- The bytes of a sector as a context reads them over the published ones: its own tidal stores, or the pending sectors of
its pair's interval or of its run (R123, R404, R406). -/
def ownView (s : State) (cid sector : Nat) (bytes : List Byte) : List Byte :=
  let inc := (s.ctx cid).incarnation
  let b1 := s.pend.foldl (fun bs p => match p.owner with
    | .tidal c i _ _ => if c = cid ∧ i = inc ∧ p.sector = sector then mergeBytes p.mask bs p.bytes else bs
    | _ => bs) bytes
  let b2 := (s.core (coreOf cid)).tidal.foldl (fun bs t =>
    if t.ctx = cid ∧ t.inc = inc ∧ t.sector = sector then mergeBytes t.mask bs t.bytes else bs) b1
  match privateOwner s cid with
  | some o => overlay s o sector b2
  | none => b2

/-! ## Waiting contexts -/

/-- The condition of a word wait (R258). -/
def condMet (c w v : Nat) : Bool :=
  match c with
  | 0 => w == v
  | 1 => w != v
  | 2 => decide (v ≤ w)
  | _ => w &&& v != 0

/-- A word whose read finds an error or a poison mark (R399, R400). -/
def markedWord (s : State) (a : Nat) : Bool :=
  let k := if regionOf a = 1 then vaultWordKey a else physAddr s (a / 64 * 64) / 64
  s.poison.contains k || (SMap.find? s.upsets k).isSome

/-- A barrier wait that began at a time of its context's clock has outlasted the object's bound (R21, R256). -/
def boundPassed (s : State) (cid since w : Nat) : Bool :=
  let bound := fld w 32 32
  bound != 0 && decide (since + 256 * bound ≤ ungatedFor s cid)

/-- The decision of a wait on phase p of an object that holds w (R256): its status, or none while it waits. -/
def barrierStatus (s : State) (cid since w p : Nat) : Option Nat :=
  if fld w 20 4 ≠ p then some 0
  else if bit w 24 then some 2
  else if boundPassed s cid since w then some 1
  else none

/-- What a write to a sector tells a context that waits on a word or a barrier object in it (R256, R258): the event, and
the result it records when it ends the wait. The home's read decides a word wait, but where it would fault, or where its core
holds a V copy, which the context then reads again itself; one whose bound has expired ends with 1. -/
def wordEvent (s : State) (sector cid : Nat) (c : Ctx) : Option (Option Mid) :=
  match c.watch with
  | none => none
  | some a =>
    if a / 64 ≠ sector then none
    else
      match c.wake with
      | .word _ cond v =>
        let w := bytesToNat (sliceBytes (ownView s cid sector (s.mem.readN (sector * 64) 64)) (a % 64) 8)
        if c.deadline != 0 && decide (c.deadline ≤ cycleOf s (dieOf cid)) then some (some (.result 1))
        else if (raceConflict s (.ctx cid) sector (byteMask a 8)).isSome || markedWord s a
            || (condMet cond w v && (l1Sec (s.core (coreOf cid)) sector).st == .v) then
          some (some (.waiting 1))
        else some (if condMet cond w v then some (.result 0) else none)
      | .barrier _ p => some ((barrierStatus s cid c.deadline (readWord64 s a) p).map Mid.result)
      | _ => none

/-- A write to a sector delivered to the contexts that wait on it (R256, R258, R393). -/
def notifySector (s : State) (sector : Nat) : State := wakeAll s 7 sector (wordEvent s sector)

/-! ## Writes at the home -/

/-- A promotion slot that serves a written row becomes dirty (R57). -/
def dirtySlot (s : State) (a : Nat) : State :=
  if classOf a = 1 then s
  else
    match slotOfRow (s.bank (bankKey a)) (rowNo a) with
    | none => s
    | some (k, x) => s.modBank (bankKey a) fun b => { b with slots := SMap.put b.slots k { x with dirty := true } }

/-- A write of the whole sector of DRAM clears its poison mark and its errors, one of a whole word of a vault that word's
(R399, R400). -/
def clearMarks (s : State) (sector mask : Nat) : State :=
  let a := sector * 64
  if regionOf a = 1 then
    let ws := ((List.range 8).filter fun i => (mask >>> (8 * i)) % 256 == 255).map fun i => vaultWordKey (a + 8 * i)
    { s with poison := s.poison.filter fun k => !ws.contains k, upsets := s.upsets.filter fun p => !ws.contains p.1 }
  else if mask % 2 ^ 64 = ones 64 then
    let k := physAddr s a / 64
    { s with poison := s.poison.filter (· != k), upsets := SMap.del s.upsets k }
  else s

/-- Bytes written at the home of a sector, at a place within it and under a mask: the one way in which published memory
changes. -/
def storeHome (s : State) (sector mask : Nat) (bytes : List Byte) : State :=
  let a := sector * 64
  let s1 := { s with mem := s.mem.writeMask a mask bytes }
  let s2 := if regionOf a = 1 then s1 else dirtySlot s1 a
  notifySector (clearMarks s2 sector mask) sector

/-- The place of a sector of memory. -/
def sectorLoc (sector : Nat) : Loc := if regionOf (sector * 64) = 1 then .vault (sector * 64) else .dram (sector * 64)

/-- What holds a device's write to a sector back, if anything does: its target, a live rank region or an engine's destination, with
the parked die that it wakes (R56, R62, R68, R69, R128). -/
def writeHeld (s : State) (sector : Nat) : Option State :=
  let a := sector * 64
  match heldAt s .store (sectorLoc sector) with
  | some s1 => some s1
  | none => if (regionOf a == 0 && bankLive s (bankKey a)) || claimedBy s none a 64 then some s else none

/-- A posted request performed at the home (R89, R91): for a write-back the line allocated, the bytes merged by their mask, other
copies invalidated; a device's write leaves no copy and allocates none. None while it must wait (R56, R68, R95). A row that has
become promotion slots takes no bytes (R56). -/
def performWriteBack (s : State) (r : HomeReq) : Option State :=
  if rowGone s r.sector then some s
  else if r.dev then
    if (writeHeld s r.sector).isSome then none
    else
      let s1 := raceCover (dropCopies s none r.sector) r.sector r.mask
      some (storeHome (l2Refresh s1 (r.sector / 4)) r.sector r.mask r.bytes)
  else
    (l2Touch (dropCopies s (some r.core) r.sector) (r.sector / 4) true true).map fun s1 => storeHome s1 r.sector r.mask r.bytes

/-- Posted requests served in turn, until one must wait (R91, R95). -/
def serveEach (s : State) : List HomeReq → State
  | [] => s
  | r :: rs => match performWriteBack { s with homeq := s.homeq.erase r } r with
    | some s1 => serveEach s1 rs
    | none => s

/-- The posted requests to a sector served, in arrival order (R91). -/
def serveHome (s : State) (sector : Nat) : State := serveEach s (s.homeq.filter fun r => r.sector == sector)

/-- A posted request that waits at the home of a sector, and every later one with it (R91, R95). -/
def homeWaits (s : State) (sector : Nat) : Bool := s.homeq.any fun r => r.sector == sector

/-- A device's write of some bytes of a sector: performed, or posted until its target takes it (R56, R62, R68, R91). -/
def deviceWrite (s : State) (sector mask : Nat) (bytes : List Byte) : State :=
  let s1 := (writeHeld s sector).getD s
  let r : HomeReq := { sector := sector, core := 2 ^ 32, writer := 0, mask := mask, bytes := bytes, dev := true }
  serveHome { s1 with homeq := s1.homeq ++ [r] } sector

/-- Bytes of one sector as they will stand once what is posted to it has been performed. -/
def postedBytes (s : State) (a n : Nat) : List Byte :=
  let bs := s.homeq.foldl (fun bs r => if r.sector = a / 64 then mergeBytes r.mask bs r.bytes else bs)
    (s.mem.readN (a / 64 * 64) 64)
  sliceBytes bs (a % 64) n

/-- The written bytes of a core's V copy of a sector sent home; the copy stays, clean (R86, R98). -/
def flushV (s : State) (core sector : Nat) : State :=
  let x := l1Sec (s.core core) sector
  if x.st = .v ∧ x.mask ≠ 0 then
    let s1 := modSector s sector fun k y => if k = core then { y with mask := 0 } else y
    let r : HomeReq := { sector := sector, core := core, writer := x.writer, mask := x.mask, bytes := x.bytes }
    serveHome { s1 with homeq := s1.homeq ++ [r] } sector
  else s

/-- The written bytes of every core's V copy of a sector sent home, and the copies dropped (R121). -/
def flushAllV (s : State) (sector : Nat) : State :=
  let s1 := s.cores.foldl (fun s kc => flushV s kc.1 sector) s
  modSector s1 sector fun _ x => match x.st with | .v => {} | _ => x

/-- The sectors of a core's L1 in a state. -/
def sectorsIn (c : Core) (p : L1Sector → Bool) : List Nat :=
  (c.l1.map fun l => (List.range 4).filterMap fun i => if p (l.at i) then some (l.line * 4 + i) else none).flatten

/-- Every V sector of a core's L1 sent home and dropped (R99). -/
def dropV (s : State) (core : Nat) : State :=
  (sectorsIn (s.core core) fun x => x.st == .v).foldl (fun s sec =>
    modSector (flushV s core sec) sec fun k x => if k = core then {} else x) s

/-- Published bytes of DRAM or of a vault. -/
def publishedBytes (s : State) (a n : Nat) : List Byte := s.mem.readN a n

end Sys2Proof.Machine
end

