-- ==== Sys2Proof/Machine/Walk.lean ====
section
/-! DEFINITION. Page-table walks: a walker's reads, the walk cache, and the translations that units make at once (R35 to R37,
R43, R89, R259). -/

namespace Sys2Proof.Machine
open Sys2Proof

/-- The result of a unit's reading: a fault with the state in which it was found (R399), or what was read. The code 0 is no
fault: the reading must wait and is made again, as at a parked die, a busy bank or a full record store (R56, R62, R68, R69,
R95, R417). -/
abbrev URes (α : Type) := Except (Trap × State) α

/-- A reading that must wait. -/
def unitWaits {α : Type} (s : State) : URes α := .error ({ code := 0 }, s)

/-- What a walk found: a leaf with its level and fields, a fault with the level and the entry read, or nothing yet. -/
inductive Walked where
  | leaf (log2 oa attrs : Nat)
  | fault (code level ent : Nat)
  | wait
  deriving DecidableEq, Repr

/-- A walker's read of an entry at its home (R43, R100, R377, R399): the line that it brings in is untagged. -/
def readEntry (s : State) (die a : Nat) : URes (Nat × State) :=
  if refuses s die (.dram a) then .error ({ code := 0x2A }, s)
  else match heldAt s .load (.dram a) with
    | some s1 => unitWaits s1
    | none =>
      let s1 := recallOwner (serveHome s (a / 64)) (2 ^ 32) (a / 64)
      if homeWaits s1 (a / 64) then unitWaits s
      else match l2Touch s1 (a / 256) false false with
        | none => unitWaits s
        | some s2 =>
          let (bad, s3) := readSector s2 (a / 64)
          if bad then .error ({ code := 0x29 }, s3) else .ok (readWord64 s3 a, s3)

/-- The walk from a table at a level (R35 to R37), with the non-leaf entries passed: the rest of the levels is the fuel. A
look reads the tables as they stand, without a walker. -/
def walkFrom (look : Bool) (die asid root va : Nat) :
    Nat → Nat → Nat → List WalkEntry → State → Walked × List WalkEntry × State
  | 0, level, _, seen, s => (.fault 3 level 0, seen, s)
  | fuel + 1, level, table, seen, s =>
    let n := if level = 3 then 5 else 9
    let pa := table + 8 * fld va (levelShift level) n
    match dramLoc s pa with
    | none => (.fault 3 level 0, seen, s)
    | some a =>
      match if look then .ok (readWord64 s a, s) else readEntry s die a with
      | .error (t, s1) => (if t.code = 0 then .wait else .fault t.code 0 0, seen, s1)
      | .ok (ent, s1) =>
        if !bit ent 0 then (.fault 2 level ent, seen, s1)
        else if bit ent 1 then
          if leafOk s1 level ent then (.leaf (levelShift level) (leafOut die ent) (ent % 256), seen, s1)
          else (.fault 3 level ent, seen, s1)
        else if tableEntOk s1 level ent then
          let t := fld ent 12 36 * 4096
          walkFrom look die asid root va fuel (level + 1) t
            ({ asid := asid, root := root, level := level + 1, idx := va >>> levelShift level, table := t } :: seen) s1
        else (.fault 3 level ent, seen, s1)

/-- The deepest walk-cache entry for an address, if any (R34, R43). -/
def walkHit (d : Die) (asid root va : Nat) : Option WalkEntry :=
  let hits := d.walkCache.filter fun w =>
    w.asid == asid && w.root == root && w.idx == va >>> levelShift (w.level - 1)
  hits.foldl (fun best w => match best with
    | none => some w
    | some b => if b.level < w.level then some w else some b) none

/-- A walk for an address space with its level-0 table, using the die's walk cache (R35, R43). Beyond 256 entries the walk
cache gives up the one entered first: the spec names no replacement. DESIGN CHOICE, log entry 28. -/
def walk (s : State) (die asid root va : Nat) : Walked × State :=
  if !tableOk s root then (.fault 3 0 0, s)
  else
    let (w, seen, s1) := match walkHit (s.die die) asid root va with
      | some h => walkFrom false die asid root va (4 - h.level) h.level h.table [] s
      | none => walkFrom false die asid root va 4 0 root [] s
    (w, s1.modDie die fun d => { d with walkCache := (seen ++ d.walkCache.filter fun x => !seen.contains x).take 256 })

/-- What a walk would find in the tables as they stand. -/
def lookWalk (s : State) (die root va : Nat) : Walked :=
  if !tableOk s root then .fault 3 0 0 else (walkFrom true die 0 root va 4 0 root [] s).1

/-- What a walk gives one page. -/
def xlatOf (page : Nat) : Walked → Xlat
  | .leaf log2 oa attrs => xlatOfLeaf page log2 oa attrs
  | .fault code level ent => { page := page, ok := false, code := code, level := level, ent := ent }
  | .wait => { page := page, ok := false }

/-- What a step of R38 gives a unit. -/
def onUnit {α : Type} (s : State) (r : Res α) : URes α :=
  match r with
  | .ok a => .ok a
  | .error (.trap t) => .error (t, s)
  | .error _ => unitWaits s

/-- A translation made at once by a walker for an address space, with the checks of R38 (R259). -/
def translateIn (s : State) (sp : Space) (k : AccKind) (req : ReqType) (va size elem : Nat) : URes (Phys × State) :=
  if 2 ^ 48 ≤ va then .error ({ code := 1, addr := va, elem := elem }, s)
  else if fld va 40 8 = 0xFF then
    match vaultWindowIn sp va with
    | none => .error ({ code := 1, addr := va, elem := elem }, s)
    | some a => .ok ({ pa := a, loc := .vault a }, s)
  else if sp.raw then (onUnit s (checkPhys s k (some req) va va size elem false false)).map fun p => (p, s)
  else
    let (w, s1) := walk s sp.die sp.asid sp.root va
    let x := xlatOf (pageNo va) w
    if !x.ok then
      .error ({ code := x.code, addr := va, elem := elem, info := if x.code = 3 then x.ent else 0, sub := x.level }, s1)
    else do
      onUnit s1 (checkPage k sp.sys x.attrs va elem)
      let p ← onUnit s1 (checkPhys s1 k (some req) va (x.oa + va % 65536) size elem (bit x.attrs 7) (bit x.attrs 6))
      .ok (p, s1)

end Sys2Proof.Machine
end

