-- ==== Sys2Proof/Machine/Tile.lean ====
section
/-! DEFINITION. The tile table: its entries as bits, its events, and which tile an access touches (R76 to R85). -/

namespace Sys2Proof.Machine
open Sys2Proof

/-- The events of a tile other than its declaration (R79). -/
inductive TileEv where
  | load
  | store
  | arm (n : Nat)
  | destStart (n : Nat)
  | arrival (b : Nat)
  | fillAbort
  | markReady
  | markEmpty
  | drainStart
  | drainEnd (ok : Bool)
  | free
  deriving DecidableEq, Repr

/-- What an event does to a tile (R80): the next entry, the tile-access fault, a wait, the illegal-operand fault, or a
refused arrival. -/
inductive TileAns where
  | ok (t : Tile)
  | fault
  | waits
  | illegal
  | refused (t : Tile)
  deriving DecidableEq, Repr

/-- An arm or a destination start on an empty tile (R80). -/
def tileFill (t : Tile) (n : Nat) (arm : Bool) : TileAns :=
  if t.size < n then .illegal
  else if !t.f then .fault
  else if arm && n == 0 then .ok { t with st := .ready, expect := 0, arrived := 0 }
  else .ok { t with st := .filling, expect := n, arrived := 0 }

/-- The tile table's state changes (R80). -/
def tileStep (t : Tile) (e : TileEv) : TileAns :=
  match t.st, e with
  | .free, .fillAbort => .ok t
  | .free, .arrival _ => .refused { t with ovr := true }
  | .free, _ => .fault
  | .empty, .load => .fault
  | .empty, .store => if t.w then .ok t else .fault
  | .empty, .arm n => tileFill t n true
  | .empty, .destStart n => tileFill t n false
  | .empty, .arrival _ => .refused { t with ovr := true }
  | .empty, .fillAbort => .ok t
  | .empty, .markReady => .ok { t with st := .ready }
  | .empty, .markEmpty => .ok t
  | .empty, .drainStart => .fault
  | .empty, .drainEnd _ => .ok t
  | .empty, .free => .ok { t with st := .free }
  | .filling, .load => .waits
  | .filling, .store => .fault
  | .filling, .arm _ => .fault
  | .filling, .destStart _ => .ok t
  | .filling, .arrival b =>
    if t.arrived + b ≤ t.expect then
      .ok { t with arrived := t.arrived + b, st := if t.arrived + b = t.expect then .ready else .filling }
    else .refused { t with ovr := true }
  | .filling, .fillAbort => .ok { t with st := .empty, expect := 0, arrived := 0, ferr := true }
  | .filling, .markReady => .fault
  | .filling, .markEmpty => .fault
  | .filling, .drainStart => .waits
  | .filling, .drainEnd _ => .ok t
  | .filling, .free => .fault
  | .ready, .load => .ok t
  | .ready, .store => if t.w then .ok t else .fault
  | .ready, .arm _ => .waits
  | .ready, .destStart _ => .waits
  | .ready, .arrival _ => .refused { t with ovr := true }
  | .ready, .fillAbort => .ok t
  | .ready, .markReady => .ok t
  | .ready, .markEmpty => .ok { t with st := .empty, expect := 0, arrived := 0 }
  | .ready, .drainStart => .ok { t with st := .draining }
  | .ready, .drainEnd _ => .ok t
  | .ready, .free => .ok { t with st := .free }
  | .draining, .load => .ok t
  | .draining, .store => .fault
  | .draining, .arm _ => .waits
  | .draining, .destStart _ => .waits
  | .draining, .arrival _ => .refused { t with ovr := true }
  | .draining, .fillAbort => .ok t
  | .draining, .markReady => .ok t
  | .draining, .markEmpty => .fault
  | .draining, .drainStart => .waits
  | .draining, .drainEnd ok =>
    if ok then .ok { t with st := .empty, expect := 0, arrived := 0 } else .ok { t with st := .ready, derr := true }
  | .draining, .free => .waits

/-- The code of a tile state (R77). -/
def TileSt.code : TileSt → Nat
  | .free => 0 | .empty => 1 | .filling => 2 | .ready => 3 | .draining => 4

/-- A tile-table entry as its 128 bits (R77). -/
def Tile.bits (t : Tile) : Nat :=
  t.st.code + (b2n t.w <<< 3) + (b2n t.f <<< 4) + ((t.base % 2 ^ 24) <<< 8) + ((t.size % 2 ^ 24) <<< 32)
    + ((t.expect % 2 ^ 24) <<< 64) + ((t.arrived % 2 ^ 24) <<< 88) + (b2n t.ovr <<< 112) + (b2n t.derr <<< 113)
    + (b2n t.ferr <<< 114)

/-- Where an access falls in its vault (R76). -/
inductive TilePlace where
  | plain
  | inTile (e : Nat)
  | mixed
  deriving DecidableEq, Repr

/-- The declared tiles of a vault that a range of bytes touches. -/
def tilesTouched (s : State) (v off n : Nat) : List Nat :=
  (List.range 128).filter fun e =>
    let t := s.tile (v * 128 + e)
    t.st != .free && decide (off < t.base + t.size) && decide (t.base < off + n)

/-- Where an access of n bytes at a vault address falls (R76). -/
def tilePlace (s : State) (a n : Nat) : TilePlace :=
  let v := vaultNo a
  let off := vaultOff a
  match tilesTouched s v off n with
  | [] => .plain
  | [e] =>
    let t := s.tile (v * 128 + e)
    if t.base ≤ off ∧ off + n ≤ t.base + t.size then .inTile e else .mixed
  | _ => .mixed

/-! ## Nodes that wait on tiles -/

/-- The tile slots of a node that name a tile: vault on the node's die, entry, mode (R355). -/
def nodeTiles (bits : BitVec 512) : List (Nat × Nat × Nat) :=
  (List.range 4).filterMap fun t =>
    let x := fld bits.toNat (256 + 32 * t) 32
    if fld x 16 2 = 0 then none else some (fld x 0 8, fld x 8 7, fld x 16 2)

/-- Every tile of a node is in the state that its mode asks for (R360). -/
def tilesHold (s : State) (die : Nat) (bits : BitVec 512) : Bool :=
  (nodeTiles bits).all fun (v, e, m) =>
    let st := (s.tile ((die * 160 + v) * 128 + e)).st
    if m = 2 then st == .empty else st == .ready

/-- A node that is not running, waiting or ready by its count and its tiles (R354, R360, R362). -/
def refreshNode (s : State) (die : Nat) (n : Node) : Node :=
  match n.st with
  | .running => n
  | st =>
    if n.count = 0 ∧ tilesHold s die n.bits then
      (if st = .ready then n else { n with st := .ready, readyAt := cycleOf s die, aged := 0 })
    else { n with st := .waiting, readyAt := 0, aged := 0 }

/-- Every node of a die's pool brought up to date (R354). -/
def refreshPool (s : State) (die : Nat) : State :=
  if (s.die die).pool.isEmpty then s
  else s.modDie die fun d => { d with pool := d.pool.map fun p => (p.1, refreshNode s die p.2) }

/-- The operations whose source or destination tile has become free (R81, R85). -/
def tileFreed (s : State) (v e : Nat) : State :=
  { s with ops := s.ops.map fun p =>
      if p.2.tileSrc = some (v, e) ∨ p.2.tileDst = some (v, e) then (p.1, { p.2 with freed := true }) else p }

/-- A tile replaced: nodes that wait on it are brought up to date, and the contexts that wait on it, which they do while it
is filling, are evaluated again once it is not (R80, R84, R85, R360). -/
def changeTile (s : State) (v e : Nat) (t : Tile) : State :=
  let old := s.tile (v * 128 + e)
  let s0 := s.setTile (v * 128 + e) t
  let s1 := refreshPool (if t.st = .free ∧ old.st ≠ .free then tileFreed s0 v e else s0) (v / 160)
  if old.st = .filling ∧ t.st ≠ .filling then
    wakeAll s1 5 (v * 128 + e) fun _ c => if c.wake = .tile v e then some (some .none) else none
  else s1

/-- The tile-access fault (R382): the vault address, the entry, and what failed. -/
def tileTrap (a elem e sub : Nat) : Stop := .trap { code := 0x21, addr := a, elem := elem, info := e, sub := sub }

/-- A core's event on a tile: the instruction faults, waits as a stall or at the blocking point, or goes on (R80, R84,
R248). The fault reports a vault address. -/
def tileEvent (s : State) (v e : Nat) (ev : TileEv) (blocking : Bool) (a elem : Nat) : Res State :=
  match tileStep (s.tile (v * 128 + e)) ev with
  | .ok t => .ok (changeTile s v e t)
  | .fault => .error (tileTrap a elem e 0)
  | .waits => if blocking then .error (.block (.tile v e) 0 s) else .error (.stall s)
  | .illegal => .error illegal
  | .refused t => .error (.trapIn { code := 0x21, addr := a, elem := elem, info := e } (s.setTile (v * 128 + e) t))

/-- Where a place falls in its vault; a place outside the vaults falls in no tile (R76). -/
def locPlace (s : State) (l : Loc) (n : Nat) : Nat × TilePlace :=
  match l with
  | .vault a => match tilePlace s a n with
    | .plain => (0, .plain)
    | x => (vaultNo a, x)
  | _ => (0, .plain)

/-- The tile rule for an access by its places and their lengths (R76, R80): all of it outside tiles, all of it in one tile,
or the fault, which reports the first place that a tile holds a byte of. DEDUCED, log entry 32. -/
def tileRule (s : State) (ls : List (Loc × Nat)) (ev : TileEv) (elem : Nat) : Res State :=
  let xs : List (Loc × Nat × Nat × TilePlace) := ls.map fun l => (l.1, l.2, locPlace s l.1 l.2)
  match xs.find? fun x => x.2.2.2 != .plain with
  | none => .ok s
  | some (.vault a, n, (v, x)) =>
    match x with
    | .inTile e =>
      if xs.all fun y => y.2.2 == (v, .inTile e) then tileEvent s v e ev true a elem else .error (tileTrap a elem e 1)
    | _ => .error (tileTrap a elem ((tilesTouched s v (vaultOff a) n).headD 0) 1)
  | some _ => .ok s

/-- A vault place of which a byte lies in a filling tile: nobody reads it (R83). -/
def inFilling (s : State) (l : Loc) (n : Nat) : Bool :=
  match l with
  | .vault a => (tilesTouched s (vaultNo a) (vaultOff a) n).any fun e => (s.tile (vaultNo a * 128 + e)).st == .filling
  | _ => false

end Sys2Proof.Machine
end

