-- ==== Sys2Proof/Machine/Mem.lean ====
section
/-! DEFINITION. Accesses of contexts: their parts, checks in order, loads and stores by request type, releases and acquires
(R90 to R99, R101 to R124, R240, R241). -/

namespace Sys2Proof.Machine
open Sys2Proof

/-- What reads and writes device registers and debug windows for an access: given where they are defined. -/
structure IoOps where
  rd : State → Nat → Nat → List Byte × State
  wr : State → Nat → List Byte → State

/-- A part of an access: bytes of one sector, or of one register block or window. -/
structure Part where
  va : Nat
  len : Nat
  elem : Nat
  loc : Loc
  tide : Bool
  deriving DecidableEq, Repr

/-- The pieces of an access that lie in one 64-byte sector each, lower addresses first: address and length. -/
def chunksAux : Nat → Nat → Nat → List (Nat × Nat)
  | 0, _, _ => []
  | f + 1, va, n => if n = 0 then [] else let k := min n (64 - va % 64); (va, k) :: chunksAux f (va + k) (n - k)

/-- The pieces of an access of n bytes. -/
def chunks (va n : Nat) : List (Nat × Nat) := chunksAux n va n

/-- The pieces of a range that lie in one 64 KiB page each. -/
def pagePiecesAux : Nat → Nat → Nat → List (Nat × Nat)
  | 0, _, _ => []
  | f + 1, va, n =>
    if n = 0 then [] else let k := min n (65536 - va % 65536); (va, k) :: pagePiecesAux f (va + k) (n - k)

/-- The pieces of a range by page, lower pages first. -/
def pagePieces (va n : Nat) : List (Nat × Nat) := pagePiecesAux (n / 65536 + 2) va n

/-- An access of a vector or scalar instruction: element number, address, bytes. -/
structure Elem where
  idx : Nat
  va : Nat
  n : Nat
  deriving DecidableEq, Repr

/-- A place of a part in memory, for parts that have one. -/
def Loc.mem? : Loc → Option Nat
  | .dram a => some a
  | .vault a => some a
  | _ => none

/-- The parts of one element translated and checked by R38, lower address first (R241). DEDUCED, log entry 68. -/
def translateElem (s : State) (cid : Nat) (k : AccKind) (req : ReqType) (e : Elem) : Res (List Part × State) :=
  (chunks e.va e.n).foldlM (fun (ps, s) c => do
    let (p, s1) ← translate s cid k req c.1 c.2 e.idx
    .ok (ps ++ [{ va := c.1, len := c.2, elem := e.idx, loc := p.loc, tide := p.tide }], s1)) ([], s)

/-- Every part's unit takes the request. -/
def letInAll (s : State) (cid : Nat) (k : AccKind) (ps : List Part) : Res Unit :=
  ps.forM fun p => letIn s cid k p.loc p.va p.elem

/-- The tile rule for an element, taken on the whole of it (R76, R80). -/
def tileCheck (s : State) (ps : List Part) (ev : TileEv) : Res State :=
  tileRule s (ps.map fun p => (p.loc, p.len)) ev ((ps.head?.map fun p => p.elem).getD 0)

/-- The bank of a part that is in a live step (R69). -/
def partLive (s : State) (p : Part) : Bool := match p.loc with | .dram a => bankLive s (bankKey a) | _ => false

/-- Causes 1 and 2 of the memory-model exception for a store or atomic, in their order of precedence (R69, R114, R128). -/
def storeCauses (s : State) (ps : List Part) : Res Unit :=
  match ps.find? (partLive s) with
  | some p =>
    let a := p.loc.mem?.getD 0
    .error (raceTrap p.elem (a / 64) (byteMask a p.len) 0 1)
  | none =>
    match ps.findSome? fun p => p.loc.mem?.bind fun a =>
        let m := claimMask s a p.len; if m = 0 then none else some (p, a, m) with
    | some (p, a, m) => .error (raceTrap p.elem (a / 64) m 0 2)
    | none => .ok ()

/-- Whether an access finds the state that it needs in its core's L1, and so is not sent to the home (R91, R93). -/
def l1Hit (c : Core) (k : AccKind) (req : ReqType) (sector : Nat) : Bool :=
  let st := (l1Sec c sector).st
  match k, req with
  | .load, .sinv => st != .i
  | .load, .own | .load, .wt => st != .i && st != .v
  | .store, .own => st == .e || st == .m
  | .store, .sinv => st == .e || st == .m || st == .v
  | _, _ => false

/-- The bytes of a sector that a context has written since its last release (R111). -/
def openMask (s : State) (cid sector : Nat) : Nat :=
  s.races.foldl (fun m r => if r.ctx = cid ∧ r.sector = sector then m ||| r.opn else m) 0

/-- The record that an access of a context to a DRAM sector conflicts with, where it is served (R111, R112, R115): at its
home; or, when it hits in L1, among the records that the L1 keeps with an E, M or V sector, those of the core's contexts, and
for a store into a V copy at the home too, for the bytes whose first write since the last release sends a notice there. An L1
keeps no record with an S or W copy, and a load that hits in one is checked at the home, as step 3 of the example of R115
shows. DESIGN CHOICE, log entry 23. -/
def servedConflict (s : State) (cid : Nat) (k : AccKind) (req : ReqType) (sector mask : Nat) : Option (Race × Nat) :=
  let c := s.core (coreOf cid)
  let st := (l1Sec c sector).st
  if !l1Hit c k req sector || st == .s || st == .w then raceConflict s (.ctx cid) sector mask
  else
    match raceIn (s.races.filter fun r => coreOf r.ctx == coreOf cid) (.ctx cid) sector mask with
    | some x => some x
    | none =>
      if k == .store && st == .v then raceConflict s (.ctx cid) sector (mask &&& (ones 64 ^^^ openMask s cid sector))
      else none

/-- Race detection for an element (R112), which tidal pages and UNC accesses do not take part in. -/
def raceCheck (s : State) (cid : Nat) (k : AccKind) (req : ReqType) (ps : List Part) : Res Unit :=
  ps.forM fun p =>
    if p.tide then .ok ()
    else
      let found := match p.loc with
        | .dram a => (servedConflict s cid k req (a / 64) (byteMask a p.len)).map fun x => (a, x)
        | .vault a => (raceConflict s (.ctx cid) (a / 64) (byteMask a p.len)).map fun x => (a, x)
        | _ => none
      match found with
      | none => .ok ()
      | some (a, r, o) => .error (raceTrap p.elem (a / 64) o r.ctx 0)

/-- An access that waits because an earlier one of its context to the same DRAM sector, of another request type, is not yet
acknowledged (R94, R136). -/
def typeWaits (s : State) (cid : Nat) (req : ReqType) (ps : List Part) : Bool :=
  ps.any fun p => !p.tide && (match p.loc with
    | .dram a => (s.core (coreOf cid)).fifo.any fun e => match e with
      | .store x k r => x == a / 64 && k == cid && r != req
      | _ => false
    | _ => false)

/-- An instruction that must wait part of the way through its effect waits with none of it made. -/
def retryWhole {α : Type} (s : State) (r : Res α) : Res α :=
  match r with
  | .error (.stall _) => .error (.stall s)
  | r => r

/-- An instruction whose effect waits until no condition holds it. -/
def stallIf (b : Bool) (s : State) : Res Unit := trapIf b (.stall s)

/-- The run of a copy has failed (R406): its control block, which waits for the comparison, keeps it. -/
def failRun (s : State) (r : Nat × Nat) : State := s.modDie r.1 fun d => { d with rx := { d.rx with fail := true } }

/-- What R406 makes illegal in a context of a redundant run: the fault, after which the run fails. -/
def runIllegal (s : State) (cid : Nat) (bad : Bool) : Res Unit :=
  match runOf s cid with
  | some r => if bad then .error (.trapIn { code := 0x12 } (failRun s r)) else .ok ()
  | none => .ok ()

/-- The checks of a load (R38, R76, R112, R377). -/
def checkLoad (s : State) (cid : Nat) (req : ReqType) (e : Elem) : Res (List Part × State) := do
  let (ps, s1) ← translateElem s cid .load req e
  letInAll s1 cid .load ps
  let s2 ← tileCheck s1 ps .load
  if req != .unc then raceCheck s2 cid .load req ps
  .ok (ps, s2)

/-- The checks of a store or atomic (R38, R76, R112, R114, R377, R406). Every atomic is a store event of a tile, one that turns out to write
nothing too: DESIGN CHOICE, log entry 81. -/
def checkStore (s : State) (cid : Nat) (k : AccKind) (req : ReqType) (races : Bool) (e : Elem) :
    Res (List Part × State) := do
  let (ps, s1) ← translateElem s cid k req e
  runIllegal s1 cid (k == .atomic || req == .unc || ps.any fun p => p.tide || p.loc.mem?.isNone)
  letInAll s1 cid k ps
  let s2 ← tileCheck s1 ps .store
  storeCauses s2 ps
  if races then raceCheck s2 cid k req ps
  .ok (ps, s2)

/-- The checks of every element, lowest first: the first fault is of the lowest-numbered element (R241). -/
def checkAll (s : State) (es : List Elem) (f : State → Elem → Res (List Part × State)) :
    Res (List (List Part) × State) :=
  es.foldlM (fun (acc, s) e => do let (ps, s1) ← f s e; .ok (acc ++ [ps], s1)) ([], s)

/-! ## Loads -/

/-- A request to the home of a sector: the requests posted before it are served, or it waits with them (R91, R95). -/
def atHome (s : State) (sector : Nat) : Res State :=
  let s1 := serveHome s sector
  if homeWaits s1 sector then .error (.stall s) else .ok s1

/-- A line wanted in L2, or the wait for a record to close (R89, R95). -/
def wantLine (s : State) (line : Nat) (dirty : Bool) : Res State :=
  match l2Touch s line true dirty with
  | some s1 => .ok s1
  | none => .error (.stall s)

/-- The written bytes of a core's V copy of a sector sent home by a request that needs them there (R86, R91). -/
def ownHome (s : State) (core sector : Nat) : Res State :=
  let s1 := flushV s core sector
  if homeWaits s1 sector then .error (.stall s) else .ok s1

/-- A load that misses in L1: the home's bytes, and the copy that the requester gets (R91). -/
def l1Fetch (s : State) (core sector : Nat) (st : L1St) : Res (List Byte × State) := do
  let s1 ← ownHome s core sector
  let s2 ← wantLine (recallOwner s1 core sector) (sector / 4) false
  let bs := s2.mem.readN (sector * 64) 64
  let s3 ← l1Enter s2 core sector { st := st, bytes := if st = .v then bs else [] }
  .ok (bs, s3)

/-- The copy that a load of a type gets (R91). -/
def copyOf : ReqType → L1St
  | .own => .s | .wt => .w | .sinv => .v | .unc => .i

/-- The L1 side of a load of a DRAM sector by its request type: the bytes it reads (R86, R91). An OWN or WT load of a sector
that its own core holds V sends the written bytes home first: DESIGN CHOICE, log entry 23. -/
def l1Load (s : State) (cid : Nat) (req : ReqType) (sector : Nat) : Res (List Byte × State) :=
  let core := coreOf cid
  let x := l1Sec (s.core core) sector
  if req = .unc then .ok (s.mem.readN (sector * 64) 64, l2Refresh (recallOwner s core sector) (sector / 4))
  else if l1Hit (s.core core) .load req sector then
    (l1Enter s core sector x).map fun s1 => (if x.st = .v then x.bytes else s.mem.readN (sector * 64) 64, s1)
  else l1Fetch s core sector (copyOf req)

/-- The bytes of a part in memory as the context's own reads find them, without an access. -/
def peekPart (s : State) (cid : Nat) (p : Part) : List Byte :=
  match p.loc.mem? with
  | some a =>
    let x := l1Sec (s.core (coreOf cid)) (a / 64)
    let bs := if x.st = .v then x.bytes else s.mem.readN (a / 64 * 64) 64
    sliceBytes (ownView s cid (a / 64) bs) (a % 64) p.len
  | none => List.replicate p.len 0#8

/-- The next bytes of a context's remote load: of the reply that has come for it, else what the remote agent supplies (R117). -/
def replyBytes (s : State) (cid n : Nat) : List Byte × State :=
  let r := (s.ctx cid).reply
  if r.length < n then drawBytes s n else (r.take n, s.modCtx cid fun c => { c with reply := r.drop n })

/-- The memory-uncorrectable fault (R399), at the virtual address of the first failing byte (R382). -/
def uncorrectable (va elem : Nat) (s : State) : Stop := .trapIn { code := 0x29, addr := va, elem := elem } s

/-- The protected words of DRAM or of a vault that a part touches, read, with the fault where one is uncorrectable (R382, R399,
R400). -/
def readPart (s : State) (p : Part) (a : Nat) : Res State :=
  match readProtected s a p.len with
  | (some i, s1) => .error (uncorrectable (p.va + i) p.elem s1)
  | (none, s1) => .ok s1

/-- One part loaded. -/
def loadPart (io : IoOps) (s : State) (cid : Nat) (req : ReqType) (p : Part) : Res (List Byte × State) :=
  match p.loc with
  | .dram a => do
    let s1 ← if l1Hit (s.core (coreOf cid)) .load req (a / 64) then .ok s else atHome s (a / 64)
    let s2 ← readPart s1 p a
    let (bs, s3) ← l1Load s2 cid req (a / 64)
    .ok (sliceBytes (ownView s3 cid (a / 64) bs) (a % 64) p.len, s3)
  | .vault a => do
    let s2 ← readPart s p a
    .ok (sliceBytes (ownView s2 cid (a / 64) (s2.mem.readN (a / 64 * 64) 64)) (a % 64) p.len, s2)
  | .dev a => .ok (io.rd s a p.len)
  | .dbg a => .ok (io.rd s a p.len)
  | .net _ _ => .ok (replyBytes s cid p.len)

/-- The bytes of an element's parts. -/
def loadParts (io : IoOps) (s : State) (cid : Nat) (req : ReqType) (ps : List Part) : Res (List Byte × State) :=
  ps.foldlM (fun (bs, s) p => do let (b, s1) ← loadPart io s cid req p; .ok (bs ++ b, s1)) ([], s)

/-- Where an access through a network window goes (R33): the base address plus the offset, under the window's key. -/
def remoteOf (s : State) (w off : Nat) : Remote :=
  let r := fun k => ((s.io (winIo w)).reg (winOff w + k)).toNat
  { io := winIo w, peer := fld (r 0) 16 16, key := fld (r 24) 0 32, addr := (r 16 + off) % 2 ^ 64, ord := bit (r 0) 4 }

/-- The messages of the loads that parts make through network windows (R33, R117). -/
def netReads (s : State) (ps : List Part) : List NetMsg :=
  ps.filterMap fun p => match p.loc with
    | .net w off => some (.read (remoteOf s w off) p.len)
    | _ => none

/-- An acquire of the current context at a scope: at gang scope or wider the core's V sectors, tidal ones included, go home
and are dropped (R99). -/
def acquire (s : State) (sc : Scope) : Res State :=
  if scopeAtLeastGang sc then do
    let s1 := dropV s (coreOf s.cur)
    tidalSend s1 (coreOf s.cur) fun _ => true
  else .ok s

/-- A network-window part. -/
def Part.isNet (p : Part) : Bool := match p.loc with | .net _ _ => true | _ => false

/-- A tile part: a load served by a tile is an acquire at die scope (R248). -/
def inTile (s : State) (p : Part) : Bool :=
  match p.loc with
  | .vault a => (match tilePlace s a p.len with | .inTile _ => true | _ => false)
  | _ => false

/-- The bytes that the parts of an element await from remote agents: its index, their offset in it and their number. -/
def awaited (i : Nat) : Nat → List Part → List (Nat × Nat × Nat)
  | _, [] => []
  | off, p :: ps => (if p.isNet then [(i, off, p.len)] else []) ++ awaited i (off + p.len) ps

/-- A context that awaits the reply of a remote load: the bytes that it awaits, and its task as one that its die knows to await a
reply (R117, R397). -/
def awaitReply (s : State) (cid : Nat) (aw : List (Nat × Nat × Nat)) : State :=
  let inc := (s.ctx cid).incarnation
  (s.modCtx cid fun c => { c with mid := .waiting 6, awaits := aw }).modDie (dieOf cid) fun d =>
    { d with remotes := d.remotes ++ [(cid, inc)] }

/-- The loads of an instruction: checked, sent through network windows and awaited there (R117), performed. The wake
condition is that of a remote load. -/
def loadElems (io : IoOps) (s : State) (cid : Nat) (req : ReqType) (es : List Elem) (w : Wake) :
    Res (List (List Byte) × State) := do
  let (pss, s1) ← checkAll s es fun s e => checkLoad s cid req e
  let nets := pss.flatten.filter Part.isNet
  let replied := match (s1.ctx cid).mid with | .result _ => true | _ => false
  if !nets.isEmpty && !replied then
    let aw := ((es.zip pss).map fun p => awaited p.1.idx 0 p.2).flatten
    .error (.block w 0 (awaitReply { s1 with netOut := s1.netOut ++ netReads s1 nets } cid aw))
  else
    stallIf (typeWaits s1 cid req pss.flatten) s1
    let (bss, s2) ← pss.foldlM (fun (acc, s) ps => do
      let (b, s1) ← loadParts io s cid req ps
      .ok (acc ++ [b], s1)) ([], s1)
    if pss.flatten.any (inTile s2) then do
      let s3 ← acquire s2 .die
      .ok (bss, s3)
    else .ok (bss, s2)

/-! ## Stores -/

/-- The FIFO of a core is full, so that a store waits for its head (R96). DEDUCED, log entry 26. -/
def fifoFull (s : State) (cid : Nat) : Bool := decide (64 ≤ (s.core (coreOf cid)).fifo.length)

/-- The entry at the head of a core's FIFO is acknowledged and leaves (R97): an SINV store once its bytes have reached home, a
store that disables a format window once the tagged lines have left (R51). -/
def fifoAck (s : State) (core : Nat) : State :=
  let leave := fun (s : State) => s.modCore core fun c => { c with fifo := c.fifo.tail, fifoLeft := c.fifoLeft + 1 }
  match (s.core core).fifo with
  | .store x _ r :: _ =>
    if r = .sinv then
      let s1 := flushV (serveHome s x) core x
      if homeWaits s1 x then s1 else leave s1
    else leave s
  | .disable stk w _ :: _ =>
    if (SMap.getD (s.die (stk / 2)).fw (stk % 2 * 64 + w) {}).busy.isSome then s else leave s
  | _ => s

/-- The marker at the head of a core's FIFO completes its release and closes its context's records (R98). -/
def markerAck (s : State) (core : Nat) : State :=
  match (s.core core).fifo with
  | .marker cid sc :: rest =>
    let s1 := raceClose (s.modCore core fun c => { c with fifo := rest, fifoLeft := c.fifoLeft + 1 }) cid sc
    s1.modCtx cid fun c => if c.mid = .marker then { c with mid := .released, st := if c.st = .stalled then .ready else c.st } else c
  | _ => s

/-- Room for one more entry in a core's FIFO: an instruction with more entries than the FIFO holds waits for the head to
leave, and goes on (R96, R97). DEDUCED, log entry 26. -/
def fifoRoom (s : State) (core : Nat) : Res State :=
  if (s.core core).fifo.length < 64 then .ok s
  else
    let s1 := markerAck (fifoAck s core) core
    if (s1.core core).fifo.length < 64 then .ok s1 else .error (.stall s)

/-- An entry placed in a core's FIFO (R96). -/
def fifoAdd (s : State) (core : Nat) (e : FifoEntry) : Res State :=
  (fifoRoom s core).map fun s1 => s1.modCore core fun c => { c with fifo := c.fifo ++ [e] }

/-- The entry of a store placed in the dirty-address FIFO: merged into the tail entry of the same sector, context and type
(R96). -/
def fifoPush (s : State) (cid sector : Nat) (req : ReqType) : Res State :=
  let e := FifoEntry.store sector cid req
  if (s.core (coreOf cid)).fifo.getLast? = some e then .ok s else fifoAdd s (coreOf cid) e

/-- A tidal sector put into L1's tidal sectors of a context's task (R122). -/
def tidalPut (ts : List TidalSector) (cid inc sector mask : Nat) (bytes : List Byte) : List TidalSector :=
  let own := fun t : TidalSector => t.ctx == cid && t.inc == inc && t.sector == sector
  if ts.any own then
    ts.map fun t => if own t then { t with mask := t.mask ||| mask, bytes := mergeBytes mask t.bytes bytes } else t
  else ts ++ [{ ctx := cid, inc := inc, sector := sector, mask := mask, bytes := bytes }]

/-- A tidal store, held in L1 as a V sector (R122): the copy of its published bytes, and the written bytes beside it. Of a
sector of a vault only the written bytes are held, for no copy of a vault's bytes is made in L1 or L2 (R75).
DESIGN CHOICE, log entry 76. -/
def tidalStore (s : State) (cid : Nat) (req : ReqType) (sector mask : Nat) (bytes : List Byte) : Res State := do
  let core := coreOf cid
  let x := l1Sec (s.core core) sector
  let s1 ← if x.st = .i && regionOf (sector * 64) != 1 then (l1Fetch s core sector .v).map fun r => r.2
    else l1Enter s core sector x
  let inc := (s.ctx cid).incarnation
  fifoPush (s1.modCore core fun c => { c with tidal := tidalPut c.tidal cid inc sector mask bytes }) cid sector req

/-- A core's own copy of a sector replaced, where its L1 holds the line. -/
def setCopy (s : State) (core sector : Nat) (x : L1Sector) : State :=
  modSector s sector fun k y => if k = core then x else y

/-- What a WT store leaves of its own core's copy: W and S copies stay, an E or M one becomes S, and a V one is given up once
its bytes have gone home (R91). DESIGN CHOICE, log entry 23. -/
def keptCopy : L1St → L1St
  | .w => .w | .i | .v => .i | .s | .e | .m => .s

/-- A store of type SINV to a DRAM sector: into an owned copy, or into the V copy, whose notice of the bytes first written
since the last release goes to the home (R86, R91, R111). -/
def sinvStore (s : State) (cid sector mask : Nat) (bytes : List Byte) : Res State := do
  let core := coreOf cid
  let x := l1Sec (s.core core) sector
  if x.st == .e || x.st == .m then
    (l1Enter (dropCopies s (some core) sector) core sector { st := .m }).map fun s1 => storeHome s1 sector mask bytes
  else do
    let notice := x.st != .v || (mask &&& (ones 64 ^^^ openMask s cid sector)) % 2 ^ 64 != 0
    let s1 ← if notice then wantLine (dropCopies (recallOwner s core sector) (some core) sector) (sector / 4) false else .ok s
    let old := if x.st = .v then x.bytes else s1.mem.readN (sector * 64) 64
    l1Enter s1 core sector { st := .v, bytes := mergeBytes mask old bytes, mask := x.mask ||| mask, writer := cid }

/-- A store of a type to a DRAM sector: the copies it takes and drops, and the bytes at the home, or in the V copy for
SINV (R86, R91). A UNC store leaves its core no V copy: DESIGN CHOICE, log entry 23. -/
def l1Store (s : State) (cid : Nat) (req : ReqType) (sector mask : Nat) (bytes : List Byte) : Res State :=
  let core := coreOf cid
  let x := l1Sec (s.core core) sector
  match req with
  | .own => do
    let s1 ← ownHome s core sector
    let s2 := dropCopies s1 (some core) sector
    let s3 ← if x.st == .e || x.st == .m then .ok s2 else wantLine s2 (sector / 4) false
    let s4 ← l1Enter s3 core sector { st := .m }
    .ok (storeHome s4 sector mask bytes)
  | .wt => do
    let s1 ← ownHome s core sector
    let s2 ← wantLine (dropCopies s1 (some core) sector) (sector / 4) true
    let keep : L1Sector := { st := keptCopy x.st }
    let s3 ← if keep.st = .i then .ok (setCopy s2 core sector keep) else l1Enter s2 core sector keep
    .ok (storeHome s3 sector mask bytes)
  | .sinv => sinvStore s cid sector mask bytes
  | .unc => do
    let s1 ← ownHome s core sector
    .ok (storeHome (l2Refresh (setCopy (dropCopies s1 none sector) core sector {}) (sector / 4)) sector mask bytes)

/-- The format windows whose registers n bytes of a device address lie in, and that wait to be disabled (R49, R51). -/
def disabling (s : State) (a n : Nat) : List (Nat × Nat) :=
  let off := fld a 0 36
  if regionOf a = 2 ∧ fld a 36 4 < 12 ∧ 0x10000 ≤ off ∧ off < 0x12000 then
    let stk := 2 * fld a 36 4 + (off - 0x10000) / 0x1000
    ((List.range (n / 32 + 2)).map fun i => (stk, off % 0x1000 / 32 + i)).filter fun x =>
      (SMap.getD (s.die (x.1 / 2)).fw (x.1 % 2 * 64 + x.2) {}).busy.isSome
  else []

/-- A store to device registers; one that begins to disable a format window is acknowledged with it (R51, R116). -/
def devStore (io : IoOps) (s : State) (cid a : Nat) (bytes : List Byte) : Res State :=
  let s1 := io.wr s a bytes
  let old := disabling s a bytes.length
  ((disabling s1 a bytes.length).filter fun x => !old.contains x).foldlM
    (fun s x => fifoAdd s (coreOf cid) (.disable x.1 x.2 cid)) s1

/-- A store into memory of which a home takes the bytes: at its vault, or by its request type (R75, R91). -/
def memStore (s : State) (cid : Nat) (req : ReqType) (a mask : Nat) (sb : List Byte) : Res State :=
  if regionOf a = 1 then .ok (storeHome s (a / 64) mask sb) else l1Store s cid req (a / 64) mask sb

/-- A store that a pair's interval or a copy of a redundant run holds back (R404, R406). Without room a run fails, and a pair
takes the memory-model exception, cause 4. -/
def heldStore (s : State) (cid : Nat) (o : Owner) (sector mask : Nat) (sb : List Byte) : Res State :=
  match pendAdd s o sector mask sb with
  | (some s1, _) => .ok s1
  | (none, s1) =>
    match runOf s1 cid with
    | some r => .ok (failRun s1 r)
    | none => .error (.trapFull { code := 0x20, addr := sector * 64, info := mask, sub := 4 } (homeDie (homeOf sector)))

/-- One part stored; opens says whether it opens a race record (R111). A store of type UNC takes no byte out of other contexts' closed
records: DESIGN CHOICE, log entry 23. -/
def storePart (io : IoOps) (s : State) (cid : Nat) (req : ReqType) (opens : Bool) (p : Part) (bytes : List Byte) :
    Res State :=
  match p.loc with
  | .dev a => devStore io s cid a bytes
  | .dbg a => .ok (io.wr s a bytes)
  | .net w off => fifoPush { s with netOut := s.netOut ++ [.write (remoteOf s w off) bytes] } cid (2 ^ 60 + w) .unc
  | .dram a | .vault a => do
    let sector := a / 64
    let mask := byteMask a p.len
    let sb := sectorBytes (a % 64) bytes
    let s1 ← if l1Hit (s.core (coreOf cid)) .store req sector then .ok s else atHome s sector
    if p.tide then tidalStore s1 cid req sector mask sb
    else
      let s2 ← match privateOwner s1 cid with
        | some o => if req = .unc then memStore s1 cid req a mask sb else heldStore s1 cid o sector mask sb
        | none => (memStore s1 cid req a mask sb).map fun s2 => if req = .unc then s2 else raceWrite s2 cid sector mask opens
      fifoPush s2 cid sector req

/-- The parts of an element stored, its bytes in order. -/
def storeParts (io : IoOps) (s : State) (cid : Nat) (req : ReqType) (opens : Bool) (ps : List Part) (bytes : List Byte) :
    Res State := do
  let (s1, _) ← ps.foldlM (fun (s, bs) p => do
    let s1 ← storePart io s cid req opens p (bs.take p.len)
    .ok (s1, bs.drop p.len)) (s, bytes)
  .ok s1

/-- A stored part that its home has performed: all but SINV stores kept in their core and tidal stores. -/
def partAtHome (s : State) (cid : Nat) (req : ReqType) (p : Part) : Bool :=
  !p.tide && (match p.loc with
    | .vault _ => true
    | .dram a => req != .sinv || (l1Sec (s.core (coreOf cid)) (a / 64)).st == .m
    | _ => false)

/-- The bytes of each sector that parts cover. -/
def coverOf (ps : List Part) : SMap Nat :=
  ps.foldl (fun m p => match p.loc with
    | .dram a | .vault a => SMap.put m (a / 64) (SMap.getD m (a / 64) 0 ||| byteMask a p.len)
    | _ => m) []

/-- The elements of a vector store that together write the whole of a sector or word clear its mark (R399).
DESIGN CHOICE, log entry 3. -/
def clearCovered (s : State) (cid : Nat) (req : ReqType) (ps : List Part) : State :=
  if (privateOwner s cid).isSome && req != .unc then s
  else (coverOf (ps.filter (partAtHome s cid req))).foldl (fun s x => clearMarks s x.1 x.2) s

/-- The parts of an element at their homes, which have served the requests posted before it where the store does not hit in L1
(R91, R95). -/
def partsHome (s : State) (cid : Nat) (req : ReqType) (ps : List Part) : Res State :=
  ps.foldlM (fun s p => match p.loc.mem? with
    | some a => if l1Hit (s.core (coreOf cid)) .store req (a / 64) then .ok s else atHome s (a / 64)
    | none => .ok s) s

/-- The stores of an instruction: every element checked, then performed in ascending order (R241). The data of an element
are found when it is stored, at its home. -/
def storeWith {α : Type} (io : IoOps) (s : State) (cid : Nat) (req : ReqType) (es : List (Elem × α))
    (data : State → α → List Part → List Byte × State) : Res State := do
  let (pss, s1) ← checkAll s (es.map (·.1)) fun s e => checkStore s cid .store req (req != .unc) e
  stallIf (fifoFull s1 cid && !es.isEmpty || typeWaits s1 cid req pss.flatten) s1
  let s2 ← retryWhole s1 ((pss.zip (es.map (·.2))).foldlM (fun s px =>
    do
      let s0 ← partsHome s cid req px.1
      let (bs, s1) := data s0 px.2 px.1
      storeParts io s1 cid req true px.1 bs) s1)
  .ok (clearCovered s2 cid req pss.flatten)

/-- The stores of an instruction whose elements' bytes are known (R241). -/
def storeElems (io : IoOps) (s : State) (cid : Nat) (req : ReqType) (es : List (Elem × List Byte)) : Res State :=
  storeWith io s cid req es fun s bs _ => (bs, s)

/-! ## Releases and acquires -/

/-- What the placing of a marker sends home at once: the written bytes of V sectors that FIFO entries name, and the
releasing context's tidal sectors (R98, R122). -/
def markerSends (s : State) (cid : Nat) : Res State :=
  let core := coreOf cid
  let named := (s.core core).fifo.filterMap fun e => match e with | .store x _ _ => some x | _ => none
  let s1 := named.foldl (fun s x => flushV s core x) s
  tidalSend s1 core fun t => t.ctx == cid && t.inc == (s.ctx cid).incarnation

/-- A release of the current context at a scope (R98, R107): complete at once when the FIFO is empty; otherwise its marker
is placed and the instruction stalls until the marker has reached the head. DEDUCED, log entry 17. -/
def release (s : State) (sc : Scope) : Res State :=
  match s.me.mid with
  | .none => do
    let s1 ← markerSends s s.cur
    if (s1.core (coreOf s.cur)).fifo.isEmpty then .ok ((raceClose s1 s.cur sc).modMe fun c => { c with mid := .released })
    else do
      stallIf (fifoFull s1 s.cur) s1
      let s2 := s1.modCore (coreOf s.cur) fun c => { c with fifo := c.fifo ++ [.marker s.cur sc] }
      .error (.stall (s2.modMe fun c => { c with mid := .marker }))
  | .marker => .error (.stall s)
  | _ => .ok s

/-- A release that an instruction makes before its effect: the instruction's own checks come first, so that one that faults
has released nothing (R107, R241). -/
def releaseFirst (s : State) (sc : Scope) (check : State → Res Unit) : Res State := do
  match s.me.mid with
  | .none => check s
  | _ => .ok ()
  release s sc

/-- Whether an order releases (R106). -/
def orderReleases : Order → Bool
  | .rel | .ar | .sc => true
  | .rlx | .acq => false

/-- Whether an order acquires (R106). -/
def orderAcquires : Order → Bool
  | .acq | .ar | .sc => true
  | .rlx | .rel => false

end Sys2Proof.Machine
end

