-- ==== Sys2Proof/Machine/Complete.lean ====
section
/-! DEFINITION. Completion: statuses delivered to handles and tokens, completion stores and progress stores, and stores that
wait for their target (R129, R133, R134, R190, R191, R440). -/

namespace Sys2Proof.Machine
open Sys2Proof

/-! ## Handles and tokens -/

/-- A handle that was pending on an operation, complete with its status. -/
def completeHandle (op : Nat) (status : Nat) (sc : Scope) (h : Handle) : Handle :=
  if h = .pending op then .complete (wd status) sc else h

/-- A context's handles that were pending on an operation, complete. -/
def completeHandles (op : Nat) (status : Nat) (sc : Scope) (c : Ctx) : Ctx :=
  { c with hregs := c.hregs.map (completeHandle op status sc) }

/-- The token-table entry that a token's bits name: die, entry, generation (R191). -/
def tokenFields (t : Nat) : Nat × Nat × Nat := (fld t 16 4, fld t 0 12, fld t 12 4)

/-- Whether a wait names an operation: through the waiting context's handle, or through a token of its die. -/
def waitsOn (s : State) (op : Nat) (c : Ctx) : Bool :=
  match c.wake with
  | .handle h => if hh : h < 16 then c.hregs[h] == .pending op else false
  | .token t =>
    let (d, e, g) := tokenFields t
    let x := SMap.getD (s.die d).tokens e {}
    x.h == .pending op && x.gen == g
  | _ => false

/-- The size of a save slot (R391). -/
def slotBytes : Nat := 20480

/-- A handle register as the window and the image show it (R386, R391). -/
def handleBits : Handle → Nat
  | .idle => 0
  | .pending _ => 1
  | .complete st _ => 2 + (st.toNat <<< 64)

/-- The repetition buffer and sequencer as the window and the image show them (R386, R391): the packing is the model's.
DESIGN CHOICE, log entry 41. -/
def repBits (r : RepBuf) : Nat :=
  (r.body.zipIdx.foldl (fun a p => a + (p.1.toNat <<< (96 * p.2))) 0)
    + ((r.pc % 2 ^ 48) <<< 768) + ((r.flags % 256) <<< 816) + ((r.rstr % 256) <<< 824) + ((r.istr % 2 ^ 16) <<< 832)
    + (r.body.length <<< 1600) + ((r.pos % 256) <<< 1608) + ((r.pass % 2 ^ 32) <<< 1616) + ((r.count % 2 ^ 32) <<< 1648)

/-- The region-form address of a byte of a save slot (R391). -/
def slotAddr (s : State) (die slot off : Nat) : Nat := (s.die die).svBase * 65536 + slotBytes * slot + off

/-- The slots of an evicted context's handles in its save image written as its handles now stand (R393). -/
def writeHandles (s : State) (die : Nat) (m : Image) : State :=
  m.ctx.hregs.toList.zipIdx.foldl (fun s p =>
    match dramLoc s (slotAddr s die m.slot (0x300 + 16 * p.2)) with
    | none => s
    | some a =>
      deviceWrite s (a / 64) (byteMask a 16) (sectorBytes (a % 64) (natToBytes 16 (handleBits p.1)))) s

/-- Whether a context has a handle pending on an operation. -/
def hasHandle (op : Nat) (c : Ctx) : Bool := c.hregs.toList.contains (.pending op)

/-- The STALEGEN counter (R407). -/
def ctrStale : Nat := 0x30

/-- An operation's status written to every handle and token that holds it; waits on them end (R129, R182, R190, R191). -/
def deliverOp (s : State) (op status : Nat) (sc : Scope) : State :=
  let wake := fun (s' : State) (k : Nat) =>
    wakeAll s' k op fun _ c => if c.wake.kind = k ∧ waitsOn s op c then some (some .none) else none
  let s1 := wake (wake s 3) 4
  let held := (s1.dies.map fun p => (p.2.images.filter fun i => hasHandle op i.ctx).map fun i => (p.1, i)).flatten
  let s1 := held.foldl (fun s x => writeHandles s x.1 { x.2 with ctx := completeHandles op status sc x.2.ctx }) s1
  { s1 with
    ctxs := s1.ctxs.map fun p => (p.1, completeHandles op status sc p.2)
    dies := s1.dies.map fun p => (p.1, { p.2 with
      images := p.2.images.map fun i => { i with ctx := completeHandles op status sc i.ctx }
      tokens := p.2.tokens.map fun t => (t.1, { t.2 with h := completeHandle op status sc t.2.h }) }) }

/-- A handle or a token holds an operation, in a context or in a save image. -/
def opHeld (s : State) (op : Nat) : Bool :=
  (s.ctxs.any fun p => hasHandle op p.2)
    || s.dies.any fun p => (p.2.images.any fun i => hasHandle op i.ctx) || p.2.tokens.any fun t => t.2.h == .pending op

/-- A status sent by a die to the handle or token of an operation. One whose task has ended is dropped and counted (R397). -/
def deliverTo (s : State) (die op status : Nat) (sc : Scope) : State :=
  if opHeld s op then deliverOp s op status sc else countDie s die ctrStale 1

/-- The next operation number. -/
def newOp (s : State) : Nat × State := (s.nextOp, { s with nextOp := s.nextOp + 1 })

/-! ## Completion stores -/

/-- The INBREF counter (R407). -/
def ctrInbref : Nat := 0x60

/-- A lifetime event counted by a die (0 to 11) or an I/O die (12, 13). -/
def countUnit (s : State) (unit off n : Nat) : State :=
  if unit < 12 then countDie s unit off n else countIo s (unit - 12) off n

/-- The place that a completion word's address names: a bank-local DRAM address, a vault address or a network window. -/
def wordLoc (a : Nat) : Loc :=
  if regionOf a = 0 then .dram a else if regionOf a = 1 then .vault a else .net (fld a 40 7) (fld a 0 40)

/-- The address by which a checked place is kept. -/
def Loc.key : Loc → Nat
  | .dram a => a
  | .vault a => a
  | .dev a => a
  | .dbg a => a
  | .net w off => 2 ^ 47 + (w <<< 40) + off

/-- A sector at its home for a device's store of type OWN: the requests posted before it served, every copy dropped, and a line of
DRAM made recent or allocated. None while its home must wait for a record to close (R87, R89, R91, R95, R440). -/
def ownedHome (s : State) (a : Nat) : Option State :=
  let s1 := serveHome s (a / 64)
  if homeWaits s1 (a / 64) then none
  else
    let s2 := dropCopies s1 none (a / 64)
    if regionOf a = 0 then l2Touch s2 (a / 256) true true else some s2

/-- A completion store must wait: its bytes lie in a live rank region or in an engine's destination, an earlier store to
its word waits, or its target holds requests back (R56, R62, R68, R95, R133, R440). -/
def storeWaits (s : State) (a : Nat) : Bool :=
  (regionOf a == 0 && bankLive s (bankKey a)) || claimedBy s none a 8 || (s.deferred.any fun d => d.addr == a)
    || (heldAt s .store (wordLoc a)).isSome || (regionOf a ≤ 1 && (ownedHome s a).isNone)

/-- A device's store of eight bytes at a checked address, performed, or dropped and counted where its target refuses it
(R440). Through a network window a progress word goes with ordered delivery (R375). A remote target accepts it or answers with an
access error by a free choice. DEDUCED, log entry 38. -/
def deviceStore (s : State) (unit a v : Nat) (ord : Bool) : State :=
  let drop := fun s => countUnit s unit ctrInbref 1
  match wordLoc a with
  | .net w off =>
    if netFault s w off 8 .store || refusesUnit s unit (.net w off) || windowStatus s w != 0 then drop s
    else
      let r := remoteOf s w off
      let s1 := { s with netOut := s.netOut ++ [.write { r with ord := r.ord || ord } (natToBytes 8 v)] }
      let (c, s2) := drawChoice s1 2
      if c = 0 then s2 else drop s2
  | l =>
    if refusesUnit s unit l || rowGone s (a / 64) then drop s
    else
      let s1 := (ownedHome s a).getD s
      let (bad, s2) := if regionOf a = 0 then readSector s1 (a / 64) else (false, s1)
      if bad then drop s2
      else
        let m := byteMask a 8
        let s3 := raceCover s2 (a / 64) m
        let put := fun s => storeHome s (a / 64) m (sectorBytes (a % 64) (natToBytes 8 v))
        if regionOf a = 1 then
          match tilePlace s3 a 8 with
          | .plain => put s3
          | .inTile e => (match tileStep (s3.tile (vaultNo a * 128 + e)) .store with
              | .ok _ => put s3
              | _ => drop s3)
          | .mixed => drop s3
        else put s3

/-- A completion store or a progress store of a unit, and what follows it: performed, or kept until its target is free (R133,
R440). A parked target is woken (R62). -/
def storeThen (s : State) (unit a v : Nat) (after : After) (go : State → State) : State :=
  if storeWaits s a then
    let s1 := (heldAt s .store (wordLoc a)).getD s
    { s1 with deferred := s1.deferred ++ [{ unit := unit, addr := a, value := v, after := after }] }
  else go (deviceStore s unit a v (after == .progress))

/-- A completion store that nothing waits for. -/
def completionStore (s : State) (unit a v : Nat) : State := storeThen s unit a v .none id

/-- The first stores of each word that no longer wait. -/
def deferredReady (s : State) (i : Nat) : Option Deferred :=
  match s.deferred[i]? with
  | none => none
  | some d =>
    if (s.deferred.take i).any fun x => x.addr == d.addr then none
    else if storeWaits { s with deferred := [] } d.addr then none
    else some d

/-- A completion word's value: the sequence value, with bit 63 added for a failure (R370, R411). -/
def seqValue (seq : Nat) (failed : Bool) : Nat := (seq + if failed then 2 ^ 63 else 0) % 2 ^ 64

end Sys2Proof.Machine
end

