-- ==== Sys2Proof/Machine/Progress.lean ====
section
/-! DEFINITION. Completion of Tranar commands and the progress words of their queues (R370, R375, R410, R411). -/

namespace Sys2Proof.Machine
open Sys2Proof

/-- A queue of an I/O die. -/
def IoDie.queue (d : IoDie) (q : Nat) : Queue := SMap.getD d.queues q {}

/-- A queue replaced. -/
def setQueue (s : State) (io q : Nat) (x : Queue) : State := s.modIo io fun d => { d with queues := SMap.put d.queues q x }

/-- The largest p such that every entry below it has completed, from a p and the completed entries beyond it (R375). -/
def advanceDone : Nat → Nat → List Nat → Nat × List Nat
  | 0, p, fs => (p, fs)
  | n + 1, p, fs => if fs.contains p then advanceDone n (p + 1) (fs.filter (· != p)) else (p, fs)

/-- The fields of a Tranar command (R410). -/
def cmdOp (b : BitVec 512) : Nat := fld b.toNat 0 8
/-- CW. -/
def cmdCw (b : BitVec 512) : Bool := bit b.toNat 8
/-- SCOPE. -/
def cmdScope (b : BitVec 512) : Nat := fld b.toNat 9 3
/-- DIE. -/
def cmdDie (b : BitVec 512) : Nat := fld b.toNat 12 4
/-- A. -/
def cmdA (b : BitVec 512) : Nat := fld b.toNat 64 64
/-- B. -/
def cmdB (b : BitVec 512) : Nat := fld b.toNat 128 64
/-- C. -/
def cmdC (b : BitVec 512) : Nat := fld b.toNat 192 64
/-- CWADDR. -/
def cmdCwaddr (b : BitVec 512) : Nat := fld b.toNat 256 64
/-- CWSEQ. -/
def cmdCwseq (b : BitVec 512) : Nat := fld b.toNat 320 64

/-- The key of the word that a region-form DRAM address or a network-window address names (R372, R410). -/
def wordKey (s : State) (pa : Nat) : Nat := if bit pa 47 then pa else (dramLoc s pa).getD pa

/-- The progress word of a queue written with a value (R375): through a network window with reliable ordered delivery. -/
def progressStore (s : State) (io : Nat) (x : Queue) (v : Nat) : State :=
  storeThen s (12 + io) (wordKey s x.prog) v .progress id

/-- An entry of a queue has completed: the progress word follows, unless the queue was enabled anew since (R375). -/
def entryDone (s : State) (io q entry : Nat) : State :=
  let x := (s.io io).queue q
  if entry / 2 ^ 64 ≠ x.run then s
  else
    let (p, fs) := advanceDone (x.finished.length + 1) x.done (entry % 2 ^ 64 :: x.finished)
    let s1 := setQueue s io q { x with done := p, finished := fs }
    if x.done < p then progressStore s1 io x p else s1

/-- A Tranar command has completed, with its completion store (R375). -/
def endCommand (s : State) (io q entry : Nat) : State :=
  entryDone (s.modIo io fun d => { d with cmdq := d.cmdq.filter fun x => !(x.q == q && x.entry == entry) }) io q entry

/-- A Tranar command finishes with a status: its completion word, then its place in the progress of its queue (R370,
R411). -/
def tranarDone (s : State) (io q entry status : Nat) : State :=
  match (s.io io).cmdq.find? fun c => c.q == q && c.entry == entry with
  | none => s
  | some c =>
    if cmdCw c.bits then
      storeThen s (12 + io) (wordKey s (cmdCwaddr c.bits)) (seqValue (cmdCwseq c.bits) (status != 0)) (.entry io q entry)
        fun s => endCommand s io q entry
    else endCommand s io q entry

end Sys2Proof.Machine
end

