-- ==== Sys2Proof/Machine/Graph.lean ====
section
/-! DEFINITION. Graphs: node records and descriptors, the ready pool, dependences, retirement, halting and completion (R230,
R231, R354 to R360, R367 to R370). -/

namespace Sys2Proof.Machine
open Sys2Proof

/-! ## Node records -/

/-- A field of a node record (R355). -/
def nodeFld (b : BitVec 512) (lo w : Nat) : Nat := fld b.toNat lo w
/-- KIND: 0 TASK, 1 GANGTASK, 2 STEP, 3 COPY. -/
def nodeKind (b : BitVec 512) : Nat := nodeFld b 0 2
/-- PRIO. -/
def nodePrio (b : BitVec 512) : Nat := nodeFld b 2 3
/-- CSCOPE. -/
def nodeCscope (b : BitVec 512) : Nat := nodeFld b 5 3
/-- DCNT. -/
def nodeDcnt (b : BitVec 512) : Nat := nodeFld b 8 8
/-- CREW. -/
def nodeCrew (b : BitVec 512) : Nat := nodeFld b 16 12
/-- SEQ. -/
def nodeSeq (b : BitVec 512) : Nat := nodeFld b 32 32
/-- OPA. -/
def nodeOpa (b : BitVec 512) : Nat := nodeFld b 64 48
/-- OPB. -/
def nodeOpb (b : BitVec 512) : Nat := nodeFld b 128 48
/-- CWADDR. -/
def nodeCwaddr (b : BitVec 512) : Nat := nodeFld b 448 48
/-- CW. -/
def nodeCw (b : BitVec 512) : Bool := b.getLsbD 511
/-- The successors of a record that are not none. -/
def nodeSucc (b : BitVec 512) : List Nat := ((List.range 4).map fun i => nodeFld b (384 + 16 * i) 16).filter (· != 0xFFFF)
/-- The die that a record names, for a submitter on a die (R355). -/
def nodeDie (b : BitVec 512) (home : Nat) : Nat := if nodeFld b 28 4 = 15 then home else nodeFld b 28 4

/-- A reserved field of a record that is not zero (R355). -/
def nodeReserved (b : BitVec 512) : Bool :=
  nodeFld b 112 16 != 0 || nodeFld b 176 16 != 0 || nodeFld b 496 15 != 0 ||
    (match nodeKind b with
     | 2 => nodeFld b 192 64 != 0
     | 3 => nodeFld b 225 31 != 0
     | _ => nodeFld b 240 16 != 0)

/-- A tile slot that R355 allows. -/
def tileSlotOk (kind x : Nat) : Bool :=
  if kind = 2 ∨ kind = 3 ∨ fld x 16 2 = 0 then x == 0
  else decide (fld x 0 8 < 160) && !bit x 15 && fld x 18 14 == 0

/-- The rules of R356 that a record breaks by itself, for a submitter with or without system instructions. -/
def nodeIllegal (b : BitVec 512) (sys : Bool) : Bool :=
  decide (6 ≤ nodeCscope b) || (decide (12 ≤ nodeFld b 28 4) && nodeFld b 28 4 != 15) || (nodePrio b == 7 && !sys)
    || !((List.range 4).all fun t => tileSlotOk (nodeKind b) (nodeFld b (256 + 32 * t) 32))
    || (nodeCw b && nodeCwaddr b % 8 != 0)
    || (decide (2 ≤ nodeKind b) && nodeCrew b != 0)

/-! ## The pool -/

/-- A node number from a die and an entry (R355). -/
def nodeNumber (die e : Nat) : Nat := die * 4096 + e

/-- A held node of a number. -/
def nodeAt (s : State) (n : Nat) : Option Node := if n < 49152 then SMap.find? (s.die (n / 4096)).pool (n % 4096) else none

/-- A node replaced and brought up to date (R354). -/
def putNode (s : State) (n : Nat) (x : Node) : State :=
  s.modDie (n / 4096) fun d => { d with pool := SMap.put d.pool (n % 4096) (refreshNode s (n / 4096) x) }

/-- The lowest free entry of a die's pool (R354). -/
def freeEntry (s : State) (die : Nat) : Option Nat :=
  (List.range Config.poolSize).find? fun e => (SMap.find? (s.die die).pool e).isNone

/-- One taken from a node's count, if the node is still the one that was meant and is not running (R359). -/
def dropCount (s : State) (n uid k : Nat) : State :=
  match nodeAt s n with
  | some x => if x.uid = uid ∧ x.st ≠ .running then putNode s n { x with count := x.count - k } else s
  | none => s

/-- One added to a node's count by an edge, unless it is running (R359). -/
def addCount (s : State) (n : Nat) : State :=
  match nodeAt s n with
  | some x => if x.st = .running then s else putNode s n { x with count := x.count + 1 }
  | none => s

/-- A successor released by a die: at once, or by a message over the links (R369). -/
def releaseSucc (s : State) (die : Nat) (t : Nat × Nat) : State :=
  if t.1 / 4096 = die then dropCount s t.1 t.2 1
  else s.modDie (t.1 / 4096) fun d => { d with succMsgs := d.succMsgs ++ [t] }

/-- SUCCESSOR_RELEASE_MESSAGE (R369). -/
def execSuccessorReleaseMessage (die : Nat) (s : State) : Host.Outcome State Fault Refusal :=
  .next (match (s.die die).succMsgs with
    | [] => s
    | t :: rest => dropCount (s.modDie die fun d => { d with succMsgs := rest }) t.1 t.2 1)

/-- A member of a crew retires; with the last of them the crew's number is freed (R367). -/
def crewRetire (s : State) (die crew : Nat) : State :=
  if crew = 0 then s
  else s.modDie die fun d => match SMap.find? d.crews crew with
    | none => d
    | some c =>
      if c.live ≤ 1 then { d with crews := SMap.del d.crews crew }
      else { d with crews := SMap.put d.crews crew { c with live := c.live - 1 } }

/-- A node out of its pool (R354). -/
def removeNode (s : State) (n : Nat) : State :=
  match nodeAt s n with
  | none => s
  | some x =>
    let s1 := s.modDie (n / 4096) fun d => { d with pool := SMap.del d.pool (n % 4096) }
    let s2 := { s1 with graphs := s1.graphs.map fun g => if g.1 = x.graph then (g.1, { g.2 with gone := n :: g.2.gone }) else g }
    crewRetire s2 (n / 4096) (nodeCrew x.bits)

/-- The numbers of a graph's held nodes. -/
def graphNodes (s : State) (g : Nat) : List (Nat × Node) :=
  (s.dies.map fun d => (d.2.pool.filter fun p => p.2.graph == g).map fun p => (nodeNumber d.1 p.1, p.2)).flatten

/-! ## Halting and completion -/

/-- Whether a failure gives a graph its status: the first does, and of those in one cycle that of the lowest node (R370). -/
def failsFirst (s : State) (x : Graph) (node : Option Nat) : Bool :=
  !x.halted || (match x.failed, node with
    | some (t, m), some n => t == s.time && decide (n < m)
    | _, _ => false)

/-- A graph halts with a status, that of a failed node or of its cancellation: its waiting and ready nodes retire without
effect (R370). One that has completed, and makes its completion store, is not changed. -/
def haltGraph (s : State) (g status : Nat) (node : Option Nat) : State :=
  match SMap.find? s.graphs g with
  | none => s
  | some x =>
    let y : Graph := { x with halted := true, status := status, failed := node.map fun n => (s.time, n) }
    let s1 := if failsFirst s x node && !x.storing then { s with graphs := SMap.put s.graphs g y } else s
    ((graphNodes s1 g).filter fun p => p.2.st != .running).foldl (fun s p => removeNode s p.1) s1

/-- A device's completion store of a copy of a redundant run goes with the copy's other writes; any other is made, and what
follows it comes after it (R406, R440). -/
def runStore (s : State) (run : Option (Nat × Nat)) (unit a v : Nat) (after : After) (go : State → State) : State :=
  match run with
  | none => storeThen s unit a v after go
  | some (d, c) =>
    go (if regionOf a = 0 ∨ regionOf a = 1 then
      match pendAdd s (.run d c) (a / 64) (byteMask a 8) (sectorBytes (a % 64) (natToBytes 8 v)) with
      | (some s1, _) => s1
      | (none, s1) => failRun s1 (d, c)
    else failRun s (d, c))

/-- A copy of a redundant run has retired every node of the graph that GO submitted (R405, R406). -/
def runCopyDone (x : Redundant) (c status : Nat) : Redundant :=
  if c = 0 then { x with sta := some status } else { x with stb := some status }

/-- A graph of a run has completed; where one of its nodes has failed, the run fails, and FSTAT keeps the first such status (R405,
R406). -/
def runFails (x : Redundant) (status : Nat) : Redundant :=
  { x with fail := true, fstat := if x.fstat = 0 then status % 256 else x.fstat }

/-- A graph belongs to a die's run, as the one that GO submitted or as one that a copy submitted itself. -/
def ofRun (die : Nat) (g : Graph) : Bool := match g.run with | some (d, _) => d == die | none => false

/-- Both copies of a die's run have retired every node: the comparison begins (R406). -/
def settleRun (s : State) (die : Nat) : State :=
  let x := (s.die die).rx
  if x.sta.isSome && x.stb.isSome && x.st == 1 && !s.graphs.any (fun g => ofRun die g.2) then
    s.modDie die fun d => { d with rx := { d.rx with st := 2 } }
  else s

/-- A graph that has halted (R370). -/
def graphHalted (s : State) (g : Nat) : Bool :=
  match SMap.find? s.graphs g with | some x => x.halted | none => true

/-- A graph has completed: its handle or token, and what it was submitted for (R370, R406, R411). -/
def endGraph (s : State) (g : Nat) : State :=
  match SMap.find? s.graphs g with
  | none => s
  | some x =>
    let status := if x.halted then x.status else 0
    let s1 := { s with graphs := SMap.del s.graphs g }
    let s2 := match x.dest with
      | .tranar io q e => tranarDone s1 io q e status
      | .run d c => s1.modDie d fun y => { y with rx := runCopyDone y.rx c status }
      | _ => deliverTo s1 x.die x.op status .die
    match x.run with
    | some (d, _) => settleRun (if x.failed.isSome then s2.modDie d fun y => { y with rx := runFails y.rx status } else s2) d
    | none => s2

/-- A graph whose last node has retired completes, after its completion store (R370, R406, R440). -/
def completeGraph (s : State) (g : Nat) : State :=
  match SMap.find? s.graphs g with
  | none => s
  | some x =>
    if x.storing || !(graphNodes s g).isEmpty then s
    else match x.cwpa, x.dest with
      | some a, .run d c =>
        endGraph (if c = 0 then s.modDie d fun y => { y with rx := { y.rx with cw := some (a, x.cwseq) } } else s) g
      | some a, _ =>
        runStore { s with graphs := SMap.put s.graphs g { x with storing := true } } x.run x.die a
          (seqValue x.cwseq x.halted) (.graph g) fun s => endGraph s g
      | none, _ => endGraph s g

/-- A node's entry is freed, and its graph completes with its last node (R368, R370). -/
def freeNode (s : State) (n : Nat) : State :=
  match nodeAt s n with
  | none => s
  | some x => completeGraph (removeNode s n) x.graph

/-- A node finishes with a status: its graph halts on a failure; otherwise its successors are released, unless the graph
has halted; then the holds, its completion store and its entry (R354, R368, R370). -/
def finishNode (s : State) (n status : Nat) : State :=
  match nodeAt s n with
  | none => s
  | some x =>
    let halted := graphHalted s x.graph
    let die := n / 4096
    let s1 := if status ≠ 0 then haltGraph s x.graph status (some n)
      else if halted then s
      else x.succ.foldl (fun s t => releaseSucc s die t) s
    let s2 := x.holds.foldl (fun s h => dropCount s h.1 h.2.1 h.2.2) s1
    match x.cwpa with
    | some a =>
      let s3 := s2.modDie die fun d => { d with pool := d.pool.map fun p =>
        if p.1 = n % 4096 then (p.1, { p.2 with finished := true }) else p }
      runStore s3 ((SMap.find? s.graphs x.graph).bind (·.run)) die a (seqValue (nodeSeq x.bits) (status != 0)) (.node n)
        fun s => freeNode s n
    | none => freeNode s2 n

/-- What follows a completion store that has been made (R368, R370, R375). -/
def runAfter (s : State) : After → State
  | .none | .progress => s
  | .node n => freeNode s n
  | .graph g => endGraph s g
  | .entry io q e => endCommand s io q e

/-- DEFERRED_COMPLETION_STORE (R440): a held store whose target is free is performed, and what waited for it follows. -/
def execDeferredCompletionStore (idx : Nat) (s : State) : Host.Outcome State Fault Refusal :=
  .next (match deferredReady s idx with
    | none => ((s.deferred[idx]?).bind fun d => heldAt s .store (wordLoc d.addr)).getD s
    | some d => runAfter
        (deviceStore { s with deferred := s.deferred.eraseIdx idx } d.unit d.addr d.value (d.after == .progress)) d.after)

/-- HCANCEL of a graph's handle (R370): it halts with status 1, and completes at once when no node of it runs. -/
def cancelGraph (s : State) (op : Nat) : State :=
  match List.find? (fun g => g.2.op == op) s.graphs with
  | none => s
  | some (g, _) => completeGraph (haltGraph s g 1 none) g

/-! ## Entering nodes -/

/-- A node entered at an entry of its die, with its successors and count (R354, R359). -/
def enterNode (s : State) (n : Nat) (b : BitVec 512) (g count : Nat) (succ : List (Nat × Nat)) (cwpa : Option Nat)
    (uid : Nat) : State :=
  let die := n / 4096
  let s1 := s.modDie die fun d =>
    match SMap.find? d.crews (nodeCrew b) with
    | some c => { d with crews := SMap.put d.crews (nodeCrew b) { c with entered := c.entered + 1, live := c.live + 1 } }
    | none => d
  putNode s1 n { uid := uid, bits := b, graph := g, count := count, succ := succ, cwpa := cwpa,
                 left := if nodeKind b = 1 then 8 else 1 }

/-- A crew that has room for more members, or no crew at all (R356). -/
def crewHasRoom (s : State) (die crew k : Nat) : Bool :=
  match SMap.find? (s.die die).crews crew with
  | some c => decide (c.entered + k ≤ c.size)
  | none => false

/-! ## Reading records -/

/-- The place of bytes of memory. -/
def memLoc (a : Nat) : Loc := if regionOf a = 1 then .vault a else .dram a

/-- A line that a unit's read finds at its home (R87, R89): a coherent read allocates it, one of type UNC does not. -/
def unitLine (s : State) (coherent : Bool) (a : Nat) : Option State :=
  if regionOf a = 1 then some s
  else
    let s1 := recallOwner s (2 ^ 32) (a / 64)
    if coherent then l2Touch s1 (a / 256) true false else some (l2Refresh s1 (a / 256))

/-- Bytes of memory read at home by a unit, of a die that acts for a context or a graph or of an I/O die: uncorrectable bytes, a refusing
unit and a race are faults of the reading (R38, R112, R377, R399). A UNC read is not checked for races (R112). A place that
holds requests back and a tile that is being filled are waited for (R56, R62, R68, R69, R83). -/
def readUnitAs (coherent : Bool) (s : State) (die : Nat) (agent : Agent) (a n : Nat) : URes (List Byte × State) :=
  if refusesUnit s die (memLoc a) then .error ({ code := 0x2A }, s)
  else match heldAt s .load (memLoc a) with
    | some s1 => unitWaits s1
    | none =>
      let s1 := serveHome s (a / 64)
      if homeWaits s1 (a / 64) || inFilling s (memLoc a) n then unitWaits s
      else match if coherent then raceConflict s1 agent (a / 64) (byteMask a n) else none with
        | some _ => .error ({ code := 0x20, addr := a / 64 * 64 }, s1)
        | none => match unitLine s1 coherent a with
          | none => unitWaits s
          | some s2 =>
            let (bad, s3) := readProtected s2 a n
            if bad.isSome then .error ({ code := 0x29 }, s3) else .ok (s3.mem.readN a n, s3)

/-- Such a reading by a coherent read at the home. -/
def readUnit (s : State) (die : Nat) (agent : Agent) (a n : Nat) : URes (List Byte × State) := readUnitAs true s die agent a n

/-- The tile rule for a record that a unit reads (R76, R80). -/
def unitTile (s : State) (a n : Nat) : URes State :=
  match tileRule s [(memLoc a, n)] .load 0 with
  | .ok s1 => .ok s1
  | .error (.trap t) => .error (t, s)
  | .error _ => unitWaits s

/-- Bytes of one sector with the pending bytes of a run's copy laid over them (R406). -/
def runBytes (s : State) (run : Option (Nat × Nat)) (a : Nat) (bs : List Byte) : List Byte :=
  match run with
  | none => bs
  | some (d, c) => sliceBytes (overlay s (.run d c) (a / 64) (sectorBytes (a % 64) bs)) (a % 64) bs.length

/-- A 64-byte record read in an address space, by a copy of a redundant run if so (R357, R358, R406). -/
def readRecord (s : State) (sp : Space) (run : Option (Nat × Nat)) (va : Nat) : URes (BitVec 512 × State) := do
  let (bs, s1) ← (chunks va 64).foldlM (fun (acc : List Byte × State) c => do
    let (p, s1) ← translateIn acc.2 sp .load .own (c.1 % 2 ^ 64) c.2 0
    match p.loc.mem? with
    | none => .error ({ code := 6, addr := c.1 }, s1)
    | some a => do
      let s2 ← unitTile s1 a c.2
      let (bs, s3) ← readUnit s2 sp.die (.engine sp.die) a c.2
      .ok (acc.1 ++ runBytes s3 run a bs, s3)) ([], s)
  .ok (BitVec.ofNat 512 (bytesToNat bs), s1)

/-- The address space of a graph (R357). -/
def spaceOfGraph (die asid troot : Nat) : Space := { die := die, asid := asid, root := troot * 4096, sys := false }

/-! ## GSUB -/

/-- A graph descriptor's field (R357). -/
def descFld (b : BitVec 512) (lo w : Nat) : Nat := fld b.toNat lo w

/-- A descriptor that keeps R357 and the order of its code region (R358). -/
def descOk (b : BitVec 512) : Bool :=
  descFld b 0 6 == 0 && descFld b 48 13 != 0 && decide (descFld b 48 13 ≤ 4096) && decide (descFld b 61 3 ≤ 5)
    && descFld b 80 48 == 0 && descFld b 128 12 == 0 && descFld b 176 16 == 0 && descFld b 240 16 == 0
    && descFld b 304 16 == 0 && descFld b 320 3 == 0 && descFld b 368 16 == 0 && !bit b.toNat 447
    && descFld b 448 64 == 0 && decide (descFld b 192 48 < descFld b 256 48)

/-- Whether the edges of a graph form no cycle: records without unremoved predecessors are removed, round by round. -/
def acyclic : Nat → List Nat → List (List Nat) → Bool
  | 0, live, _ => live.isEmpty
  | f + 1, live, succ =>
    let free := live.filter fun i => live.all fun j => !(succ.getD j []).contains i
    if live.isEmpty then true
    else if free.isEmpty then false
    else acyclic f (live.filter fun i => !free.contains i) succ

/-- Status 13 for the records of a graph (R358). -/
def recordsOk (s : State) (home : Nat) (sys : Bool) (rs : List (BitVec 512)) : Bool :=
  let n := rs.length
  let succ := rs.map nodeSucc
  rs.all (fun b => !nodeReserved b && !nodeIllegal b sys && (nodeSucc b).all (fun i => decide (i < n))
      && (nodeKind b != 3 || decide (nodeFld b 192 33 ≤ 2 ^ 32))
      && (nodeCrew b == 0 || (SMap.find? (s.die (nodeDie b home)).crews (nodeCrew b)).isSome))
    && rs.zipIdx.all (fun p => nodeDcnt p.1 == (succ.flatten.filter (· == p.2)).length)
    && acyclic n (List.range n) succ

/-- Status 12 for the crews of a graph, with the members entered before (R358). -/
def crewsOk (s : State) (home : Nat) (rs : List (BitVec 512)) : Bool :=
  rs.all fun b =>
    let k := nodeCrew b
    if k = 0 then true
    else
      let ms := rs.filter fun x => nodeCrew x == k
      let die := nodeDie b home
      let all := ms ++ ((s.die die).pool.filter fun p => nodeCrew p.2.bits == k).map fun p => p.2.bits
      ms.all (fun x => nodeDie x home == die) && crewHasRoom s die k ms.length
        && decide ((all.map fun x => if nodeKind x = 1 then (8 : Nat) else 1).sum ≤ 640)
        && decide ((all.filter fun x => nodeKind x == 1).length ≤ 20)

/-- A die that takes no new nodes (R420). -/
def dieRefusesNodes (s : State) (die : Nat) : Bool := dieOut s die

/-- The entries that a graph's records would take, in record order, or none where a die lacks them (status 11, R358). -/
def allotEntries (s : State) (home : Nat) : List (BitVec 512) → List Nat → Option (List Nat)
  | [], _ => some []
  | b :: bs, used =>
    let die := nodeDie b home
    if dieRefusesNodes s die then none
    else match (List.range Config.poolSize).find? fun e =>
        (SMap.find? (s.die die).pool e).isNone && !used.contains (nodeNumber die e) with
      | none => none
      | some e => (allotEntries s home bs (nodeNumber die e :: used)).map fun r => nodeNumber die e :: r

/-- The physical place of a completion word, translated as a store of type OWN (R356, R358, R440). -/
def cwPlace (s : State) (sp : Space) (va : Nat) : URes (Nat × State) :=
  (translateIn s sp .store .own va 8 0).map fun p => (p.1.loc.key, p.2)

/-- The graph's records, read in its address space. -/
def readRecords (s : State) (sp : Space) (run : Option (Nat × Nat)) (va n : Nat) : URes (List (BitVec 512) × State) :=
  (List.range n).foldlM (fun (acc : List (BitVec 512) × State) i => do
    let (b, s1) ← readRecord acc.2 sp run (va + 64 * i)
    .ok (acc.1 ++ [b], s1)) ([], s)

/-- The completion-word places of the records, none for those without one. -/
def readCws (s : State) (sp : Space) (rs : List (BitVec 512)) : URes (List (Option Nat) × State) :=
  rs.foldlM (fun (acc : List (Option Nat) × State) b =>
    if nodeCw b then do
      let (a, s1) ← cwPlace acc.2 sp (nodeCwaddr b)
      .ok (acc.1 ++ [some a], s1)
    else .ok (acc.1 ++ [none], acc.2)) ([], s)

/-- What submits a graph: its die, whether system instructions are enabled there, and the space it may name without them. -/
structure Submitter where
  die : Nat
  sys : Bool
  asid : Nat := 0
  troot : Nat := 0
  run : Option (Nat × Nat) := none

/-- A record that runs on the die of its copy, whatever die it names (R406). -/
def homeRecord (b : BitVec 512) : BitVec 512 := BitVec.ofNat 512 (setFld b.toNat 28 4 15)

/-- A graph submitted for an operation: its status when it is refused, or the state with it entered (R358). Faults of reading
are reported first: NCNT records are read at NODES, and the completion words translated, whatever the descriptor holds. 0x100 is no
status: the reading must wait. -/
def submitGraph (s : State) (by_ : Submitter) (b : BitVec 512) (op : Nat) (dest : Dest) : Nat × State :=
  let asid := descFld b 64 16
  let troot := descFld b 140 36
  let sp := spaceOfGraph by_.die asid troot
  let n := descFld b 48 13
  let own := by_.sys || (asid == by_.asid && troot == by_.troot)
  let read : URes (List (BitVec 512) × List (Option Nat) × Option Nat × State) := do
    let (rs0, s1) ← readRecords s sp by_.run (descFld b 0 48) n
    let rs := if by_.run.isSome then rs0.map homeRecord else rs0
    let (cws, s2) ← readCws s1 sp rs
    if descFld b 320 48 = 0 then .ok (rs, cws, none, s2)
    else do
      let (a, s3) ← cwPlace s2 sp (descFld b 320 48)
      .ok (rs, cws, some a, s3)
  match read with
  | .error (t, s1) => (0x100 + t.code, s1)
  | .ok (rs, cws, gcw, s1) =>
    if !descOk b || !own || !recordsOk s1 by_.die by_.sys rs then (13, s1)
    else if !crewsOk s1 by_.die rs then (12, s1)
    else match allotEntries s1 by_.die rs [] with
      | none => (11, s1)
      | some ns =>
        let (g, s2) := newOp s1
        let base := s2.nextOp
        let x : Graph := {
          die := by_.die, asid := asid, troot := troot, codeBase := descFld b 192 48, codeLim := descFld b 256 48,
          cwpa := gcw, cwseq := descFld b 384 64, op := op, dest := dest, run := by_.run }
        let s3 := { s2 with nextOp := base + rs.length, graphs := SMap.put s2.graphs g x }
        let s4 := (rs.zip (ns.zip cws)).zipIdx.foldl (fun s p =>
          let ((b, m, cw), i) := p
          let succ := (nodeSucc b).map fun j => (ns.getD j 0, base + j)
          enterNode s m b g (nodeDcnt b) succ cw (base + i)) s3
        (0, s4)

end Sys2Proof.Machine
end

