-- ==== Sys2Proof/Machine/Engine.lean ====
section
/-! DEFINITION. Engine operations: copies, one-sided operations, triggers and counters; their checks, reads, arrivals,
commits and completion (R81, R118, R121, R126 to R129, R259 to R264, R408 to R413). -/

namespace Sys2Proof.Machine
open Sys2Proof

/-! ## Places -/

/-- The bank-local pieces of a run of region-form DRAM addresses, a row of 1 KiB at most each (R28, R30). -/
def dramPiecesAux (s : State) : Nat → Nat → Nat → Option (List (Nat × Nat))
  | 0, _, _ => some []
  | f + 1, pa, n =>
    if n = 0 then some []
    else
      let k := min n (1024 - pa % 1024)
      match dramLoc s pa with
      | none => none
      | some a => (dramPiecesAux s f (pa + k) (n - k)).map fun r => (a, k) :: r

/-- The bank-local pieces of n bytes from a region-form address on. -/
def dramPieces (s : State) (pa n : Nat) : Option (List (Nat × Nat)) := dramPiecesAux s (n / 1024 + 2) pa n

/-- The pieces that an engine's operand names in an address space, or at region-form DRAM addresses (R259, R411). -/
def enginePieces (s : State) (sp : Option Space) (k : AccKind) (req : ReqType) (va n : Nat) :
    URes (List (Nat × Nat) × State) :=
  match sp with
  | none => match dramPieces s va n with
    | some ps => .ok (ps, s)
    | none => .error ({ code := 7, addr := va }, s)
  | some sp =>
    (pagePieces (va % 2 ^ 64) n).foldlM (fun (acc : List (Nat × Nat) × State) p => do
      let (x, s1) ← translateIn acc.2 sp k req (p.1 % 2 ^ 64) p.2 0
      match x.loc with
      | .dram _ => match dramPieces s1 x.pa p.2 with
        | some ps => .ok (acc.1 ++ ps, s1)
        | none => .error ({ code := 7, addr := p.1 }, s1)
      | l => .ok (acc.1 ++ [(l.key, p.2)], s1)) ([], s)

/-- A destination in device registers, debug windows or network windows (R261), as far as its address translates. -/
def destIllegal (s : State) (sp : Space) (va n : Nat) : Bool :=
  (pagePieces (va % 2 ^ 64) (max n 1)).any fun p =>
    let a := p.1 % 2 ^ 64
    if 2 ^ 48 ≤ a ∨ fld a 40 8 = 0xFF then false
    else
      let pa := if sp.raw then some a else match lookWalk s sp.die sp.root a with
        | .leaf log2 oa _ => some (oa + a % 2 ^ log2)
        | _ => none
      match pa with
      | none => false
      | some pa => regionOf pa == 2 || regionOf pa == 3 || bit pa 47

/-- The place of a piece. -/
def keyLoc (a : Nat) : Loc :=
  if bit a 47 then .net (fld a 40 7) (fld a 0 40) else if regionOf a = 0 then .dram a else if regionOf a = 1 then .vault a
  else if regionOf a = 2 then .dev a else .dbg a

/-- A piece of memory, DRAM or vault. -/
def inMemory (p : Nat × Nat) : Bool := regionOf p.1 == 0 || regionOf p.1 == 1

/-- The tile that pieces lie in: none for bytes outside tiles, an error for bytes that touch two tiles or a tile and other
bytes (R76, R81). -/
def piecesTile (s : State) (ps : List (Nat × Nat)) : Except Unit (Option (Nat × Nat)) :=
  let at_ := ps.map fun p => if regionOf p.1 = 1 then (vaultNo p.1, tilePlace s p.1 p.2) else (0, TilePlace.plain)
  if at_.all fun t => t.2 == .plain then .ok none
  else match at_ with
    | (v, .inTile e) :: _ => if at_.all fun t => t == (v, .inTile e) then .ok (some (v, e)) else .error ()
    | _ => .error ()

/-- Bytes of a range of a piece list: the pieces from an offset on, n bytes. -/
def slicePieces : List (Nat × Nat) → Nat → Nat → List (Nat × Nat)
  | [], _, _ => []
  | (a, k) :: ps, off, n =>
    if n = 0 then []
    else if k ≤ off then slicePieces ps (off - k) n
    else let m := min (k - off) n; (a + off, m) :: slicePieces ps 0 (n - m)

/-! ## Reads and commits -/

/-- A place in memory of some pieces that holds requests back (R56, R62, R68, R69, R417). -/
def piecesHeld (s : State) (k : AccKind) (ps : List (Nat × Nat)) : Option State :=
  ps.findSome? fun p => if inMemory p then (chunks p.1 p.2).findSome? fun c => heldAt s k (keyLoc c.1) else none

/-- Some pieces have become promotion slots (R29, R56). -/
def piecesGone (s : State) (ps : List (Nat × Nat)) : Bool := ps.any fun p => (chunks p.1 p.2).any fun c => rowGone s (c.1 / 64)

/-- Sources read by an engine of a die, for a copy of a redundant run if so: a status, 0 where the read must wait, or the bytes
(R56, R112, R126, R259, R399, R406, R409). -/
def engineRead (io : IoOps) (s : State) (die : Nat) (req : ReqType) (run : Option (Nat × Nat)) (ps : List (Nat × Nat)) :
    Except (Nat × State) (List Byte × State) :=
  match piecesHeld s .load ps with
  | some s1 => .error (0, s1)
  | none => if piecesGone s ps then .error (0x107, s) else ps.foldlM (fun (acc : List Byte × State) p =>
    if !inMemory p then
      match keyLoc p.1 with
      | .net w off =>
        let st := windowStatus s w
        if st ≠ 0 then .error (st, acc.2)
        else
          let (bs, s1) := drawBytes { acc.2 with netOut := acc.2.netOut ++ [.read (remoteOf acc.2 w off) p.2] } p.2
          .ok (acc.1 ++ bs, s1)
      | _ => let (bs, s1) := io.rd acc.2 p.1 p.2; .ok (acc.1 ++ bs, s1)
    else
      (chunks p.1 p.2).foldlM (fun (acc : List Byte × State) c =>
        match readUnitAs (req != .unc) acc.2 die (.engine die) c.1 c.2 with
        | .ok (bs, s1) => .ok (acc.1 ++ runBytes s1 run c.1 bs, s1)
        | .error (t, s1) => .error (if t.code = 0 then 0 else if t.code = 0x20 then 2 else 0x100 + t.code,
            if t.code = 0 then withWakes s s1 else s1)) acc) ([], s)

/-- Each byte as it was at the start of an operation or as it is now, by free choices where they differ (R126). -/
def pickBytes (s : State) (old new : List Byte) : List Byte × State :=
  if old = new ∨ old.length ≠ new.length then (new, s)
  else
    let (m, s1) := drawBits s new.length
    (mergeBytes m.toNat old new, s1)

/-- Bytes put into the pending sectors of an operation: none when no room is left (R119, R127). -/
def pendPieces (s : State) (op : Nat) (ps : List (Nat × Nat)) (bytes : List Byte) : Option State × State :=
  let (r, _) := ps.foldl (fun (acc : (Option State × State) × List Byte) p =>
    (chunks p.1 p.2).foldl (fun acc c =>
      match acc.1 with
      | (some s, _) =>
        (pendAdd s (.op op) (c.1 / 64) (byteMask c.1 c.2) (sectorBytes (c.1 % 64) (acc.2.take c.2)), acc.2.drop c.2)
      | r => (r, acc.2)) acc) ((some s, s), bytes)
  r

/-- One pending sector committed (R121): written V bytes sent home, owners recalled, every copy invalidated, the bytes published
as a WT store publishes them, and the committed bytes out of the race records. None while its home must wait (R95), or its bank
or die holds it back (R56, R62, R68). DEDUCED, log entry 37. A bank whose step is in flood, in move or in publish takes the
bytes: DESIGN CHOICE, log entry 75. -/
def commitSector (s : State) (p : Pend) : Option State :=
  let s1 := flushAllV (serveHome s p.sector) p.sector
  if rowGone s p.sector then some s
  else if homeWaits s1 p.sector || (heldAt s .store (sectorLoc p.sector)).isSome then none
  else
    let s2 := dropCopies s1 none p.sector
    (if regionOf (p.sector * 64) = 1 then some s2 else l2Touch s2 (p.sector / 4) true true).map fun s3 =>
      raceStrip (storeHome s3 p.sector p.mask p.bytes) p.sector p.mask

/-- What a commit that must wait leaves: the parked dies of its sectors begin to return (R62). -/
def commitWaits (s : State) (f : Owner → Bool) : State :=
  s.pend.foldl (fun s p => if f p.owner then (heldAt s .store (sectorLoc p.sector)).getD s else s) s

/-- The pending sectors of an owner committed together (R121): none while one of them must wait. -/
def commitOwner (s : State) (f : Owner → Bool) : Option State :=
  let mine := s.pend.filter fun p => f p.owner
  mine.foldlM commitSector { s with pend := s.pend.filter fun p => !f p.owner }

/-- A commit that race records forbid: a destination byte in a record that is open, or closed only at scopes that do not
cover the engine (R127). -/
def commitRaces (s : State) (op die : Nat) : Bool :=
  s.pend.any fun p => p.owner == .op op && (raceConflict s (.engine die) p.sector p.mask).isSome

/-- Some destination byte lies in a rank region in flood, in move or in publish (R69). -/
def destLive (s : State) (ps : List (Nat × Nat)) : Bool := ps.any fun p => regionOf p.1 == 0 && bankLive s (bankKey p.1)

/-! ## Starting -/

/-- The lowest-numbered free copy engine of a die (R261). -/
def freeEngine (s : State) (die : Nat) : Option Nat :=
  (List.range 16).find? fun k => !s.ops.any fun p => p.2.kind == .copy && p.2.die == die && p.2.engine == k

/-- An operation replaced. -/
def putOp (s : State) (op : Nat) (o : EngOp) : State := { s with ops := SMap.put s.ops op o }

/-- An operation whose status is known and which waits for its completion. -/
def failOp (s : State) (op : Nat) (o : EngOp) (status : Nat) : State :=
  putOp (pendDrop s fun w => w == .op op) op { o with stage := 3, status := status }

/-- The peer's answer to a message: accepted, or refused with status 9, by a free choice (R260, R262). -/
def peerAnswer (s : State) : Nat × State := let (c, s1) := drawChoice s 2; (if c = 0 then 0 else 9, s1)

/-- The source read at the start of the movement, a GET's request sent and answered, and the room for the destination taken
(R126, R127, R262): a copy of a redundant run that finds none fails with its run (R406). -/
def beginMove (io : IoOps) (s : State) (op : Nat) (o : EngOp) : State :=
  match engineRead io s o.die o.req o.run o.src with
  | .error (st, s1) => if st = 0 then putOp s1 op { o with stage := 0 } else failOp s1 op o st
  | .ok (bs0, s1) =>
    let (st, s2) := if o.kind = .get then peerAnswer { s1 with netOut := s1.netOut ++ [.get o.io o.ep o.raddr o.total] }
      else (0, s1)
    let bs := if o.kind = .inbound then o.snap else bs0
    let o1 := { o with snap := bs, stage := 2 }
    if st ≠ 0 then failOp s2 op o1 st
    else if o.tileDst.isSome || o.dst.isEmpty then putOp s2 op o1
    else
      let room := if o.kind = .get then List.replicate o.total 0#8 else bs
      if piecesGone s2 o.dst then failOp s2 op o 0x107
      else match pendPieces s2 op o.dst room with
        | (some s3, _) => putOp s3 op o1
        | (none, s3) => failOp (match o.run with | some r => failRun s3 r | none => s3) op o 3

/-- An operation moves on through its tile starts: the source's load or drain start, then the destination start (R79 to
R81). -/
def advanceOp (io : IoOps) (s : State) (op : Nat) (o : EngOp) : State :=
  let src : Option (EngOp × State) := match o.tileSrc with
    | none => some (o, s)
    | some (v, e) =>
      if o.srcStarted then some (o, s)
      else match tileStep (s.tile (v * 128 + e)) (if o.drain then .drainStart else .load) with
        | .ok t => some ({ o with srcStarted := true }, changeTile s v e t)
        | .waits => none
        | _ => some ({ o with stage := 3, status := 5 }, s)
  if o.freed then failOp s op o 5
  else match src with
  | none => putOp s op { o with stage := 0 }
  | some (o1, s1) =>
    if o1.stage = 3 then failOp s1 op o1 o1.status
    else match o1.tileDst with
      | none => beginMove io s1 op o1
      | some (v, e) =>
        if o1.dstStarted then beginMove io s1 op o1
        else match tileStep (s1.tile (v * 128 + e)) (.destStart o1.total) with
          | .ok t => beginMove io (changeTile s1 v e t) op { o1 with dstStarted := true }
          | .waits => putOp s1 op { o1 with stage := 1 }
          | _ => failOp s1 op o1 5

/-- The starting checks of an operation on places found: fences, tiles, rank regions and other destinations (R69, R81, R128,
R259, R261, R377). A status when one fails. -/
def startChecks (s : State) (o : EngOp) : Except Nat (Option (Nat × Nat) × Option (Nat × Nat)) :=
  if (o.src ++ o.dst).any fun p => refusesUnit s o.die (keyLoc p.1) then .error 0x12A
  else match piecesTile s o.src, piecesTile s o.dst with
    | .ok ts, .ok td =>
      if o.drain && ts.isNone then .error 5
      else if o.total = 0 then .ok (none, none)
      else if destLive s o.dst || o.dst.any fun p => claimedBy s none p.1 p.2 then .error 2
      else
        let bad := (match td with
          | some (v, e) => (match tileStep (s.tile (v * 128 + e)) (.destStart o.total) with
              | .ok _ | .waits => false
              | _ => true)
          | none => false) || (match ts with
          | some (v, e) => (match tileStep (s.tile (v * 128 + e)) (if o.drain then .drainStart else .load) with
              | .ok _ | .waits => false
              | _ => true)
          | none => false)
        if bad then .error 5 else .ok (ts, td)
    | _, _ => .error 5

/-- An operation started with its places known: one of no bytes has nothing to move but its signal (R261, R262). -/
def launch (io : IoOps) (s : State) (op : Nat) (o : EngOp) : State :=
  match startChecks s o with
  | .error st => putOp s op { o with stage := 3, status := st }
  | .ok (ts, td) =>
    if o.total = 0 then
      (if o.sig.isSome || o.kind = .inbound then putOp s op { o with stage := 2, src := [] } else putOp s op { o with stage := 3, status := 0 })
    else advanceOp io s op { o with tileSrc := ts, tileDst := td, claims := o.dst, stage := 0 }

/-- A copy as its starter describes it: rows of destination, source and length (R261). -/
structure CopyReq where
  die : Nat
  sp : Option Space
  cid : Nat
  scope : Scope
  req : ReqType
  drain : Bool
  rows : List (Nat × Nat × Nat)
  run : Option (Nat × Nat) := none

/-- The places of a copy's rows, source and destination of each in turn; rows of no bytes are checked at the byte that each
address names (R261). DEDUCED, log entry 37. -/
def copyPlaces (s : State) (r : CopyReq) : URes (List (Nat × Nat) × List (Nat × Nat) × State) :=
  r.rows.foldlM (fun (acc : List (Nat × Nat) × List (Nat × Nat) × State) row => do
    let (d, a, n) := row
    let (ps, s1) ← enginePieces acc.2.2 r.sp .load r.req a (max n 1)
    let (pd, s2) ← enginePieces s1 r.sp .store .wt d (max n 1)
    .ok (acc.1 ++ ps, acc.2.1 ++ pd, s2)) ([], [], s)

/-- A copy starts on an engine (R126, R259, R261); the other case is a start that must wait for its translation. -/
def startCopy (io : IoOps) (s : State) (op engine : Nat) (r : CopyReq) (dest : Dest) : Except State State :=
  let o : EngOp := { kind := .copy, die := r.die, engine := engine, cid := r.cid, req := r.req, scope := r.scope,
                     drain := r.drain, dest := dest, run := r.run, total := (r.rows.map fun x => x.2.2).foldl (· + ·) 0 }
  match copyPlaces s r with
  | .error (t, s1) =>
    if t.code = 0 then .error s1 else .ok (putOp s1 op { o with stage := 3, status := 0x100 + t.code })
  | .ok (ps, pd, s1) => .ok (launch io s1 op { o with src := ps, dst := pd })

/-! ## One-sided operations -/

/-- The I/O die on a die's side (R409). -/
def sideIo (die : Nat) : Nat := if die % 6 < 3 then 0 else 1

/-- The status with which an operation through an endpoint cannot start or go on (R260, R409, R412, R413). -/
def peerStatus (s : State) (die io ep : Nat) (det : Bool) : Nat :=
  if !endpointOk s io ep then 9
  else if linkFailed s io ep det then 8
  else if noRoute s die (12 + io) then 0x12A
  else 0

/-- A PUT, GET or RADD starts (R262): the local operand of PUT and GET is translated as COPY's is, and the start may have to
wait for it. -/
def startPeer (ioo : IoOps) (s : State) (op : Nat) (kind : OpKind) (die cid : Nat) (sp : Space) (scope : Scope)
    (req : ReqType) (det : Bool) (ep raddr local_ n : Nat) (sig : Option Nat) (data : List Byte) (dest : Dest) :
    Except State State :=
  let io := sideIo die
  let o : EngOp := { kind := kind, die := die, cid := cid, det := det, req := req, scope := scope, dest := dest, io := io,
                     ep := ep, raddr := raddr, sig := sig, total := n, snap := data }
  let places : URes (EngOp × State) := match kind with
    | .put => (enginePieces s (some sp) .load req local_ (max n 1)).map fun p => ({ o with src := p.1 }, p.2)
    | .get => (enginePieces s (some sp) .store .wt local_ (max n 1)).map fun p => ({ o with dst := p.1 }, p.2)
    | _ => .ok (o, s)
  match places with
  | .error (t, s1) =>
    if t.code = 0 then .error s1 else .ok (putOp s1 op { o with stage := 3, status := 0x100 + t.code })
  | .ok (o1, s1) =>
    let st := peerStatus s1 die io ep det
    .ok (if st ≠ 0 then putOp s1 op { o1 with stage := 3, status := st }
      else if kind = .radd then putOp s1 op { o1 with stage := 2 }
      else launch ioo s1 op o1)

/-! ## Counters and triggers -/

/-- Fields of a trigger record (R264). -/
def trigFld (b : BitVec 512) (lo w : Nat) : Nat := fld b.toNat lo w

/-- A counter of a die changed (R263). -/
def setCounter (s : State) (die c : Nat) (v : Word) : State := s.modDie die fun d => { d with counters := SMap.put d.counters c v }

/-- A counter of a die. -/
def counterOf (s : State) (die c : Nat) : Word := SMap.getD (s.die die).counters c 0#64

/-- A trigger leaves the table of its die. -/
def dropTrigger (s : State) (die idx : Nat) : State :=
  s.modDie die fun d => { d with triggers := d.triggers.filter fun t => t.1 != idx }

/-- A fired trigger starts its operation as the matching instruction of its context would (R264): COPY waits where no engine
is free. The other case is a start that must wait for its translation. -/
def fireTrigger (io : IoOps) (s : State) (die idx : Nat) (t : Trigger) : Except State State :=
  let b := t.bits
  let sc := Scope.ofCode (BitVec.ofNat 3 (trigFld b 25 3))
  let len := trigFld b 256 64
  let dst := trigFld b 128 64
  let src := trigFld b 192 64
  let ep := trigFld b 32 16
  let dest := Dest.trigger die idx
  let bad := fun (s : State) => Except.ok
    (putOp s t.op { kind := .copy, die := die, cid := t.cid, scope := sc, dest := dest, stage := 3, status := 0x112 })
  match trigFld b 0 8 with
  | 1 =>
    if 2 ^ 32 < len ∨ destIllegal s t.sp dst len then bad s
    else
      match freeEngine s die with
      | some k => startCopy io s t.op k { die := die, sp := some t.sp, cid := t.cid, scope := sc, req := t.req, drain := false,
                                          rows := [(dst, src, len)] } dest
      | none => .ok (s.modDie die fun d =>
          { d with waiting := d.waiting ++ [{ op := t.op, sp := some t.sp, cid := t.cid, req := t.req, scope := sc, dst := dst,
                                              src := src, len := len, dest := dest }] })
  | 2 =>
    if 2 ^ 32 < len then bad s
    else startPeer io s t.op .put die t.cid t.sp sc t.req t.det ep dst src len
      (if trigFld b 24 1 = 1 then some (trigFld b 320 64) else none) [] dest
  | 3 =>
    if 2 ^ 32 < len ∨ destIllegal s t.sp dst len then bad s
    else startPeer io s t.op .get die t.cid t.sp sc t.req t.det ep src dst len none [] dest
  | 4 => startPeer io s t.op .radd die t.cid t.sp sc t.req t.det ep dst 0 8 none (natToBytes 8 src) dest
  | _ => .ok s

/-- The triggers of a die that its counters satisfy fire, in the order in which they were armed (R263, R264). One that only
adds to a counter completes at once; one whose start must wait is tried again later, before those after it. The fuel is the
number of entries. -/
def fireAll (io : IoOps) : Nat → State → Nat → State
  | 0, s, _ => s
  | f + 1, s, die =>
    match (s.die die).triggers.find? fun t => !t.2.fired
        && decide (trigFld t.2.bits 64 64 ≤ (counterOf s die (trigFld t.2.bits 8 8)).toNat) with
    | none => s
    | some (idx, t) =>
      if trigFld t.bits 0 8 = 5 then
        let c := trigFld t.bits 16 8
        let s1 := setCounter (dropTrigger s die idx) die c (counterOf s die c + wd (trigFld t.bits 384 64))
        fireAll io f (deliverTo s1 die t.op 0 (Scope.ofCode (BitVec.ofNat 3 (trigFld t.bits 25 3)))) die
      else
        let s1 := s.modDie die fun d =>
          { d with triggers := d.triggers.map fun x => if x.1 = idx then (idx, { x.2 with fired := true }) else x }
        match fireTrigger io s1 die idx t with
        | .ok s2 => fireAll io f s2 die
        | .error s2 => withWakes s s2

/-- A counter set, and the triggers that this satisfies fired (R263). -/
def changeCounter (io : IoOps) (s : State) (die c : Nat) (v : Word) : State :=
  fireAll io 1024 (setCounter s die c v) die

/-! ## Completion -/

/-- The tiles of an operation told of its end: a fill abort, and a drain end (R79, R80). Of an entry that was freed and declared again
meanwhile, the new declaration's fill is aborted: DESIGN CHOICE, log entry 79. -/
def endTiles (s : State) (o : EngOp) (status : Nat) : State :=
  let s1 := match o.tileDst with
    | some (v, e) =>
      if o.dstStarted && status != 0 then
        (match tileStep (s.tile (v * 128 + e)) .fillAbort with | .ok t => changeTile s v e t | _ => s)
      else s
    | none => s
  match o.tileSrc with
  | some (v, e) =>
    if o.drain && o.srcStarted then
      (match tileStep (s1.tile (v * 128 + e)) (.drainEnd (status == 0)) with | .ok t => changeTile s1 v e t | _ => s1)
    else s1
  | none => s1

/-- An operation ends with a status: its pending sectors are gone, its tiles are told, its engine is free, and its status
goes to its handle, node, command, trigger or sender (R121, R129, R264). -/
def finishOp (io : IoOps) (s : State) (op : Nat) (o : EngOp) (status : Nat) : State :=
  let s1 := endTiles (pendDrop s fun w => w == .op op) o status
  let s2 := { s1 with ops := SMap.del s1.ops op }
  let s3 := match o.dest with
    | .none | .trigger _ _ => deliverTo s2 o.die op status o.scope
    | _ => s2
  match o.dest with
  | .node die e => finishNode s3 (nodeNumber die e) status
  | .tranar i q e => tranarDone s3 i q e status
  | .trigger die idx =>
    match (s3.die die).triggers.find? fun t => t.1 == idx with
    | none => s3
    | some (_, t) =>
      let s4 := dropTrigger s3 die idx
      if status = 0 then
        let c := trigFld t.bits 16 8
        changeCounter io s4 die c (counterOf s4 die c + wd (trigFld t.bits 384 64))
      else s4
  | .inbound i =>
    let s4 := { s3 with netOut := s3.netOut ++ [.response i (status == 0) (match o.sig with
        | some v => if status = 0 then natToBytes o.total v else []
        | none => [])] }
    if status = 0 then s4 else countIo s4 i ctrInbref 1
  | _ => s3

/-- The bytes that an operation moves, from its start and from now (R126), or the status of a source that fails; of an inbound atomic
the old ones. Sources are read at the start and again at the end, so that a store not released by then always ends the operation
with status race: DESIGN CHOICE, log entry 80. -/
def currentBytes (io : IoOps) (s : State) (o : EngOp) : Except (Nat × State) (List Byte × State) :=
  match o.kind with
  | .inbound => match o.atom with
    | none => .ok (o.snap, s)
    | some _ => engineRead io s o.die .unc none o.dst
  | .radd => .ok (o.snap, s)
  | .get => let (bs, s1) := drawBytes s o.total; .ok (bs, s1)
  | .copy | .put =>
    match engineRead io s o.die o.req o.run o.src with
    | .error e => .error e
    | .ok (bs, s1) => .ok (pickBytes s1 o.snap bs)

/-- The new value of an atomic of size bytes (R408): 0 add, 1 swap, 2 compare-and-swap, which stores b where the old value is
a. DEDUCED, log entry 49. -/
def inboundAtomic (size op a b old : Nat) : Nat :=
  let m := 2 ^ (8 * size)
  match op with
  | 0 => (old + a) % m
  | 1 => a % m
  | _ => if old = a % m then b % m else old

/-- An inbound atomic that has found the old bytes, which its answer gives, and the bytes that it writes (R118, R408); any other
operation writes what it moves. -/
def atomStep (o : EngOp) (bs : List Byte) : EngOp × List Byte :=
  match o.atom with
  | none => (o, bs)
  | some (k, a, b) =>
    ({ o with sig := some (bytesToNat bs) }, natToBytes o.total (inboundAtomic o.total k a b (bytesToNat bs)))

/-- The pending sectors of an operation become those of the copy of a run that it belongs to (R406). -/
def giveToRun (s : State) (op : Nat) (r : Nat × Nat) : State :=
  let mine := s.pend.filter fun p => p.owner == .op op
  mine.foldl (fun s p => match pendAdd s (.run r.1 r.2) p.sector p.mask p.bytes with
    | (some s1, _) => s1
    | (none, s1) => failRun s1 r) (pendDrop s fun w => w == .op op)

/-- The end of the movement of an operation with its bytes: sent to the peer, or committed (R127 to R129, R262). None while a
home must wait (R95). -/
def endMove (s : State) (op : Nat) (o : EngOp) (bs : List Byte) : Option (Nat × State) :=
  match o.kind with
  | .put =>
    let msgs := (if bs.isEmpty then [] else [NetMsg.put o.io o.ep o.raddr bs]) ++ (match o.sig with
      | some a => [.radd o.io o.ep a (natToBytes 8 1)]
      | none => [])
    some (peerAnswer { s with netOut := s.netOut ++ msgs })
  | .radd => some (peerAnswer { s with netOut := s.netOut ++ [.radd o.io o.ep o.raddr bs] })
  | .copy | .get | .inbound =>
    if o.tileDst.isSome then some (0, s)
    else if destLive s o.dst then some (2, s)
    else
      let s2 := match pendPieces s op o.dst bs with | (some s2, _) => s2 | (none, s2) => s2
      if o.kind != .inbound && commitRaces s2 op o.die then some (2, s2)
      else match o.run with
        | some r => some (0, giveToRun s2 op r)
        | none => (commitOwner s2 fun w => w == .op op).map fun s3 => (0, s3)

/-- An inbound operation with ordered delivery that arrived before another and is still in progress (R118). -/
def orderHolds (s : State) (op : Nat) (o : EngOp) : Bool :=
  o.ord && s.ops.any fun p => decide (p.1 < op) && p.2.kind == .inbound && p.2.io == o.io && p.2.ord

/-- The end of an operation that has moved everything, or whose status is known (R81, R129, R396). It waits while its places or
earlier ordered operations hold it. -/
def completeOp (io : IoOps) (s : State) (op : Nat) (o : EngOp) : State :=
  if o.stage = 3 then finishOp io s op o o.status
  else if o.stage < 2 || (o.tileDst.isSome && decide (o.done < o.total)) || orderHolds s op o then s
  else
    let link := if o.kind = .put || o.kind = .get || o.kind = .radd then peerStatus s o.die o.io o.ep o.det else 0
    if link ≠ 0 then finishOp io s op o link
    else if o.freed then finishOp io s op o 5
    else if o.dst.any fun p => refusesUnit s o.die (keyLoc p.1) then finishOp io s op o 0x12A
    else if o.tileDst.isSome && o.kind != .get then finishOp io s op o 0
    else match piecesHeld s .store o.dst with
      | some s1 => s1
      | none => if piecesGone s o.dst then finishOp io s op o 0x107 else match currentBytes io s o with
        | .error (st, s1) => if st = 0 then s1 else finishOp io s1 op o st
        | .ok (old, s1) =>
          let (o1, bs) := atomStep o old
          match endMove s1 op o1 bs with
          | none => s
          | some (st, s2) => finishOp io s2 op o1 st

/-- Arriving bytes written at their home, or held for the copy of a run (R80, R406). -/
def arriveBytes (s : State) (run : Option (Nat × Nat)) (sector mask : Nat) (bytes : List Byte) : State :=
  match run with
  | none => storeHome s sector mask bytes
  | some r => match pendAdd s (.run r.1 r.2) sector mask bytes with
    | (some s1, _) => s1
    | (none, s1) => failRun s1 r

/-- The next arrival of an operation at its tile: at most 256 bytes of one piece (R80, R81, R396). -/
def arriveOp (io : IoOps) (s : State) (op : Nat) (o : EngOp) (v e : Nat) : State :=
  match slicePieces o.dst o.done (min 256 (o.total - o.done)) with
  | [] => s
  | (a, n) :: _ =>
    if o.freed || (s.tile (v * 128 + e)).st == .free then failOp s op o 5
    else if refusesUnit s o.die (keyLoc a) then failOp s op o 0x12A
    else match tileStep (s.tile (v * 128 + e)) (.arrival n) with
      | .refused t => failOp (s.setTile (v * 128 + e) t) op o 4
      | .ok t =>
        let src : Except (Nat × State) (List Byte × State) := if o.kind = .get then .ok (drawBytes s n)
          else match engineRead io s o.die o.req o.run (slicePieces o.src o.done n) with
            | .error x => .error x
            | .ok (bs, s1) => .ok (pickBytes s1 ((o.snap.drop o.done).take n) bs)
        match (heldAt s .store (keyLoc a)), src with
        | some s1, _ => s1
        | none, .error (st, s1) => if st = 0 then s1 else failOp s1 op o st
        | none, .ok (bs, s1) =>
          let (s2, _) := (chunks a n).foldl (fun (acc : State × List Byte) c =>
            (arriveBytes acc.1 o.run (c.1 / 64) (byteMask c.1 c.2) (sectorBytes (c.1 % 64) (acc.2.take c.2)), acc.2.drop c.2))
              (s1, bs)
          putOp (changeTile s2 v e t) op { o with done := o.done + n }
      | _ => failOp s op o 5

/-- An operation asked to stop: it completes with status 1 unless its status is known (R190). -/
def cancelOp (s : State) (op : Nat) : State :=
  match SMap.find? s.ops op with
  | none => s
  | some o => if o.stage = 3 then s else failOp s op o 1

/-- A copy that waited for an engine starts on one that is free, in the order of waiting (R261). -/
def startWaiting (io : IoOps) (s : State) (die : Nat) : State :=
  match (s.die die).waiting, freeEngine s die with
  | w :: rest, some k =>
    match startCopy io (s.modDie die fun d => { d with waiting := rest }) w.op k
      { die := die, sp := w.sp, cid := w.cid, scope := w.scope, req := w.req, drain := false,
        rows := [(w.dst, w.src, w.len)] } w.dest with
    | .ok s1 => s1
    | .error s1 => withWakes s s1
  | _, _ => s

end Sys2Proof.Machine
end

