-- ==== Sys2Proof/Machine/Packets.lean ====
section
/-! DEFINITION. Fault rings: enabling them and delivering packets and messages (R383, R384). -/

namespace Sys2Proof.Machine
open Sys2Proof

/-- A run of region-form addresses that lies wholly in one DRAM region at addresses valid for its form. -/
def dramRun (s : State) (pa n : Nat) : Bool :=
  (dramPieces s pa n).isSome && regionOf pa == regionOf (pa + n - 1)

/-- A fault ring's registers written: FRBASE, FRCTL and FRRD at offsets 0, 8 and 24; a write that may not set EN is ignored
(R383). -/
def writeRing (s : State) (r : Ring) (off v : Nat) : Ring :=
  match off with
  | 0 => if r.en then r else { r with base := fld v 12 36 * 4096 }
  | 8 =>
    let l := if r.en then r.log2 else fld v 0 4
    if bit v 4 then
      if r.en then r
      else if 6 ≤ l ∧ l ≤ 12 ∧ dramRun s r.base (64 * 2 ^ l) then { r with log2 := l, en := true }
      else r
    else { r with log2 := l, en := false }
  | 24 => { r with rd := v }
  | _ => r

/-- A ring of a die replaced. -/
def setRing (s : State) (die sup : Nat) (r : Ring) : State :=
  s.modDie die fun d => { d with rings := d.rings.set (sup % 2) r (Nat.mod_lt _ (by decide)) }

/-- A ring of a die. -/
def ringAt (s : State) (die sup : Nat) : Ring := (s.die die).rings[sup % 2]'(Nat.mod_lt _ (by decide))

/-- FAULT_RING_ENABLE (R383): a write to FRCTL. -/
def execFaultRingEnable (die sup val : Nat) (s : State) : Host.Outcome State Fault Refusal :=
  .next (setRing s die sup (writeRing s (ringAt s die sup) 8 val))

/-- The RINGWAIT counter (R407). -/
def ctrRingwait : Nat := 0x50

/-- A message arrives for a context at a time: at IDLE within its bound it ends the wait with 0; beyond the bound, or elsewhere, it
is kept (R238). -/
def takeMessage (now : Nat) (c : Ctx) : Ctx :=
  let go := fun (v : Nat) (c : Ctx) => { c with mid := .result v, st := if c.st = .stalled then .ready else c.st }
  if c.mid = .waiting 238 then
    if c.deadline ≠ 0 ∧ c.deadline ≤ now then go 1 { c with message := true } else go 0 c
  else { c with message := true }

/-- A message arrives for a supervisor core: a context at IDLE takes it, the others keep it (R238). -/
def messageArrives (s : State) (core : Nat) : State :=
  (ctxsOf core).foldl (fun s k => s.modCtx k (takeMessage (cycleOf s (dieOf k)))) s

/-- What delivery of a packet meets: its ring cannot take it now, its target refuses it, or it is written (R384). -/
inductive Delivery where
  | waits (s : State)
  | refused (s : State)
  | written (s : State)

/-- A packet written into its ring (R384). -/
def deliver (s : State) (die : Nat) (p : Packet) : Delivery :=
  let r := ringAt s die p.ring
  if !r.en || r.wr == r.rd + 2 ^ r.log2 then .waits s
  else
    match dramLoc s (r.base + 64 * (r.wr % 2 ^ r.log2)) with
    | none => .waits s
    | some a =>
      if refuses s die (.dram a) then .refused s
      else match heldAt s .store (.dram a) with
        | some s1 => .waits s1
        | none =>
          let s1 := serveHome s (a / 64)
          if bankLive s (bankKey a) || claimedBy s none a 64 || homeWaits s1 (a / 64) then .waits s
          else match readSector s1 (a / 64) with
            | (true, s2) => .refused s2
            | (false, s2) =>
              let s3 := raceCover (dropCopies s2 none (a / 64)) (a / 64) (ones 64)
              let s4 := storeHome (l2Refresh s3 (a / 256)) (a / 64) (ones 64) (natToBytes 64 p.bits.toNat)
              .written (messageArrives (setRing s4 die p.ring { r with wr := r.wr + 1 }) (supCore die p.ring))

/-- A packet that was not written: its wait is counted once, and a ring that refuses it is reported once (R384). -/
def notDelivered (s : State) (die : Nat) (p : Packet) (ref : Bool) : State :=
  let s1 := if p.counted then s else countDie s die ctrRingwait 1
  let s2 := if ref && !p.reported then { s1 with netOut := s1.netOut ++ [.report die] } else s1
  s2.modDie die fun d => { d with packets := d.packets.map fun x =>
    if x = p then { x with counted := true, reported := x.reported || ref } else x }

/-- The first packet of each ring, in the order of SEQ, in which a die's packets stand (R384). -/
def heads (ps : List Packet) : List Packet :=
  let first := fun (b : Bool) => ps.find? fun p => (p.ring == 0) == b
  ps.filter fun p => some p == first true || some p == first false

/-- FAULT_PACKET_DELIVERY (R384): the first packet that can be written is; a packet that must wait is counted once, and a
refused ring is reported once. -/
def execFaultPacketDelivery (die : Nat) (s : State) : Host.Outcome State Fault Refusal :=
  let ps := (s.die die).packets
  .next (match (heads ps).findSome? fun p => match deliver s die p with | .written s1 => some (p, s1) | _ => none with
    | some (p, s1) => s1.modDie die fun d => { d with packets := d.packets.erase p }
    | none =>
      (heads ps).foldl (fun s p => match deliver s die p with
        | .waits s1 => notDelivered s1 die p false
        | .refused s1 => notDelivered s1 die p true
        | .written _ => s) s)

end Sys2Proof.Machine
end

