-- ==== Sys2Proof/Machine/Flags.lean ====
section
/-! DEFINITION. Floating-point values, rounding, flushing and the flags they set (R154 to R163). -/

namespace Sys2Proof.Machine
open Sys2Proof

/-- The flag bits of c.fpflags (R269). -/
def flagNV : Nat := 1
/-- Divide-by-zero (R269). -/
def flagDZ : Nat := 2
/-- Overflow (R269). -/
def flagOF : Nat := 4
/-- Underflow (R269). -/
def flagUF : Nat := 8
/-- Inexact (R269). -/
def flagNX : Nat := 16

/-- A flag when a condition holds. -/
def flagIf (b : Bool) (f : Nat) : Nat := if b then f else 0

/-- A floating-point format (R154). -/
structure Fmt where
  width : Nat
  mbits : Nat
  ebits : Nat
  bias : Nat
  deriving DecidableEq, Repr

/-- The format of a floating-point type (R154); the integer types give FP32's, which no caller asks for. -/
def fmtOf : ElemType → Fmt
  | .e4m3 => ⟨8, 3, 4, 7⟩
  | .bf16 => ⟨16, 7, 8, 127⟩
  | .fp16 => ⟨16, 10, 5, 15⟩
  | .s4 | .u4 | .s8 | .u8 | .s16 | .u16 | .s32 | .u32 | .fp32 | .s64 | .u64 => ⟨32, 23, 8, 127⟩

/-- The exponent of the smallest subnormal (R154). -/
def Fmt.emin (f : Fmt) : Int := 1 - (f.bias : Int) - f.mbits

/-- E4M3 has no infinities and one NaN a sign (R155). -/
def Fmt.isE4M3 (f : Fmt) : Bool := f.width == 8

/-- The sign bit. -/
def Fmt.signBit (f : Fmt) (neg : Bool) : Nat := if neg then 2 ^ (f.width - 1) else 0

/-- The canonical NaN (R156). -/
def Fmt.nan (f : Fmt) : Nat :=
  if f.isE4M3 then 0x7F else (2 ^ f.ebits - 1) * 2 ^ f.mbits + 2 ^ (f.mbits - 1)

/-- The encoding of an infinity. -/
def Fmt.inf (f : Fmt) (neg : Bool) : Nat := f.signBit neg + (2 ^ f.ebits - 1) * 2 ^ f.mbits

/-- The encoding of the largest finite magnitude (R154). -/
def Fmt.maxBits (f : Fmt) : Nat := if f.isE4M3 then 0x7E else (2 ^ f.ebits - 1) * 2 ^ f.mbits - 1

/-- A floating-point value: a NaN, signalling or not; an infinity; or (−1)^neg · m · 2^e. -/
inductive Fp where
  | nan (signalling : Bool)
  | inf (neg : Bool)
  | fin (neg : Bool) (m : Nat) (e : Int)
  deriving DecidableEq, Repr

/-- The value of an encoding (R154 to R156), with subnormals read as zeros when inputs are flushed (R160). -/
def fpValue (f : Fmt) (fzi : Bool) (x : Nat) : Fp :=
  let neg := bit x (f.width - 1)
  let e := fld x f.mbits f.ebits
  let m := fld x 0 f.mbits
  if f.isE4M3 then
    if e = 15 ∧ m = 7 then .nan false
    else if e = 0 then .fin neg (if fzi then 0 else m) f.emin
    else .fin neg (2 ^ f.mbits + m) (f.emin + e - 1)
  else if e = 2 ^ f.ebits - 1 then
    if m = 0 then .inf neg else .nan (!bit m (f.mbits - 1))
  else if e = 0 then .fin neg (if fzi then 0 else m) f.emin
  else .fin neg (2 ^ f.mbits + m) (f.emin + e - 1)

/-- A signalling NaN (R156). -/
def Fp.isSnan : Fp → Bool
  | .nan b => b
  | _ => false

/-- A NaN. -/
def Fp.isNan : Fp → Bool
  | .nan _ => true
  | _ => false

/-- A zero. -/
def Fp.isZero : Fp → Bool
  | .fin _ m _ => m == 0
  | _ => false

/-- The sign. -/
def Fp.neg? : Fp → Bool
  | .nan _ => false
  | .inf n => n
  | .fin n _ _ => n

/-- Rounds the quotient of a magnitude m by 2^k to an integer, and says whether it is inexact (R158). -/
def roundShift (mode : Rounding) (neg : Bool) (m k : Nat) : Nat × Bool :=
  if k = 0 then (m, false)
  else
    let q := m >>> k
    let r := m % 2 ^ k
    let half := 2 ^ (k - 1)
    let up := match mode with
      | .rne => decide (half < r) || (r == half && q % 2 == 1)
      | .rna => decide (half ≤ r)
      | .rtz | .dyn => false
      | .rup => decide (r ≠ 0) && !neg
      | .rdn => decide (r ≠ 0) && neg
    (if up then q + 1 else q, r != 0)

/-- Rounds m · 2^e to a multiple of 2^q: the multiple and whether it is inexact. A magnitude far below 2^q is replaced by
one that rounds the same, so that no shift exceeds the width of m by more than two. -/
def roundAt (mode : Rounding) (neg : Bool) (m : Nat) (e q : Int) : Nat × Bool :=
  if q ≤ e then (m * 2 ^ (e - q).toNat, false)
  else roundShift mode neg m (min (q - e).toNat (Nat.log2 m + 3))

/-- Whether an overflow goes to an infinity (R162). -/
def overflowInf (mode : Rounding) (neg : Bool) : Bool :=
  match mode with
  | .rne | .rna => true
  | .rtz | .dyn => false
  | .rup => !neg
  | .rdn => neg

/-- The encoding and the flags of (−1)^neg · m · 2^e rounded once (R157, R158, R160 to R162): tiny is judged after rounding
with unbounded exponent. DEDUCED, log entry 18. -/
def roundFin (f : Fmt) (mode : Rounding) (fzo nov : Bool) (neg : Bool) (m : Nat) (e : Int) : Nat × Nat :=
  if m = 0 then (f.signBit neg, 0)
  else
    let top : Int := e + Nat.log2 m
    let qU := top - f.mbits
    let q := max qU f.emin
    let (r, inx) := roundAt mode neg m e q
    let mag := (q - f.emin).toNat * 2 ^ f.mbits + r
    if f.maxBits < mag then
      (if f.isE4M3 then (if nov then f.nan else f.signBit neg + f.maxBits)
        else if overflowInf mode neg then f.inf neg else f.signBit neg + f.maxBits, flagOF + flagNX)
    else
      let tiny := decide (qU < f.emin) &&
        !(top == f.emin + f.mbits - 1 && (roundAt mode neg m e qU).1 == 2 ^ (f.mbits + 1))
      if fzo && decide (mag < 2 ^ f.mbits) && mag != 0 then (f.signBit neg, flagUF + flagNX)
      else (f.signBit neg + mag, flagIf (inx && tiny) flagUF + flagIf inx flagNX)

/-- A value rounded to a format (R156, R157, R162): the flags are those of the rounding alone. -/
def roundFp (f : Fmt) (mode : Rounding) (fzo nov : Bool) : Fp → Nat × Nat
  | .nan _ => (f.nan, 0)
  | .inf neg =>
    if f.isE4M3 then
      if nov then (f.nan, flagNV) else (f.signBit neg + f.maxBits, flagOF + flagNX)
    else (f.inf neg, 0)
  | .fin neg m e => roundFin f mode fzo nov neg m e

/-- A value rounded to the nearest integer by a mode, as an integer, with whether it is inexact (R163). -/
def roundInt (mode : Rounding) (neg : Bool) (m : Nat) (e : Int) : Int × Bool :=
  let (r, inx) := roundAt mode neg m e 0
  (if neg then -(r : Int) else r, inx)

/-- The range of an integer type (R153). -/
def intLo (t : ElemType) : Int := if t.signed then -(2 ^ (t.width - 1)) else 0
/-- The range of an integer type (R153). -/
def intHi (t : ElemType) : Int := if t.signed then 2 ^ (t.width - 1) - 1 else 2 ^ t.width - 1

/-- An integer made to fit a type: wrapped, or saturated (R153). -/
def fitInt (t : ElemType) (sat : Bool) (x : Int) : Nat :=
  wrapN t.width (if sat then (if intHi t < x then intHi t else if x < intLo t then intLo t else x) else x)

/-- The value of an integer element (R153). -/
def intOf (t : ElemType) (x : Nat) : Int := if t.signed then signedOf t.width x else (x % 2 ^ t.width : Nat)

end Sys2Proof.Machine
end

