-- ==== Sys2Proof/Machine/Float.lean ====
section
/-! DEFINITION. Floating-point operations: exact results rounded once, with their flags (R156 to R168, R222 to R224, R274,
R281). Each gives an encoding and flag bits. -/

namespace Sys2Proof.Machine
open Sys2Proof

/-- The exact product of two values, with whether it is an invalid operation (R157). -/
def mulFp (a b : Fp) : Fp × Bool :=
  match a, b with
  | .nan x, b => (.nan false, x || b.isSnan)
  | .inf _, .nan y => (.nan false, y)
  | .fin .., .nan y => (.nan false, y)
  | .inf n, .inf k => (.inf (n != k), false)
  | .inf n, .fin k m _ => if m = 0 then (.nan false, true) else (.inf (n != k), false)
  | .fin n m _, .inf k => if m = 0 then (.nan false, true) else (.inf (n != k), false)
  | .fin n m e, .fin k m' e' => (.fin (n != k) (m * m') (e + e'), false)

/-- A finite value as an integer multiple of 2^q, for q not above its exponent. -/
def scaleTo (neg : Bool) (m : Nat) (e q : Int) : Int :=
  let r : Int := (m : Int) * 2 ^ (e - q).toNat
  if neg then -r else r

/-- The exact sum of two finite values; an exact zero has the sign of IEEE 754-2019 under the mode (R157). -/
def addFin (mode : Rounding) (n : Bool) (m : Nat) (e : Int) (k : Bool) (m' : Nat) (e' : Int) : Fp :=
  if m = 0 ∧ m' = 0 then .fin (if n = k then n else mode == .rdn) 0 0
  else if m = 0 then .fin k m' e'
  else if m' = 0 then .fin n m e
  else
    let q := min e e'
    let x := scaleTo n m e q + scaleTo k m' e' q
    if x = 0 then .fin (mode == .rdn) 0 0 else .fin (decide (x < 0)) x.natAbs q

/-- The exact sum of two values, with whether it is an invalid operation (R157). -/
def addFp (mode : Rounding) (a b : Fp) : Fp × Bool :=
  match a, b with
  | .nan x, b => (.nan false, x || b.isSnan)
  | .inf _, .nan y => (.nan false, y)
  | .fin .., .nan y => (.nan false, y)
  | .inf n, .inf k => if n = k then (.inf n, false) else (.nan false, true)
  | .inf n, .fin .. => (.inf n, false)
  | .fin .., .inf k => (.inf k, false)
  | .fin n m e, .fin k m' e' => (addFin mode n m e k m' e', false)

/-- The negation of a value. -/
def negFp : Fp → Fp
  | .nan b => .nan b
  | .inf n => .inf (!n)
  | .fin n m e => .fin (!n) m e

/-- The settings of an operation: the mode, never DYN, and the flush bits. -/
structure FpCtl where
  mode : Rounding := .rne
  fzi : Bool := false
  fzo : Bool := false
  nov : Bool := false
  deriving DecidableEq, Repr

/-- An exact result rounded once to a type, with the invalid flag of its operation. -/
def roundOut (t : ElemType) (c : FpCtl) (r : Fp × Bool) : Nat × Nat :=
  let (x, f) := roundFp (fmtOf t) c.mode c.fzo c.nov r.1
  (x, f ||| flagIf r.2 flagNV)

/-- An operand of a type. -/
def fpIn (t : ElemType) (c : FpCtl) (x : Nat) : Fp := fpValue (fmtOf t) c.fzi x

/-- FADD (R222). -/
def fpAdd (t : ElemType) (c : FpCtl) (a b : Nat) : Nat × Nat := roundOut t c (addFp c.mode (fpIn t c a) (fpIn t c b))
/-- FSUB (R222). A NaN operand keeps its kind. -/
def fpSub (t : ElemType) (c : FpCtl) (a b : Nat) : Nat × Nat :=
  roundOut t c (addFp c.mode (fpIn t c a) (negFp (fpIn t c b)))
/-- FMUL (R222). -/
def fpMul (t : ElemType) (c : FpCtl) (a b : Nat) : Nat × Nat := roundOut t c (mulFp (fpIn t c a) (fpIn t c b))
/-- The fused multiply-add of values (R157): 0 × ∞ is invalid whatever the addend. -/
def fmaFp (mode : Rounding) (a b z : Fp) : Fp × Bool :=
  let (p, inv) := mulFp a b
  let (r, inv') := addFp mode p z
  (r, inv || inv')
/-- FFMA (R222). -/
def fpFma (t : ElemType) (c : FpCtl) (a b z : Nat) : Nat × Nat :=
  roundOut t c (fmaFp c.mode (fpIn t c a) (fpIn t c b) (fpIn t c z))

/-- Two finite values or infinities in order: a < b, with −0 = +0. -/
def fpLess (a b : Fp) : Bool :=
  match a, b with
  | .nan _, _ => false
  | _, .nan _ => false
  | .inf n, .inf k => n && !k
  | .inf n, .fin .. => n
  | .fin .., .inf k => !k
  | .fin n m e, .fin k m' e' =>
    let q := min e e'
    decide (scaleTo n m e q < scaleTo k m' e' q)

/-- Two values equal as numbers: −0 = +0, and a NaN equals nothing. -/
def fpEqual (a b : Fp) : Bool := !a.isNan && !b.isNan && !fpLess a b && !fpLess b a

/-- Minimum or maximum of IEEE 754-2019 (R222): a NaN gives the canonical NaN, and −0 is less than +0. The chosen operand is
returned as it is, or as the zero of its sign where inputs are flushed, and a subnormal result is flushed by R160. -/
def fpMinMax (t : ElemType) (c : FpCtl) (isMax : Bool) (a b : Nat) : Nat × Nat :=
  let x := fpIn t c a
  let y := fpIn t c b
  let inv := flagIf (x.isSnan || y.isSnan) flagNV
  if x.isNan || y.isNan then ((fmtOf t).nan, inv)
  else
    let xFirst := fpLess x y || (fpEqual x y && x.neg? && !y.neg?)
    let r := if xFirst != isMax then x else y
    let (v, f) := roundFp (fmtOf t) c.mode c.fzo false r
    (v, f ||| inv)

/-- FCMP and VCMP (R223): whether the predicate holds, and the flags. -/
def fpCompare (t : ElemType) (c : FpCtl) (p : Pred) (a b : Nat) : Bool × Nat :=
  let x := fpIn t c a
  let y := fpIn t c b
  let un := x.isNan || y.isNan
  let sn := x.isSnan || y.isSnan
  match p with
  | .eq => (fpEqual x y, flagIf sn flagNV)
  | .lt => (fpLess x y, flagIf un flagNV)
  | .le => (!un && !fpLess y x, flagIf un flagNV)
  | .un => (un, flagIf sn flagNV)
  | .ne => (!fpEqual x y, flagIf sn flagNV)

/-- Absolute value and negation (R274): exact, but for a NaN, which becomes canonical; a subnormal result is flushed by
R160. DEDUCED, log entry 19. -/
def fpSign (t : ElemType) (c : FpCtl) (neg : Bool) (a : Nat) : Nat × Nat :=
  match fpIn t c a with
  | .nan s => ((fmtOf t).nan, flagIf s flagNV)
  | .inf n => ((fmtOf t).inf (neg && !n), 0)
  | .fin n m e => roundFin (fmtOf t) c.mode c.fzo false (neg && !n) m e

/-- A floating-point value converted to an integer type (R163). -/
def fpToInt (t : ElemType) (mode : Rounding) : Fp → Nat × Nat
  | .nan _ => (0, flagNV)
  | .inf n => (wrapN t.width (if n then intLo t else intHi t), flagNV)
  | .fin n m e =>
    -- a value beyond every integer type's range is replaced by one that is also beyond it
    let (x, inx) := if 200 < e ∧ m ≠ 0 then ((if n then -(2 ^ 100) else 2 ^ 100 : Int), false) else roundInt mode n m e
    if intHi t < x then (wrapN t.width (intHi t), flagNV)
    else if x < intLo t then (wrapN t.width (intLo t), flagNV)
    else (wrapN t.width x, flagIf inx flagNX)

/-- A conversion between element types (R162, R163, R224): the encoding at the destination's width, and the flags. -/
def convertElem (td ts : ElemType) (c : FpCtl) (sat : Bool) (x : Nat) : Nat × Nat :=
  if ts.isFloat then
    let v := fpIn ts c x
    let sn := flagIf v.isSnan flagNV
    if td.isFloat then
      let (r, f) := roundFp (fmtOf td) c.mode c.fzo c.nov v
      (r, f ||| sn)
    else fpToInt td c.mode v
  else if td.isFloat then
    let i := intOf ts x
    roundFin (fmtOf td) c.mode c.fzo c.nov (decide (i < 0)) i.natAbs 0
  else (fitInt td sat (intOf ts x), 0)

/-- The decoded value of an FP32 encoding that a rounding gave. -/
def fp32Of (x : Nat) : Fp := fpValue (fmtOf .fp32) false x

/-- The sum of two terms rounded to FP32 and flushed (R168, R281). -/
def treeAdd (c : FpCtl) (a b : Fp) : Fp × Nat :=
  let (x, f) := roundOut .fp32 c (addFp c.mode a b)
  (fp32Of x, f)

/-- One level of the ordered tree (R281). -/
def treeLevel (c : FpCtl) : List (Option Fp) → List (Option Fp) × Nat
  | [] => ([], 0)
  | [a] => ([a], 0)
  | a :: b :: r =>
    let (rest, f) := treeLevel c r
    match a, b with
    | some x, some y => let (z, g) := treeAdd c x y; (some z :: rest, f ||| g)
    | some x, none => (some x :: rest, f)
    | none, y => (y :: rest, f)

/-- The levels of the ordered tree: the fuel is the number of terms. -/
def treeLevels (c : FpCtl) : Nat → List (Option Fp) → Option Fp × Nat
  | 0, q => (q.head?.join, 0)
  | n + 1, q =>
    match q with
    | [] => (none, 0)
    | [a] => (a, 0)
    | q =>
      let (q', f) := treeLevel c q
      let (r, g) := treeLevels c n q'
      (r, f ||| g)

/-- The ordered tree (R281): the FP32 encoding of the result and the flags. -/
def orderedTree (c : FpCtl) (q : List (Option Fp)) : Nat × Nat :=
  let (r, f) := treeLevels c q.length q
  match r with
  | none => (0, f)
  | some x =>
    let (v, g) := roundOut .fp32 c (x, x.isSnan)
    (v, f ||| g)

end Sys2Proof.Machine
end

