-- ==== Sys2Proof/Machine/Operands.lean ====
section
/-! DEFINITION. Operand forms: scalar and vector elements, masks, register pairs and quads, rounding, addresses (R150 to R153,
R159, R208, R222, R266 to R268). -/

namespace Sys2Proof.Machine
open Sys2Proof

/-! ## Scalars -/

/-- An instruction that writes one scalar register and goes on. -/
def putS (s : State) (dst : SReg) (v : Word) : Host.Outcome State Fault Refusal := run s (.ok (s.setS dst v))

/-- An element extended to a scalar register: signed types by sign, all others by zero (R153, R222, R277). -/
def extendElem (t : ElemType) (x : Nat) : Word :=
  if t.signed then wdI (signedOf t.width x) else wd (x % 2 ^ t.width)

/-- The low bits of a scalar register as an element (R222). -/
def lowElem (t : ElemType) (w : Word) : Nat := w.toNat % 2 ^ t.width

/-- The address of a memory operand: base plus sign-extended offset, wrapped to 64 bits (R208, R240). -/
def addrOf (base : Word) (imm : BitVec 32) : Nat := (base + sext32 imm).toNat

/-! ## Rounding -/

/-- The rounding mode in force: DYN is the mode in c.round (R158, R159). -/
def modeOf (s : State) (r : Rounding) : Rounding :=
  match r with
  | .dyn => Rounding.ofCode (BitVec.ofNat 3 s.me.round.toNat)
  | m => m

/-- The settings of a floating-point instruction (R158 to R160). -/
def fpCtl (s : State) (rnd : Rounding) (fzi fzo : Bool) : FpCtl := { mode := modeOf s rnd, fzi := fzi, fzo := fzo }

/-! ## Vectors -/

/-- The elements of a vector register (R4, R150, R152). -/
def vElems (t : ElemType) (v : Vec) : List Nat := unpackElems t.width t.count v.toNat

/-- A vector register from its elements, zero above them. -/
def vOf (t : ElemType) (es : List Nat) : Vec := BitVec.ofNat 4096 (packElems t.width es)

/-- The activity mask that a mask field names: field 0 makes every element active (R267). -/
def maskOf (s : State) (m : BitVec 3) : Nat := if m = 0#3 then ones 1024 else (s.rm m).toNat

/-- The first n bits of a mask as Booleans. -/
def maskBits : Nat → Nat → List Bool
  | 0, _ => []
  | n + 1, m => (m % 2 == 1) :: maskBits n (m / 2)

/-- Results under a mask: an inactive element keeps its old value, or becomes zero when z is set (R267). -/
def mergeElems (z : Bool) : List Bool → List Nat → List Nat → List Nat
  | b :: bs, o :: os, n :: ns => (if b then n else if z then 0 else o) :: mergeElems z bs os ns
  | _, _, _ => []

/-- The number of registers that hold n elements of a width: 1, a pair or a quad (R268). -/
def regsFor (n w : Nat) : Nat := n * w / 4096

/-- A single register, a pair or a quad may start here (R268). -/
def groupOk (r : VReg) (k : Nat) : Bool := r.toNat % k == 0 && decide (r.toNat + k ≤ 32)

/-- The register k places after another. -/
def vPlus (r : VReg) (k : Nat) : VReg := r + BitVec.ofNat 5 k

/-- Interleaves the elements of a group's registers: element i of the group is element i div k of register i mod k
(R268). -/
def interleave : List (List Nat) → Nat → List Nat
  | _, 0 => []
  | ls, n + 1 => ls.map (fun l => l.headD 0) ++ interleave (ls.map List.tail) n

/-- The elements of a group of k registers, in the order of R268. -/
def groupElems (s : State) (t : ElemType) (r : VReg) (k : Nat) : List Nat :=
  interleave ((List.range k).map fun j => vElems t (s.rv (vPlus r j))) t.count

/-- Every k-th element from the j-th on. -/
def strideElems (k : Nat) : Nat → List Nat → List Nat
  | _, [] => []
  | 0, x :: xs => x :: strideElems k (k - 1) xs
  | j + 1, _ :: xs => strideElems k j xs

/-- The registers of a group written with the group's elements, as register writes (R268). -/
def groupWrites (t : ElemType) (r : VReg) (k : Nat) (es : List Nat) : List (VReg × Vec) :=
  (List.range k).map fun j => (vPlus r j, vOf t (strideElems k j es))

/-- Vector registers written. -/
def setVs (s : State) (ws : List (VReg × Vec)) : State := ws.foldl (fun s w => s.setV w.1 w.2) s

/-- Results and flags of the active elements of one operand list: inactive ones give 0 and no flag (R267, R269). -/
def mapActive1 (f : Nat → Nat × Nat) : List Bool → List Nat → List Nat × Nat
  | b :: bs, x :: xs =>
    let (r, g) := mapActive1 f bs xs
    if b then let (y, h) := f x; (y :: r, h ||| g) else (0 :: r, g)
  | _, _ => ([], 0)

/-- The same over two operand lists. -/
def mapActive2 (f : Nat → Nat → Nat × Nat) : List Bool → List Nat → List Nat → List Nat × Nat
  | b :: bs, x :: xs, y :: ys =>
    let (r, g) := mapActive2 f bs xs ys
    if b then let (v, h) := f x y; (v :: r, h ||| g) else (0 :: r, g)
  | _, _, _ => ([], 0)

/-- The same over three operand lists. -/
def mapActive3 (f : Nat → Nat → Nat → Nat × Nat) : List Bool → List Nat → List Nat → List Nat → List Nat × Nat
  | b :: bs, x :: xs, y :: ys, z :: zs =>
    let (r, g) := mapActive3 f bs xs ys zs
    if b then let (v, h) := f x y z; (v :: r, h ||| g) else (0 :: r, g)
  | _, _, _, _ => ([], 0)

end Sys2Proof.Machine
end

