-- ==== Sys2Proof/Machine/Bank.lean ====
section
/-! DEFINITION. Banks: promotion, the row remap table and the shadow pool, retirement, refresh, patrol scrubbing, SHMODE and
BCASTW (spec chapter 03; R399, R401). -/

namespace Sys2Proof.Machine
open Sys2Proof

/-! ## Rows -/

/-- The physical deep rows of a bank (R29). -/
def physRows : Nat := 61440

/-- A physical deep row that some logical row is mapped to (R64). -/
def rowMapped (b : Bank) (p : Nat) : Bool :=
  (decide (p < deepRows) && (SMap.find? b.remap p).isNone) || b.remap.any fun x => x.2 == p

/-- A physical deep row in the shadow pool, and free (R64, R65). -/
def rowFree (b : Bank) (p : Nat) : Bool :=
  decide (p < physRows) && !b.retired.contains p && !rowMapped b p && !b.shadows.any fun x => x.2.prow == p

/-- The lowest-numbered free pool row of a subarray (R65, R68). -/
def poolRow (b : Bank) (sub : Nat) : Option Nat :=
  ((List.range 480).map fun k => 128 * k + sub).find? fun p => rowFree b p

/-- A logical row mapped to a physical row (R64). -/
def setMap (b : Bank) (d p : Nat) : Bank := { b with remap := if d = p then SMap.del b.remap d else SMap.put b.remap d p }

/-- POOLFREE (R54): what neither a mapping, a retired row nor a shadow takes. -/
def poolFree (b : Bank) : Nat := physRows - deepRows - b.retired.length - b.shadows.length

/-- POOLMIN (R54). -/
def poolMin (b : Bank) : Nat :=
  (List.range 128).foldl (fun m a =>
    min m (15 - (b.retired.filter fun p => p % 128 == a).length - (b.shadows.filter fun x => x.1 % 128 == a).length)) 15

/-- The first sector of a physical row of a bank, by its class. -/
def rowSector (bk cls row : Nat) : Nat := bankLocal (bk / 768) (bk % 768) cls row 0 / 64

/-- The errors and poison marks of sixteen sectors copied to sixteen others, as a transfer of the row's bits does (R52). -/
def copyCodes (s : State) (src dst : Nat) : State :=
  (List.range 16).foldl (fun s i =>
    let p := s.poison.filter (· != dst + i)
    { s with
      poison := if s.poison.contains (src + i) then (dst + i) :: p else p
      upsets := match SMap.find? s.upsets (src + i) with
        | some k => SMap.put s.upsets (dst + i) k
        | none => SMap.del s.upsets (dst + i) }) s

/-! ## Promotion -/

/-- A slot given up (R57): a dirty one is written back to its row's physical row. -/
def demoteSlot (s : State) (bk k : Nat) : State :=
  match SMap.find? (s.bank bk).slots k with
  | none => s
  | some x =>
    let s1 := if x.dirty then copyCodes s (rowSector bk 1 k) (rowSector bk 0 (mapRow (s.bank bk) x.row)) else s
    s1.modBank bk fun b => { b with slots := SMap.del b.slots k }

/-- A deep row copied into a free slot with a new stamp (R57). -/
def fillSlot (s : State) (bk k d : Nat) : State :=
  let s1 := copyCodes s (rowSector bk 0 (mapRow (s.bank bk) d)) (rowSector bk 1 k)
  s1.modBank bk fun b =>
    let n := SMap.getD b.stampCtr (d % 128) 0
    { b with slots := SMap.put b.slots k { row := d, stamp := n }
             stampCtr := SMap.put b.stampCtr (d % 128) ((n + 1) % 2 ^ 32) }

/-- The shelf rows that are promotion slots of a subarray, in ascending slot order (R55). -/
def slotRows (b : Bank) (sub : Nat) : List Nat :=
  (List.range (promoSlots b)).map fun i => 128 * (32 - promoSlots b + i) + sub

/-- The unpinned slot of a subarray with the smallest stamp (R59). -/
def oldestSlot (b : Bank) (sub : Nat) : Option Nat :=
  ((slotRows b sub).foldl (fun (best : Option (Nat × Nat)) k =>
    match SMap.find? b.slots k with
    | none => best
    | some x =>
      if x.pin then best
      else match best with
        | none => some (k, x.stamp)
        | some (_, t) => if x.stamp < t then some (k, x.stamp) else best) none).map (·.1)

/-- PROMOTE of a deep row (R59, R60). -/
def promoteRow (s : State) (bk d : Nat) : Nat × State :=
  let b := s.bank bk
  if (slotOfRow b d).isSome then (1, s)
  else
    match (slotRows b (d % 128)).find? fun k => (SMap.find? b.slots k).isNone with
    | some k => (0, fillSlot s bk k d)
    | none =>
      match oldestSlot b (d % 128) with
      | some k => (0, fillSlot (demoteSlot s bk k) bk k d)
      | none => (2, s)

/-- SHPIN and SHUNPIN of a deep row (R57, R60). -/
def pinRow (s : State) (bk d : Nat) (pin : Bool) : Nat × State :=
  match slotOfRow (s.bank bk) d with
  | none => (2, s)
  | some (k, x) =>
    (if x.pin = pin then 1 else 0, s.modBank bk fun b => { b with slots := SMap.put b.slots k { x with pin := pin } })

/-- A promotion operation of a bank by its kind (R57 to R60): its status, and what it does. -/
def bankStatus (s : State) (bk kind d : Nat) : Nat × State :=
  if (s.bank bk).fenced then (3, s)
  else match kind with
    | 0 => promoteRow s bk d
    | 1 => pinRow s bk d true
    | 2 => pinRow s bk d false
    | _ =>
      let (st, s1) := pinRow s bk d false
      match slotOfRow (s1.bank bk) d with
      | some (k, _) => (st, demoteSlot s1 bk k)
      | none => (st, s1)

/-- A status delivered to the instruction that waits for it: the destination of a window, or a stalled instruction
(R62, R214). -/
def bankReply (c : Ctx) (op : BankOp) (st : Nat) : Ctx :=
  if c.mid = .waiting (1000 + op.uid) then
    { c with mid := .result st, st := if c.st = .stalled then .ready else c.st }
  else if c.windows.any fun w => w.bank == some op.uid then
    let c1 := c.setS op.dst (wd st)
    { c1 with windows := (c1.windows.map fun w =>
        if w.bank = some op.uid then { w with bank := none, finished := true } else w).filter fun w =>
          !(w.left == 0 && w.finished) }
  else c

/-- The agent's name of a bank's newt among the operations that wait there. -/
def newtAgent : Nat := 2 ^ 20

/-- A status delivered to the newt of a bank (R63). -/
def newtReply (b : Bank) (op : BankOp) (st : Nat) : Bank :=
  if b.newt.prOp = some op.uid then { b with newt := { b.newt with prR := BitVec.ofNat 32 st, prOp := none } } else b

/-- BANK_OPERATION (R53, R62, R63): the bank serves the first operation that waits at it, unless its controller is changing
SHMODE or retiring a row, or its step is in publish. The reply to a task that has ended is dropped and counted (R397). -/
def execBankOperation (bank : Nat) (s : State) : Host.Outcome State Fault Refusal :=
  let b := s.bank bank
  .next (match b.queue with
    | [] => s
    | op :: rest =>
      if b.shBusy || b.rtBusy || bankPublish s bank then s
      else
        let (st, s1) := bankStatus (s.modBank bank fun b => { b with queue := rest }) bank op.kind op.row
        if op.cid = newtAgent then s1.modBank bank fun b => newtReply b op st
        else if (s1.ctx op.cid).incarnation = op.inc then s1.modCtx op.cid fun c => bankReply c op st
        else countDie s1 (dieOf op.cid) ctrStale 1)

/-- The bank and deep row that a promotion instruction names (R62). -/
def bankTarget (s : State) (va : Nat) : Res (Nat × Nat × State) := do
  let (p, s1) ← translateAs s s.cur .load none va 1 0
  match p.loc with
  | .dram a => do
    illegalIf (classOf a == 1)
    trapIf (noRoute s1 (dieOf s.cur) (servedBy p.loc)) (.trap { code := 0x2A, addr := va })
    match parkedAt s1 p.loc with
    | some d => .error (.stall (s1.modDie d fun x => { x with returning := true }))
    | none => .ok (bankKey a, rowNo a, s1)
  | .net w off => .error (if netFault s1 w off 1 .load then .trap { code := 8, addr := va } else illegal)
  | _ => .error illegal

/-- A promotion instruction (R61, R62): its request is sent to its bank and its status is written once the bank has finished. -/
def bankInstr (s : State) (la : BitVec 4) (dst base : SReg) (imm : BitVec 32) (kind : Nat) :
    Host.Outcome State Fault Refusal :=
  .next (match s.me.mid with
    | .result st => finish (s.setS dst (wd st))
    | .waiting _ => stallNow s
    | _ =>
      match bankTarget s (addrOf (s.rs base) imm) with
      | .error e => stopNow s e
      | .ok (bk, d, s1) =>
        let (uid, s2) := newOp s1
        let op : BankOp := { uid := uid, cid := s.cur, kind := kind, row := d, dst := dst, inc := s.me.incarnation }
        let s3 := s2.modBank bk fun b => { b with queue := b.queue ++ [op] }
        if la = 0#4 then stallNow (s3.modMe fun c => { c with mid := .waiting (1000 + uid) })
        else (finish s3).modCtx s.cur fun c =>
          { c with windows := c.windows ++ [{ left := la.toNat, dests := [.s dst], writes := [], bank := some uid }] })

/-- PROMOTE (R59, R62). -/
def execPromote (la : BitVec 4) (dst base : SReg) (imm : BitVec 32) (s : State) : Host.Outcome State Fault Refusal :=
  bankInstr s la dst base imm 0
/-- SHPIN (R57, R62). -/
def execShpin (la : BitVec 4) (dst base : SReg) (imm : BitVec 32) (s : State) : Host.Outcome State Fault Refusal :=
  bankInstr s la dst base imm 1
/-- SHUNPIN, with D to demote (R57, R62). -/
def execShunpin (la : BitVec 4) (dst base : SReg) (d : Bool) (imm : BitVec 32) (s : State) :
    Host.Outcome State Fault Refusal :=
  bankInstr s la dst base imm (2 + b2n d)

/-! ## BCASTW -/

/-- The sixteen positions of a channel that a bank-local address stands for (R70). -/
def channelCopies (a : Nat) : List Nat := (List.range 16).map fun j => setFld a 27 10 (16 * (bankNo a / 16) + j)

/-- Every cached copy of some lines discarded, dirty and tidal ones too (R71). -/
def discardLines (s : State) (lines : List Nat) : State :=
  { s with
    homeq := s.homeq.filter fun r => !lines.contains (r.sector / 4)
    cores := s.cores.map fun p => (p.1, { p.2 with
      l1 := p.2.l1.filter fun l => !lines.contains l.line
      tidal := p.2.tidal.filter fun t => !lines.contains (t.sector / 4) }) }

/-- The first sector of some 512-byte targets that bytes claimed by engine operations lie in, with those bytes (R128). -/
def bcastClaim (s : State) (ts : List Nat) : Option (Nat × Nat) :=
  ((ts.map fun t => (List.range 8).map fun i => t + 64 * i).flatten).findSome? fun a =>
    let m := claimMask s a 64
    if m = 0 then none else some (a / 64, m)

/-- The checks of BCASTW in their order (R70, R128): the targets. DEDUCED, log entry 65. -/
def bcastCheck (s : State) (va : Nat) : Res (List Nat × State) := do
  illegalIf (va % 512 != 0)
  let (p, s1) ← translate s s.cur .store .unc va 512 0
  match p.loc with
  | .dram a => do
    let ts := channelCopies a
    trapIf (!ts.all fun t => validRow (s1.bank (bankKey t)) (classOf t) (rowNo t)) (.trap { code := 7, addr := va })
    illegalIf (ts.any fun t => bankFenced s1 (bankKey t))
    match ts.find? fun t => bankLive s1 (bankKey t) with
    | some t => .error (raceTrap 0 (t / 64) (ones 64) 0 1)
    | none => do
      match bcastClaim s1 ts with
      | some (x, m) => .error (raceTrap 0 x m 0 2)
      | none => .ok ()
      runIllegal s1 s.cur true
      letIn s1 s.cur .store p.loc va 0
      stallIf (ts.any fun t => bankHolds s1 .store (bankKey t)) s1
      .ok (ts, s1)
  | _ => .error illegal

/-- A block of 512 bytes written at one bank (R70, R71). -/
def bcastOne (s : State) (bytes : List Byte) (a : Nat) : State :=
  (List.range 8).foldl (fun s i => storeHome s (a / 64 + i) (ones 64) (sliceBytes bytes (64 * i) 64)) s

/-- The block written at every target once their lines have left the caches: none while a record store must take the records
of one of them and cannot (R70, R71, R95). -/
def bcastAll (s : State) (bytes : List Byte) (ts : List Nat) : Option State :=
  let lines := (ts.map fun t => [t / 256, t / 256 + 1]).flatten
  (l2RemoveAll s lines).map fun s1 => ts.foldl (fun s t => bcastOne s bytes t) (discardLines s1 lines)

/-- BCASTW (R70, R71). -/
def execBcastw (la : BitVec 4) (base : SReg) (data : VReg) (imm : BitVec 32) (s : State) :
    Host.Outcome State Fault Refusal :=
  let va := addrOf (s.rs base) imm
  runLong s la [] (do
    let (ts, s1) ← bcastCheck s va
    stallIf (fifoFull s1 s.cur) s1
    match bcastAll s1 (natToBytes 512 (s.rv data).toNat) ts with
    | none => .error (.stall s1)
    | some s2 => do
      let s3 ← fifoPush s2 s.cur (ts.headD 0 / 64) .unc
      .ok (s3, []))

/-! ## The bank control block -/

/-- A write to BKMODE (R56). An accepted write to SHMODE leaves REFUSED as it is: DESIGN CHOICE, log entry 71. -/
def writeBkmode (s : State) (bk v : Nat) : State :=
  let b := s.bank bk
  if bit v 5 then s.setBank bk { b with shRefused := false }
  else if 5 ≤ fld v 0 3 ∨ b.shBusy ∨ bankInStep s bk then s.setBank bk { b with shRefused := true }
  else s.setBank bk { b with shBusy := true, shNew := fld v 0 3 }

/-- SHMODE_WRITE (R56). -/
def execShmodeWrite (bank val : Nat) (s : State) : Host.Outcome State Fault Refusal :=
  .next (writeBkmode s bank (val % 8))
/-- BKMODE_CLEAR_REFUSED (R56). -/
def execBkmodeClearRefused (bank : Nat) (s : State) : Host.Outcome State Fault Refusal := .next (writeBkmode s bank 32)

/-- The shelf rows of a bank from a row on lose their contents (R56). -/
def loseShelf (s : State) (bk row : Nat) : State :=
  { s with mem := s.mem.filter fun c =>
      !(regionOf c.1 == 0 && classOf c.1 == 1 && bankKey c.1 == bk && decide (row ≤ rowNo c.1)) }

/-- SHMODE_CHANGE_DONE (R56): every promoted slot is demoted, and the new value applies. -/
def execShmodeChangeDone (bank : Nat) (s : State) : Host.Outcome State Fault Refusal :=
  let b := s.bank bank
  .next (if !b.shBusy then s
    else
      let s1 := b.slots.foldl (fun s p => demoteSlot s bank p.1) s
      let s2 := s1.modBank bank fun b => { b with shmode := b.shNew, shNew := 0, shBusy := false }
      loseShelf s2 bank (shelfRows (s2.bank bank)))

/-- The logical address of a sector of a physical row: none where a physical row serves no logical one now (R58, R64). -/
def logicalOf (b : Bank) (bk cls row : Nat) : Option Nat :=
  let deep := fun d => some (bankLocal (bk / 768) (bk % 768) 0 d 0)
  if cls = 1 then
    match SMap.find? b.slots row with
    | some x => deep x.row
    | none => if row < shelfRows b then some (bankLocal (bk / 768) (bk % 768) 1 row 0) else none
  else
    let d := match List.find? (fun p => p.2 == row) b.remap with
      | some (d, _) => some d
      | none => if row < deepRows ∧ (SMap.find? b.remap row).isNone then some row else none
    match d with
    | some d => if (slotOfRow b d).isSome then none else deep d
    | none => none

/-- One sector of a physical row read through its code by the controller (R399, R401): whether it fails to correct. -/
def scrubSector (s : State) (bk cls row i : Nat) : Bool × State :=
  let a := logicalOf (s.bank bk) bk cls row
  let count := fun (s : State) (ok : Bool) => countBank s bk (if ok then corrOff bk else corrOff bk + 4)
  let (bad, s1) := readCode s (rowSector bk cls row + i) 64 (a.getD 0 + 64 * i) count
  (bad, if a.isSome then s1 else { s1 with mem := s.mem })

/-- The sixteen sectors of an old row read, and those that fail to correct written to the new one with a poison mark
(R68). -/
def retireCopy (s : State) (bk old new : Nat) : State :=
  (List.range 16).foldl (fun s i =>
    let key := rowSector bk 0 new + i
    let (bad, s1) := scrubSector s bk 0 old i
    let p := s1.poison.filter (· != key)
    { s1 with poison := if bad then key :: p else p, upsets := SMap.del s1.upsets key }) s

/-- The logical row that is mapped to a physical one (R64). -/
def rowOwner (b : Bank) (p : Nat) : Option Nat :=
  match List.find? (fun x => x.2 == p) b.remap with
  | some (d, _) => some d
  | none => if p < deepRows ∧ (SMap.find? b.remap p).isNone then some p else none

/-- GO in BKRETIRE (R68): the retirement, whose BUSY ends with its occupancy. An accepted GO leaves REFUSED as it is: DESIGN
CHOICE, log entry 71. -/
def retireGo (s : State) (bk p : Nat) : State :=
  let b := s.bank bk
  let refuse := s.setBank bk { b with rtRefused := true }
  let leave := fun b : Bank => { b with retired := b.retired ++ [p], rtBusy := true, rtRow := p }
  if b.rtBusy ∨ physRows ≤ p ∨ b.retired.contains p ∨ bankInStep s bk then refuse
  else match rowOwner b p with
    | none => s.setBank bk (leave b)
    | some d =>
      match poolRow b (p % 128) with
      | none => refuse
      | some q => (retireCopy s bk p q).modBank bk fun b => leave (setMap b d q)

/-- A write to BKRETIRE (R54, R68). -/
def writeBkretire (s : State) (bk v : Nat) (w1 : Nat) : State :=
  let s1 := s.modBank bk fun b => { b with prow := fld v 0 16, rtRefused := b.rtRefused && !bit w1 18 }
  if bit w1 16 then retireGo s1 bk (fld v 0 16) else s1

/-- ROW_RETIRE_GO (R68). -/
def execRowRetireGo (bank prow : Nat) (s : State) : Host.Outcome State Fault Refusal :=
  .next (writeBkretire s bank (prow % 65536 + 65536) 65536)

/-- The RETROWS counter (R407). -/
def ctrRetrows : Nat := 0

/-- ROW_RETIRE_DONE (R68): BUSY clears and the row is recorded. -/
def execRowRetireDone (bank : Nat) (s : State) : Host.Outcome State Fault Refusal :=
  let b := s.bank bank
  .next (if !b.rtBusy then s
    else
      let die := bank / 1536
      let s1 := s.setBank bank { b with rtBusy := false, rtRow := 0 }
      countDie (s1.modDie die fun d => { d with retired := d.retired ++ [(bank % 1536, b.rtRow)] }) die ctrRetrows 1)

/-! ## Refresh and the patrol scrubber -/

/-- REFRESH (R52): the bank's next refresh, once it is due, which changes no slot (R57). -/
def execRefresh (bank : Nat) (s : State) : Host.Outcome State Fault Refusal :=
  .next (if ((s.bank bank).refreshes + 1) * 3413 ≤ newtCycles s then
      s.modBank bank fun b => { b with refreshes := b.refreshes + 1 }
    else s)

/-- PATROL_SCRUB (R401): the next row of a bank, deep rows first and then the shelf, is read and corrected, unless the bank is
busy or in a step that runs. -/
def execPatrolScrub (bank : Nat) (s : State) : Host.Outcome State Fault Refusal :=
  let b := s.bank bank
  .next (if b.shBusy || b.rtBusy || bankLive s bank then s
    else
      let r := b.scrubRow % (physRows + 4096)
      let (cls, row) := if r < physRows then (0, r) else (1, r - physRows)
      let s1 := (List.range 16).foldl (fun s i => (scrubSector s bank cls row i).2) s
      s1.modBank bank fun b => { b with scrubRow := (r + 1) % (physRows + 4096) })

/-- The bank control block as read (R54). -/
def bankReg (s : State) (bk off : Nat) : Nat :=
  let b := s.bank bk
  match off with
  | 0 => b.shmode + (b2n b.shBusy <<< 4) + (b2n b.shRefused <<< 5) + (b2n b.fenced <<< 6)
  | 8 => poolFree b + (poolMin b <<< 16) + (b.slots.length <<< 24) + ((b.slots.filter fun p => p.2.pin).length <<< 40)
  | 16 => b.prow + (b2n b.rtBusy <<< 17) + (b2n b.rtRefused <<< 18)
  | _ => 0

end Sys2Proof.Machine
end

