-- ==== Sys2Proof/Machine/Vector.lean ====
section
/-! DEFINITION. Vector arithmetic, logic, comparison, moves, conversion, dot products, reductions, scans and permutations
(R266 to R286). -/

namespace Sys2Proof.Machine
open Sys2Proof

/-! ## Shapes -/

/-- A type that vector instructions take: not S64 or U64 (R266). -/
def vecType (t : ElemType) : Bool := !t.is64

/-- The types of major 0x50: 0 to 7 and 9 to 11 (R272). -/
def arithType (t : ElemType) : Bool := vecType t && t != .e4m3

/-- The integer types 0 to 7. -/
def intType (t : ElemType) : Bool := vecType t && t.isInt

/-- The activity of each element of a type under a mask field (R267). -/
def actives (s : State) (t : ElemType) (mask : BitVec 3) : List Bool := maskBits t.count (maskOf s mask)

/-- Element results placed in a register under the mask (R267). -/
def vMerge (s : State) (t : ElemType) (dst : VReg) (mask : BitVec 3) (z : Bool) (es : List Nat) : Vec :=
  vOf t (mergeElems z (actives s t mask) (vElems t (s.rv dst)) es)

/-- An instruction that writes one vector register, with its flags. -/
def putV (s : State) (ok : Bool) (dst : VReg) (v : Vec) (flags : Nat) : Host.Outcome State Fault Refusal :=
  run s (if ok then .ok (raiseFlags (s.setV dst v) flags) else .error illegal)

/-- An element-wise instruction of one source. -/
def vecOp1 (s : State) (ok : Bool) (t : ElemType) (dst a : VReg) (mask : BitVec 3) (z : Bool) (f : Nat → Nat × Nat) :
    Host.Outcome State Fault Refusal :=
  let r := mapActive1 f (actives s t mask) (vElems t (s.rv a))
  putV s ok dst (vMerge s t dst mask z r.1) r.2

/-- An element-wise instruction of two sources. -/
def vecOp2 (s : State) (ok : Bool) (t : ElemType) (dst a b : VReg) (mask : BitVec 3) (z : Bool)
    (f : Nat → Nat → Nat × Nat) : Host.Outcome State Fault Refusal :=
  let r := mapActive2 f (actives s t mask) (vElems t (s.rv a)) (vElems t (s.rv b))
  putV s ok dst (vMerge s t dst mask z r.1) r.2

/-- An element-wise instruction of three sources. -/
def vecOp3 (s : State) (ok : Bool) (t : ElemType) (dst a b c : VReg) (mask : BitVec 3) (z : Bool)
    (f : Nat → Nat → Nat → Nat × Nat) : Host.Outcome State Fault Refusal :=
  let r := mapActive3 f (actives s t mask) (vElems t (s.rv a)) (vElems t (s.rv b)) (vElems t (s.rv c))
  putV s ok dst (vMerge s t dst mask z r.1) r.2

/-! ## Arithmetic -/

/-- An integer element operation: exact, then made to fit (R273). -/
def intOp2 (t : ElemType) (sat : Bool) (f : Int → Int → Int) (a b : Nat) : Nat × Nat :=
  (fitInt t sat (f (intOf t a) (intOf t b)), 0)

/-- The element operation of VADD (R272 to R274). -/
def elAdd (t : ElemType) (c : FpCtl) (sat : Bool) (a b : Nat) : Nat × Nat :=
  if t.isFloat then fpAdd t c a b else intOp2 t sat (· + ·) a b
/-- The element operation of VSUB. -/
def elSub (t : ElemType) (c : FpCtl) (sat : Bool) (a b : Nat) : Nat × Nat :=
  if t.isFloat then fpSub t c a b else intOp2 t sat (· - ·) a b
/-- The element operation of VMUL. -/
def elMul (t : ElemType) (c : FpCtl) (sat : Bool) (a b : Nat) : Nat × Nat :=
  if t.isFloat then fpMul t c a b else intOp2 t sat (· * ·) a b
/-- The element operation of VFMA. -/
def elFma (t : ElemType) (c : FpCtl) (sat : Bool) (a b d : Nat) : Nat × Nat :=
  if t.isFloat then fpFma t c a b d else (fitInt t sat (intOf t a * intOf t b + intOf t d), 0)
/-- The element operation of VMIN and VMAX. -/
def elMinMax (t : ElemType) (c : FpCtl) (isMax : Bool) (a b : Nat) : Nat × Nat :=
  if t.isFloat then fpMinMax t c isMax a b
  else (if decide (intOf t a < intOf t b) != isMax then a else b, 0)
/-- The element operation of VABS. -/
def elAbs (t : ElemType) (c : FpCtl) (sat : Bool) (a : Nat) : Nat × Nat :=
  if t.isFloat then fpSign t c false a else (fitInt t sat (intOf t a).natAbs, 0)
/-- The element operation of VNEG. -/
def elNeg (t : ElemType) (c : FpCtl) (sat : Bool) (a : Nat) : Nat × Nat :=
  if t.isFloat then fpSign t c true a else (fitInt t sat (-(intOf t a)), 0)

/-- VADD (R272). -/
def execVadd (ty : ElemType) (dst a b : VReg) (mask : BitVec 3) (z : Bool) (rnd : Rounding) (fzi fzo sat : Bool)
    (s : State) : Host.Outcome State Fault Refusal :=
  vecOp2 s (arithType ty) ty dst a b mask z (elAdd ty (fpCtl s rnd fzi fzo) sat)
/-- VSUB (R272). -/
def execVsub (ty : ElemType) (dst a b : VReg) (mask : BitVec 3) (z : Bool) (rnd : Rounding) (fzi fzo sat : Bool)
    (s : State) : Host.Outcome State Fault Refusal :=
  vecOp2 s (arithType ty) ty dst a b mask z (elSub ty (fpCtl s rnd fzi fzo) sat)
/-- VMUL (R272). -/
def execVmul (ty : ElemType) (dst a b : VReg) (mask : BitVec 3) (z : Bool) (rnd : Rounding) (fzi fzo sat : Bool)
    (s : State) : Host.Outcome State Fault Refusal :=
  vecOp2 s (arithType ty) ty dst a b mask z (elMul ty (fpCtl s rnd fzi fzo) sat)
/-- VFMA (R272): one rounding. -/
def execVfma (ty : ElemType) (dst a b c : VReg) (mask : BitVec 3) (z : Bool) (rnd : Rounding) (fzi fzo sat : Bool)
    (s : State) : Host.Outcome State Fault Refusal :=
  vecOp3 s (arithType ty) ty dst a b c mask z (elFma ty (fpCtl s rnd fzi fzo) sat)
/-- VMIN (R272). -/
def execVmin (ty : ElemType) (dst a b : VReg) (mask : BitVec 3) (z : Bool) (rnd : Rounding) (fzi fzo _sat : Bool)
    (s : State) : Host.Outcome State Fault Refusal :=
  vecOp2 s (arithType ty) ty dst a b mask z (elMinMax ty (fpCtl s rnd fzi fzo) false)
/-- VMAX (R272). -/
def execVmax (ty : ElemType) (dst a b : VReg) (mask : BitVec 3) (z : Bool) (rnd : Rounding) (fzi fzo _sat : Bool)
    (s : State) : Host.Outcome State Fault Refusal :=
  vecOp2 s (arithType ty) ty dst a b mask z (elMinMax ty (fpCtl s rnd fzi fzo) true)
/-- VABS (R272). -/
def execVabs (ty : ElemType) (dst a : VReg) (mask : BitVec 3) (z : Bool) (rnd : Rounding) (fzi fzo sat : Bool)
    (s : State) : Host.Outcome State Fault Refusal :=
  vecOp1 s (arithType ty) ty dst a mask z (elAbs ty (fpCtl s rnd fzi fzo) sat)
/-- VNEG (R272). -/
def execVneg (ty : ElemType) (dst a : VReg) (mask : BitVec 3) (z : Bool) (rnd : Rounding) (fzi fzo sat : Bool)
    (s : State) : Host.Outcome State Fault Refusal :=
  vecOp1 s (arithType ty) ty dst a mask z (elNeg ty (fpCtl s rnd fzi fzo) sat)

/-! ## Logic and shifts -/

/-- VAND (R275). -/
def execVand (ty : ElemType) (dst a b : VReg) (mask : BitVec 3) (z : Bool) (s : State) :
    Host.Outcome State Fault Refusal := vecOp2 s (vecType ty) ty dst a b mask z fun x y => (x &&& y, 0)
/-- VOR (R275). -/
def execVor (ty : ElemType) (dst a b : VReg) (mask : BitVec 3) (z : Bool) (s : State) :
    Host.Outcome State Fault Refusal := vecOp2 s (vecType ty) ty dst a b mask z fun x y => (x ||| y, 0)
/-- VXOR (R275). -/
def execVxor (ty : ElemType) (dst a b : VReg) (mask : BitVec 3) (z : Bool) (s : State) :
    Host.Outcome State Fault Refusal := vecOp2 s (vecType ty) ty dst a b mask z fun x y => (x ^^^ y, 0)

/-- A vector shift: by the elements of the second source, or by an immediate, mod the width (R275). -/
def vecShift (s : State) (ty : ElemType) (dst a b : VReg) (mask : BitVec 3) (z immk : Bool) (k : BitVec 5)
    (f : Nat → Nat → Nat) : Host.Outcome State Fault Refusal :=
  if immk then vecOp1 s (intType ty) ty dst a mask z fun x => (f x (k.toNat % ty.width), 0)
  else vecOp2 s (intType ty) ty dst a b mask z fun x y => (f x (y % ty.width), 0)

/-- VSHL (R275). -/
def execVshl (ty : ElemType) (dst a b : VReg) (mask : BitVec 3) (z immk : Bool) (k : BitVec 5) (s : State) :
    Host.Outcome State Fault Refusal := vecShift s ty dst a b mask z immk k fun x n => (x <<< n) % 2 ^ ty.width
/-- VSHR (R275). -/
def execVshr (ty : ElemType) (dst a b : VReg) (mask : BitVec 3) (z immk : Bool) (k : BitVec 5) (s : State) :
    Host.Outcome State Fault Refusal := vecShift s ty dst a b mask z immk k fun x n => x >>> n
/-- VSAR (R275): arithmetic on the element's bits, whatever the type's signedness. -/
def execVsar (ty : ElemType) (dst a b : VReg) (mask : BitVec 3) (z immk : Bool) (k : BitVec 5) (s : State) :
    Host.Outcome State Fault Refusal :=
  vecShift s ty dst a b mask z immk k fun x n => wrapN ty.width (signedOf ty.width x / 2 ^ n)

/-! ## Comparison, selection and moves -/

/-- The element comparison of VCMP (R276). -/
def elCmp (t : ElemType) (p : Pred) (a b : Nat) : Nat × Nat :=
  if t.isFloat then let r := fpCompare t {} p a b; (b2n r.1, r.2)
  else
    let x := intOf t a
    let y := intOf t b
    (b2n (match p with
      | .eq => decide (x = y)
      | .lt => decide (x < y)
      | .le => decide (x ≤ y)
      | .un => false
      | .ne => decide (x ≠ y)), 0)

/-- VCMP (R276): the bits from n on become 0. -/
def execVcmp (ty : ElemType) (dst : MReg) (a b : VReg) (p : Pred) (mask : BitVec 3) (z : Bool) (s : State) :
    Host.Outcome State Fault Refusal :=
  let bs := actives s ty mask
  let r := mapActive2 (elCmp ty p) bs (vElems ty (s.rv a)) (vElems ty (s.rv b))
  let es := mergeElems z bs (unpackElems 1 ty.count (s.rm dst).toNat) r.1
  run s (if vecType ty && !(ty.isInt && p == .un) then
      .ok (raiseFlags (s.setM dst (BitVec.ofNat 1024 (packElems 1 es))) r.2)
    else .error illegal)

/-- Chooses element-wise by a list of Booleans. -/
def choose : List Bool → List Nat → List Nat → List Nat
  | b :: bs, x :: xs, y :: ys => (if b then x else y) :: choose bs xs ys
  | _, _, _ => []

/-- VSEL (R277). -/
def execVsel (ty : ElemType) (dst a b : VReg) (mc : MReg) (mask : BitVec 3) (z : Bool) (s : State) :
    Host.Outcome State Fault Refusal :=
  let r := choose (maskBits ty.count (s.rm mc).toNat) (vElems ty (s.rv a)) (vElems ty (s.rv b))
  putV s (vecType ty) dst (vMerge s ty dst mask z r) 0

/-- VMOV between vector registers (R277). -/
def execVmov (ty : ElemType) (dst a : VReg) (mask : BitVec 3) (z : Bool) (s : State) :
    Host.Outcome State Fault Refusal := vecOp1 s (vecType ty) ty dst a mask z fun x => (x, 0)

/-- VMOV to a mask register (R277). -/
def execVmovToMask (dst : MReg) (a : VReg) (s : State) : Host.Outcome State Fault Refusal :=
  run s (.ok (s.setM dst ((s.rv a).extractLsb' 0 1024)))

/-- VMOV from a mask register (R277). -/
def execVmovFromMask (dst : VReg) (a : MReg) (s : State) : Host.Outcome State Fault Refusal :=
  run s (.ok (s.setV dst ((s.rm a).zeroExtend 4096)))

/-- VMOVS to a scalar (R277). -/
def execVmovsToScalar (ty : ElemType) (dst : SReg) (a : VReg) (k : SReg) (s : State) :
    Host.Outcome State Fault Refusal :=
  run s (if vecType ty then
      .ok (s.setS dst (extendElem ty (elemOf ty.width (s.rv a).toNat ((s.rs k).toNat % ty.count))))
    else .error illegal)

/-- VMOVS to a vector element (R277). -/
def execVmovsToVector (ty : ElemType) (dst : VReg) (a k : SReg) (s : State) : Host.Outcome State Fault Refusal :=
  let i := (s.rs k).toNat % ty.count
  putV s (vecType ty) dst
    (BitVec.ofNat 4096 (setFld (s.rv dst).toNat (ty.width * i) ty.width (lowElem ty (s.rs a)))) 0

/-- VBCAST (R277). -/
def execVbcast (ty : ElemType) (dst : VReg) (a : SReg) (mask : BitVec 3) (z : Bool) (s : State) :
    Host.Outcome State Fault Refusal :=
  putV s (vecType ty) dst (vMerge s ty dst mask z (List.replicate ty.count (lowElem ty (s.rs a)))) 0

/-- The number of active elements below each element. -/
def countsBelow : Nat → List Bool → List Nat
  | _, [] => []
  | c, b :: bs => c :: countsBelow (c + b2n b) bs

/-- VIOTA (R277). -/
def execViota (ty : ElemType) (dst : VReg) (a : SReg) (mask : BitVec 3) (z : Bool) (s : State) :
    Host.Outcome State Fault Refusal :=
  let base := (s.rs a).toNat
  putV s (intType ty) dst
    (vMerge s ty dst mask z ((countsBelow 0 (actives s ty mask)).map fun c => (base + c) % 2 ^ ty.width)) 0

/-! ## Conversion, widening and narrowing -/

/-- Results written to a group of k registers of elements of type t under a mask, with their flags (R267, R268). -/
def putGroup (s : State) (t : ElemType) (dst : VReg) (k : Nat) (bs : List Bool) (z : Bool) (es : List Nat)
    (flags : Nat) : Res State :=
  .ok (raiseFlags (setVs s (groupWrites t dst k (mergeElems z bs (groupElems s t dst k) es))) flags)

/-- VCVT (R278): the narrower type is in one register and the wider in a single register, pair or quad. -/
def execVcvt (ty : ElemType) (dst a : VReg) (src : ElemType) (mask : BitVec 3) (z : Bool) (rnd : Rounding)
    (fzi fzo sat nov : Bool) (s : State) : Host.Outcome State Fault Refusal :=
  let n := max ty.count src.count
  let kd := regsFor n ty.width
  let ks := regsFor n src.width
  let bs := maskBits n (maskOf s mask)
  let r := mapActive1 (convertElem ty src { fpCtl s rnd fzi fzo with nov := nov } sat) bs (groupElems s src a ks)
  run s (if vecType ty && vecType src && decide (kd ≤ 4) && decide (ks ≤ 4) && groupOk dst kd && groupOk a ks then
      putGroup s ty dst kd bs z r.1 r.2
    else .error illegal)

/-- The wider type of VWMUL and VWADD (R279). -/
def wideOf : ElemType → Option ElemType
  | .s4 => some .s8 | .s8 => some .s16 | .s16 => some .s32
  | .u4 => some .u8 | .u8 => some .u16 | .u16 => some .u32
  | .e4m3 => some .bf16 | .bf16 => some .fp32 | .fp16 => some .fp32
  | .s32 | .u32 | .fp32 | .s64 | .u64 => none

/-- A widening instruction (R279). -/
def vecWiden (s : State) (ty : ElemType) (dst a b : VReg) (mask : BitVec 3) (z : Bool) (c : FpCtl)
    (fi : Int → Int → Int) (ff : Fp → Fp → Fp × Bool) : Host.Outcome State Fault Refusal :=
  run s (match wideOf ty with
    | none => .error illegal
    | some w =>
      let f := fun x y => if ty.isFloat then roundOut w c (ff (fpIn ty c x) (fpIn ty c y))
        else (wrapN w.width (fi (intOf ty x) (intOf ty y)), 0)
      let bs := actives s ty mask
      let r := mapActive2 f bs (vElems ty (s.rv a)) (vElems ty (s.rv b))
      if groupOk dst 2 then putGroup s w dst 2 bs z r.1 r.2 else .error illegal)

/-- VWMUL (R279). -/
def execVwmul (ty : ElemType) (dst a b : VReg) (mask : BitVec 3) (z : Bool) (rnd : Rounding) (fzi fzo : Bool)
    (s : State) : Host.Outcome State Fault Refusal :=
  vecWiden s ty dst a b mask z (fpCtl s rnd fzi fzo) (· * ·) mulFp

/-- VWADD (R279). -/
def execVwadd (ty : ElemType) (dst a b : VReg) (mask : BitVec 3) (z : Bool) (rnd : Rounding) (fzi fzo : Bool)
    (s : State) : Host.Outcome State Fault Refusal :=
  vecWiden s ty dst a b mask z (fpCtl s rnd fzi fzo) (· + ·) (addFp (modeOf s rnd))

/-- The quotient by 2^sh made an integer: 0 down, 1 nearest with ties up, 2 nearest with ties to even (R280). -/
def narrowShift (mode sh : Nat) (x : Int) : Int :=
  let q := x / 2 ^ sh
  let r := x % 2 ^ sh
  if sh = 0 ∨ mode = 0 then q
  else
    let half : Int := 2 ^ (sh - 1)
    if half < r ∨ (r = half ∧ (mode = 1 ∨ q % 2 ≠ 0)) then q + 1 else q

/-- VNARROW (R280). -/
def execVnarrow (ty : ElemType) (dst a : VReg) (sh : BitVec 5) (mode : BitVec 2) (mask : BitVec 3) (z sat : Bool)
    (s : State) : Host.Outcome State Fault Refusal :=
  run s (match if ty.isFloat then none else wideOf ty with
    | none => .error illegal
    | some w =>
      let r := mapActive1 (fun x => (fitInt ty sat (narrowShift mode.toNat sh.toNat (intOf w x)), 0))
        (actives s ty mask) (groupElems s w a 2)
      if decide (sh.toNat < w.width) && groupOk a 2 then .ok (s.setV dst (vMerge s ty dst mask z r.1))
      else .error illegal)

/-! ## Dot products, reductions and scans -/

/-- A vector or reduction result of a long-latency instruction with its flags and destination set (R213, R214). -/
def longFp (s : State) (la : BitVec 4) (ok float : Bool) (dst : RegName) (w : RegWrite) (flags : Nat) :
    Host.Outcome State Fault Refusal :=
  runLong s la (if float then [dst, .fpflags] else [dst])
    (if ok then .ok (s, if float then [w, .fpflags flags] else [w]) else .error illegal)

/-- The exact terms of a float dot product, with the flags of their multiplications (R282). -/
def dotTerms (t : ElemType) (c : FpCtl) : List Nat → List Nat → List (Option Fp) × Nat
  | x :: xs, y :: ys =>
    let (r, g) := dotTerms t c xs ys
    let (p, inv) := mulFp (fpIn t c x) (fpIn t c y)
    (some p :: r, g ||| flagIf inv flagNV)
  | _, _ => ([], 0)

/-- An integer sum of 64 bits: wrapped, or saturated to S64 or U64 by the type's signedness (R282, R283). -/
def fitSum (t : ElemType) (sat : Bool) (x : Int) : Nat :=
  if sat then (if t.signed then satS 64 x else satU 64 x) else wrapN 64 x

/-- VDOT (R282). -/
def execVdot (la : BitVec 4) (ty : ElemType) (dst : SReg) (a b : VReg) (len : SReg) (rnd : Rounding)
    (fzi fzo sat : Bool) (s : State) : Host.Outcome State Fault Refusal :=
  let n := (s.rs len).toNat
  let c := fpCtl s rnd fzi fzo
  let xs := (vElems ty (s.rv a)).take n
  let ys := (vElems ty (s.rv b)).take n
  let r := if ty.isFloat then
      let (q, f) := dotTerms ty c xs ys
      let (v, g) := orderedTree c q
      (v, f ||| g)
    else (fitSum ty sat ((xs.zip ys).foldl (fun acc p => acc + intOf ty p.1 * intOf ty p.2) 0), 0)
  longFp s la (vecType ty && decide (n ≤ ty.count)) ty.isFloat (.s dst) (.s dst (wd r.1)) r.2

/-- The elements that are active. -/
def activeOnes : List Bool → List Nat → List Nat
  | b :: bs, x :: xs => if b then x :: activeOnes bs xs else activeOnes bs xs
  | _, _ => []

/-- The elements as terms of the ordered tree: inactive ones are absent (R283). -/
def redTerms (t : ElemType) (c : FpCtl) : List Bool → List Nat → List (Option Fp)
  | b :: bs, x :: xs => (if b then some (fpIn t c x) else none) :: redTerms t c bs xs
  | _, _ => []

/-- The operations that VRED and VSCAN take for a type: 0 SUM, 1 MIN, 2 MAX, 3 AND, 4 OR, 5 XOR (R283). -/
def redOk (t : ElemType) (op : Nat) : Bool :=
  vecType t && (t.isInt || (op == 0 || ((op == 1 || op == 2) && t != .e4m3)))

/-- The value of a reduction without terms, for MIN to XOR (R283). DEDUCED, log entry 22. -/
def redInit (t : ElemType) (op : Nat) : Nat :=
  if t.isFloat then (fmtOf t).inf (op == 2)
  else match op with
    | 1 => wrapN t.width (intHi t)
    | 2 => wrapN t.width (intLo t)
    | 3 => ones t.width
    | _ => 0

/-- One step of MIN to XOR (R283, R284). -/
def redStep (t : ElemType) (c : FpCtl) (op : Nat) (acc x : Nat) : Nat × Nat :=
  match op with
  | 1 => elMinMax t c false acc x
  | 2 => elMinMax t c true acc x
  | 3 => (acc &&& x, 0)
  | 4 => (acc ||| x, 0)
  | _ => (acc ^^^ x, 0)

/-- VRED (R283). -/
def execVred (la : BitVec 4) (ty : ElemType) (dst : SReg) (a : VReg) (op mask : BitVec 3) (rnd : Rounding)
    (fzi fzo sat : Bool) (s : State) : Host.Outcome State Fault Refusal :=
  let c := fpCtl s rnd fzi fzo
  let bs := actives s ty mask
  let xs := vElems ty (s.rv a)
  let r : Word × Nat :=
    if op = 0#3 then
      if ty.isFloat then let r := orderedTree c (redTerms ty c bs xs); (wd r.1, r.2)
      else (wd (fitSum ty sat ((activeOnes bs xs).foldl (fun acc x => acc + intOf ty x) 0)), 0)
    else
      let (v, f) := (activeOnes bs xs).foldl (fun (v, f) x => let (y, g) := redStep ty c op.toNat v x; (y, f ||| g))
        (redInit ty op.toNat, 0)
      (extendElem ty v, f)
  longFp s la (redOk ty op.toNat) ty.isFloat (.s dst) (.s dst r.1) r.2

/-- One step of a scan (R284). -/
def scanStep (t : ElemType) (c : FpCtl) (sat : Bool) (op acc x : Nat) : Nat × Nat :=
  if op = 0 then elAdd t c sat acc x else redStep t c op acc x

/-- The results of a scan (R284). -/
def scanElems (f : Nat → Nat → Nat × Nat) (excl : Bool) : Nat → List Bool → List Nat → List Nat × Nat
  | acc, b :: bs, x :: xs =>
    if b then
      let (y, g) := f acc x
      let (r, h) := scanElems f excl y bs xs
      ((if excl then acc else y) :: r, g ||| h)
    else
      let (r, h) := scanElems f excl acc bs xs
      (0 :: r, h)
  | _, _, _ => ([], 0)

/-- VSCAN (R284). -/
def execVscan (la : BitVec 4) (ty : ElemType) (dst a : VReg) (init : SReg) (op mask : BitVec 3) (z : Bool)
    (rnd : Rounding) (fzi fzo sat excl : Bool) (s : State) : Host.Outcome State Fault Refusal :=
  let r := scanElems (scanStep ty (fpCtl s rnd fzi fzo) sat op.toNat) excl (lowElem ty (s.rs init))
    (actives s ty mask) (vElems ty (s.rv a))
  longFp s la (redOk ty op.toNat && ty != .e4m3) ty.isFloat (.v dst) (.v dst (vMerge s ty dst mask z r.1)) r.2

/-! ## Permutation, compression and expansion -/

/-- The elements at given positions, each mod n. -/
def pick (w n x : Nat) (js : List Nat) : List Nat := js.map fun j => elemOf w x (j % n)

/-- VPERM (R285): 8-bit types take their indices as U16 elements of a pair. -/
def execVperm (ty : ElemType) (dst a b : VReg) (mask : BitVec 3) (z : Bool) (s : State) :
    Host.Outcome State Fault Refusal :=
  let js := if ty.width = 8 then vElems .u16 (s.rv b) ++ vElems .u16 (s.rv (vPlus b 1)) else vElems ty (s.rv b)
  putV s (vecType ty && ty.width != 4 && (ty.width != 8 || groupOk b 2)) dst
    (vMerge s ty dst mask z (pick ty.width ty.count (s.rv a).toNat js)) 0

/-- VROT (R285). -/
def execVrot (ty : ElemType) (dst a : VReg) (k : SReg) (mask : BitVec 3) (z : Bool) (s : State) :
    Host.Outcome State Fault Refusal :=
  let r := ((s.rs k).toInt % (ty.count : Int)).toNat
  putV s (vecType ty) dst
    (vMerge s ty dst mask z (pick ty.width ty.count (s.rv a).toNat ((List.range ty.count).map (· + r)))) 0

/-- VCOMPR (R286): the elements beyond the active ones are kept or zeroed. -/
def execVcompr (ty : ElemType) (dst a : VReg) (mask : BitVec 3) (z : Bool) (s : State) :
    Host.Outcome State Fault Refusal :=
  let xs := activeOnes (actives s ty mask) (vElems ty (s.rv a))
  let rest := if z then [] else (vElems ty (s.rv dst)).drop xs.length
  putV s (vecType ty) dst (vOf ty (xs ++ rest)) 0

/-- VEXPAND (R286). -/
def execVexpand (ty : ElemType) (dst a : VReg) (mask : BitVec 3) (z : Bool) (s : State) :
    Host.Outcome State Fault Refusal :=
  putV s (vecType ty) dst
    (vMerge s ty dst mask z (pick ty.width ty.count (s.rv a).toNat (countsBelow 0 (actives s ty mask)))) 0

end Sys2Proof.Machine
end

