-- ==== Sys2Proof/Machine/Special.lean ====
section
/-! DEFINITION. Special functions (R287 to R289). A result that R288 leaves open is a free value within its bound: the
thresholds of Config choose among the values that the bound, the exact results and the order of f leave, so the results are
monotonic whatever the thresholds are (log entry 13). -/

namespace Sys2Proof.Machine
open Sys2Proof

/-- The eight functions, by their minor opcodes (R287). -/
inductive SpecialFn where
  | exp2 | exp | log2 | log | rcp | rsq | sqrt | tanh
  deriving DecidableEq, Repr

/-- The minor opcode (R287). -/
def SpecialFn.code : SpecialFn → Nat
  | .exp2 => 1 | .exp => 2 | .log2 => 3 | .log => 4 | .rcp => 5 | .rsq => 6 | .sqrt => 7 | .tanh => 8

/-! ## Fixed-point approximations, of 192 fraction bits -/

/-- One in fixed point. -/
def fxOne : Nat := 2 ^ 192

/-- The exponential series of t in [0, 1), by its terms from the k-th down. -/
def expSeries (t : Nat) : Nat → Nat → Nat
  | 0, r => r
  | k + 1, r => expSeries t k (fxOne + t * r / (fxOne * (k + 1)))

/-- e^t for t in [0, 1). -/
def fxExp (t : Nat) : Nat := expSeries t 48 fxOne

/-- The series of atanh by its terms from the i-th down, z2 being the square of the argument. -/
def atanhSeries (z2 : Nat) : Nat → Nat → Nat
  | 0, r => fxOne + z2 * r / fxOne
  | i + 1, r => atanhSeries z2 i (fxOne / (2 * i + 3) + z2 * r / fxOne)

/-- ln of (1 + z) / (1 − z). -/
def fxAtanh2 (z : Nat) : Nat := 2 * (z * atanhSeries (z * z / fxOne) 64 0 / fxOne)

/-- ln 2. -/
def fxLn2 : Nat := fxAtanh2 (fxOne / 3)

/-- ln of a mantissa in [1, 2). -/
def fxLn (m : Nat) : Nat := fxAtanh2 ((m - fxOne) * fxOne / (m + fxOne))

/-- The integer square root, by deciding its n lowest bits from the top. -/
def isqrtAux (x : Nat) : Nat → Nat → Nat
  | 0, r => r
  | n + 1, r => isqrtAux x n (if (r + 2 ^ n) * (r + 2 ^ n) ≤ x then r + 2 ^ n else r)

/-- The integer square root. -/
def isqrt (x : Nat) : Nat := isqrtAux x (Nat.log2 x / 2 + 1) 0

/-! ## f(x) exactly and closely -/

/-- A finite value in fixed point, of moderate size. -/
def fxOf (neg : Bool) (m : Nat) (e : Int) : Int := scaleTo neg m (e + 192) 0

/-- The magnitude of a finite value is at least 2^k. -/
def atLeast (m : Nat) (e k : Int) : Bool := m != 0 && decide (k ≤ e + Nat.log2 m)

/-- A magnitude in fixed point with an exponent: m · 2^e. -/
abbrev Approx := Bool × Nat × Int

/-- e^x, closely. -/
def approxExp (neg : Bool) (m : Nat) (e : Int) : Approx :=
  if atLeast m e 11 then (false, 1, if neg then -2000 else 2000)
  else
    let x := fxOf neg m e
    let q := x / fxLn2
    (false, fxExp (x - q * fxLn2).toNat, q - 192)

/-- 2^x, closely. -/
def approxExp2 (neg : Bool) (m : Nat) (e : Int) : Approx :=
  if atLeast m e 11 then (false, 1, if neg then -2000 else 2000)
  else
    let x := fxOf neg m e
    let q := x / fxOne
    (false, fxExp ((x - q * fxOne).toNat * fxLn2 / fxOne), q - 192)

/-- ln x in fixed point, closely. -/
def approxLn (m : Nat) (e : Int) : Int :=
  let k := Nat.log2 m
  (e + k) * fxLn2 + fxLn (m * 2 ^ (192 - k))

/-- A fixed-point number as an approximation. -/
def approxOfInt (x : Int) : Approx := (decide (x < 0), x.natAbs, -192)

/-- A magnitude with an even exponent. -/
def evenExp (m : Nat) (e : Int) : Nat × Int := if e % 2 = 0 then (m, e) else (2 * m, e - 1)

/-- f(x) for a finite non-zero x in its domain, within a relative error of 2^−60. -/
def approxOf (fn : SpecialFn) (neg : Bool) (m : Nat) (e : Int) : Approx :=
  match fn with
  | .exp2 => approxExp2 neg m e
  | .exp => approxExp neg m e
  | .log2 => approxOfInt (approxLn m e * fxOne / fxLn2)
  | .log => approxOfInt (approxLn m e)
  | .rcp => (neg, 2 ^ 224 / m, -224 - e)
  | .rsq => let (k, j) := evenExp m e; (false, isqrt (2 ^ 448 / k), -224 - j / 2)
  | .sqrt => let (k, j) := evenExp m e; (false, isqrt (k * 2 ^ 320), j / 2 - 160)
  | .tanh =>
    if !atLeast m e (-30) then (neg, m * 2 ^ 64 - 1, e - 64)
    else if atLeast m e 7 then (neg, fxOne - 1, -192)
    else
      let (_, n, k) := approxExp false (2 * m) e
      let y := n * 2 ^ (k + 192).toNat
      (neg, (y - fxOne) * fxOne / (y + fxOne), -192)

/-- f(x) where it is a dyadic number (R288): no other value of f is representable. -/
def exactOf (fn : SpecialFn) (neg : Bool) (m : Nat) (e : Int) : Option (Bool × Nat × Int) :=
  let k := Nat.log2 m
  let pow2 := m == 2 ^ k
  match fn with
  | .exp2 =>
    let i := roundInt .rtz neg m e
    if atLeast m e 11 || i.2 then none else some (false, 1, i.1)
  | .exp | .tanh => none
  | .log2 => if pow2 then some (decide (e + k < 0), (e + k).natAbs, 0) else none
  | .log => if pow2 && e + k == 0 then some (false, 0, 0) else none
  | .rcp => if pow2 then some (neg, 1, -(e + k)) else none
  | .rsq => if pow2 && (e + k) % 2 == 0 then some (false, 1, -((e + k) / 2)) else none
  | .sqrt =>
    let (n, j) := evenExp m e
    if isqrt n * isqrt n = n then some (false, isqrt n, j / 2) else none

/-- The bound in ulps (R288). -/
def ulpBound : SpecialFn → Nat
  | .exp2 | .log2 => 1
  | .exp | .log | .rcp | .rsq | .sqrt | .tanh => 2

/-- Whether an encoding is a finite value of the type within the bound of f(x) (R288). -/
def withinBound (f : Fmt) (k : Nat) (a : Approx) (c : Nat) : Bool :=
  match fpValue f false c with
  | .fin n m e =>
    let q := max (a.2.2 + Nat.log2 a.2.1 - f.mbits) f.emin
    let lo := min (min e a.2.2) q
    decide ((scaleTo n m e lo - scaleTo a.1 a.2.1 a.2.2 lo).natAbs ≤ (scaleTo false k q lo).natAbs)
  | _ => false

/-- A result flushed by R160 where it is subnormal. -/
def flushOut (f : Fmt) (fzo : Bool) (r : Nat × Nat) : Nat × Nat :=
  let mag := r.1 % 2 ^ (f.width - 1)
  if fzo && mag != 0 && decide (mag < 2 ^ f.mbits) then (r.1 - mag, flagUF + flagNX) else r

/-! ## The order of a type's values: place 0 is zero, a positive value has the place of its encoding, a negative one that
of its magnitude, negated -/

/-- The place of an encoding. -/
def placeOf (f : Fmt) (c : Nat) : Int :=
  let mag : Int := (c % 2 ^ (f.width - 1) : Nat)
  if c < 2 ^ (f.width - 1) then mag else -mag

/-- The encoding at a place; zero takes the sign given. -/
def encAt (f : Fmt) (neg : Bool) (v : Int) : Nat := f.signBit (decide (v < 0) || (v == 0 && neg)) + v.natAbs

/-- The finite value at a place. -/
def valueAt (f : Fmt) (v : Int) : Approx :=
  match fpValue f false (encAt f false v) with
  | .fin n m e => (n, m, e)
  | _ => (false, 0, 0)

/-- Order of two values. -/
def Approx.lt (a b : Approx) : Bool :=
  let q := min a.2.2 b.2.2
  decide (scaleTo a.1 a.2.1 a.2.2 q < scaleTo b.1 b.2.1 b.2.2 q)

/-- The places near f(x), rising: all within the bound are among them. -/
def placesNear (f : Fmt) (k : Nat) (a : Approx) : List Int :=
  let v := placeOf f (roundFin f .rne false false a.1 a.2.1 a.2.2).1
  ((List.range (4 * k + 5)).map fun i : Nat => v - (2 * k + 2) + (i : Int)).filter fun v => decide (v.natAbs ≤ f.maxBits)

/-- The places within the bound of f(x), rising. -/
def placesWithin (f : Fmt) (k : Nat) (a : Approx) : List Int :=
  (placesNear f k a).filter fun v => withinBound f k a (encAt f false v)

/-- A positive finite value is one of the type. -/
def representable (f : Fmt) (m : Nat) (e : Int) : Bool := (roundFin f .rne false false false m e).2 == 0

/-- A value that f takes exactly at an operand of the type, or has as its limit: R288 fixes the result there. -/
def attained (fn : SpecialFn) (f : Fmt) (a : Approx) : Bool :=
  let (n, m, e) := a
  let k := Nat.log2 m
  let pow2 := m == 2 ^ k
  if m = 0 then true
  else
    match fn with
    | .exp2 => !n && pow2
    | .exp => !n && pow2 && e + k == 0
    | .log2 =>
      let i := roundInt .rtz n m e
      !i.2 && decide (i.1.natAbs < 2048) && representable f 1 i.1
    | .log | .tanh => false
    | .rcp => pow2 && representable f 1 (-(e + k))
    | .rsq => !n && pow2 && representable f 1 (-2 * (e + k))
    | .sqrt => !n && representable f (m * m) (2 * e)

/-- f at a place of the operand, closely. -/
def approxAt (fn : SpecialFn) (f : Fmt) (x : Int) : Approx :=
  let (n, m, e) := valueAt f x
  approxOf fn n m e

/-- For an increasing f: between the place l, at which f lies below a value, and the place h, at which it does not, the last
below and the first not below, in n halvings. -/
def crossing (fn : SpecialFn) (f : Fmt) (c : Approx) : Nat → Int → Int → Int × Int
  | 0, l, h => (l, h)
  | n + 1, l, h =>
    let x := (l + h) / 2
    if l < x && (approxAt fn f x).lt c then crossing fn f c n x h
    else if x < h && l < x then crossing fn f c n l x
    else (l, h)

/-- The operand whose bound, in the next smaller binade of f, is tighter: the last one below the power of two that the
magnitude of f(x) has reached. Where f takes the powers of two exactly, none is needed. -/
def binadeEdge (fn : SpecialFn) (f : Fmt) (x : Int) (a : Approx) : Option Int :=
  let c : Approx := (false, 1, a.2.2 + Nat.log2 a.2.1)
  match fn with
  | .exp => some (crossing fn f c (f.width + 1) (-(f.maxBits : Int)) x).1
  | .log | .log2 =>
    let one : Int := (f.bias * 2 ^ f.mbits : Nat)
    if a.1 then some (crossing fn f (true, c.2) (f.width + 1) x one).2
    else some (crossing fn f c (f.width + 1) one x).1
  | .tanh =>
    if a.1 then some (-(crossing fn f c (f.width + 1) 0 (-x)).1)
    else some (crossing fn f c (f.width + 1) 0 x).1
  | .exp2 | .rcp | .rsq | .sqrt => none

/-- The least and greatest place that R288 allows at an operand: those within the bound, no lower than what a smaller f has
to be and no higher than what a larger one may be. -/
def openRange (fn : SpecialFn) (t : ElemType) (x : Nat) (a : Approx) : Int × Int :=
  let f := fmtOf t
  let k := ulpBound fn
  let ws := placesWithin f k a
  let near := placesNear f k a
  let v := placeOf f (roundFin f .rne false false a.1 a.2.1 a.2.2).1
  let fixed := near.filter fun v => attained fn f (valueAt f v)
  let lo := ((fixed.filter fun v => !a.lt (valueAt f v)).getLast?.getD (ws.headD v))
  let hi := ((fixed.filter fun v => !(valueAt f v).lt a).headD (ws.getLastD v))
  let lo := max lo (ws.headD v)
  let hi := min hi (ws.getLastD v)
  let e := a.2.2 + Nat.log2 a.2.1
  let edge := placeOf f (roundFin f .rne false false a.1 1 e).1
  if (if a.1 then decide (hi ≤ edge) else decide (edge ≤ lo)) then (lo, hi)
  else
    match binadeEdge fn f (placeOf f x) a with
    | none => (lo, hi)
    | some y =>
      let ys := placesWithin f k (approxAt fn f y)
      if a.1 then (lo, min hi (ys.getLastD hi)) else (max lo (ys.headD lo), hi)

/-- The place of an operand in the direction of f. -/
def SpecialFn.rising : SpecialFn → Int → Int
  | .rcp, x | .rsq, x => -x
  | _, x => x

/-- A result that is not exact (R288): overflow to an infinity, or the greatest place in its range whose threshold the
operand has reached. -/
def openResult (fn : SpecialFn) (t : ElemType) (x : Nat) (a : Approx) : Nat × Nat :=
  let f := fmtOf t
  if (valueAt f f.maxBits).lt (false, a.2) then (f.inf a.1, flagOF + flagNX)
  else
    let (lo, hi) := openRange fn t x a
    let vs := ((List.range (hi - lo).toNat).map fun i : Nat => lo + 1 + (i : Int)).filter fun v =>
      decide (Config.specialThreshold fn.code t v ≤ fn.rising (placeOf f x))
    let r := encAt f a.1 (vs.getLastD lo)
    (r, flagNX + flagIf (decide (r % 2 ^ (f.width - 1) < 2 ^ f.mbits)) flagUF)

/-- f(x) for a finite non-zero x in its domain (R288). -/
def finiteResult (fn : SpecialFn) (t : ElemType) (c : FpCtl) (x : Nat) (neg : Bool) (m : Nat) (e : Int) : Nat × Nat :=
  let f := fmtOf t
  let open' := flushOut f c.fzo (openResult fn t x (approxOf fn neg m e))
  match exactOf fn neg m e with
  | none => open'
  | some (n, k, j) =>
    let r := roundFin f .rne false false n k j
    if r.2 = 0 then flushOut f c.fzo r else open'

/-- One element of a special function: the table of R289, and f(x) elsewhere. -/
def specialElem (fn : SpecialFn) (t : ElemType) (c : FpCtl) (x : Nat) : Nat × Nat :=
  let f := fmtOf t
  let one : Nat × Nat := (f.bias * 2 ^ f.mbits, 0)
  let nan : Nat × Nat := (f.nan, flagNV)
  match fpIn t c x with
  | .nan s => (f.nan, flagIf s flagNV)
  | .inf neg =>
    match fn with
    | .exp2 | .exp => if neg then (0, 0) else (f.inf false, 0)
    | .log2 | .log | .sqrt => if neg then nan else (f.inf false, 0)
    | .rcp => (f.signBit neg, 0)
    | .rsq => if neg then nan else (0, 0)
    | .tanh => (f.signBit neg + one.1, 0)
  | .fin neg m e =>
    if m = 0 then
      match fn with
      | .exp2 | .exp => one
      | .log2 | .log => (f.inf true, flagDZ)
      | .rcp | .rsq => (f.inf neg, flagDZ)
      | .sqrt | .tanh => (f.signBit neg, 0)
    else
      match fn with
      | .log2 | .log | .rsq | .sqrt => if neg then nan else finiteResult fn t c x neg m e
      | .exp2 | .exp | .rcp | .tanh => finiteResult fn t c x neg m e

/-- A special function over a vector register (R287). -/
def specialVec (fn : SpecialFn) (s : State) (la : BitVec 4) (ty : ElemType) (dst a : VReg) (mask : BitVec 3)
    (z fzi fzo : Bool) : Host.Outcome State Fault Refusal :=
  let r := mapActive1 (specialElem fn ty { fzi := fzi, fzo := fzo }) (actives s ty mask) (vElems ty (s.rv a))
  longFp s la ty.isWideFloat true (.v dst) (.v dst (vMerge s ty dst mask z r.1)) r.2

/-- VEXP2 (R288). -/
def execVexp2 (la : BitVec 4) (ty : ElemType) (dst a : VReg) (mask : BitVec 3) (z fzi fzo : Bool) (s : State) :
    Host.Outcome State Fault Refusal := specialVec .exp2 s la ty dst a mask z fzi fzo
/-- VEXP (R288). -/
def execVexp (la : BitVec 4) (ty : ElemType) (dst a : VReg) (mask : BitVec 3) (z fzi fzo : Bool) (s : State) :
    Host.Outcome State Fault Refusal := specialVec .exp s la ty dst a mask z fzi fzo
/-- VLOG2 (R288). -/
def execVlog2 (la : BitVec 4) (ty : ElemType) (dst a : VReg) (mask : BitVec 3) (z fzi fzo : Bool) (s : State) :
    Host.Outcome State Fault Refusal := specialVec .log2 s la ty dst a mask z fzi fzo
/-- VLOG (R288). -/
def execVlog (la : BitVec 4) (ty : ElemType) (dst a : VReg) (mask : BitVec 3) (z fzi fzo : Bool) (s : State) :
    Host.Outcome State Fault Refusal := specialVec .log s la ty dst a mask z fzi fzo
/-- VRCP (R288). -/
def execVrcp (la : BitVec 4) (ty : ElemType) (dst a : VReg) (mask : BitVec 3) (z fzi fzo : Bool) (s : State) :
    Host.Outcome State Fault Refusal := specialVec .rcp s la ty dst a mask z fzi fzo
/-- VRSQ (R288). -/
def execVrsq (la : BitVec 4) (ty : ElemType) (dst a : VReg) (mask : BitVec 3) (z fzi fzo : Bool) (s : State) :
    Host.Outcome State Fault Refusal := specialVec .rsq s la ty dst a mask z fzi fzo
/-- VSQRT (R288). -/
def execVsqrt (la : BitVec 4) (ty : ElemType) (dst a : VReg) (mask : BitVec 3) (z fzi fzo : Bool) (s : State) :
    Host.Outcome State Fault Refusal := specialVec .sqrt s la ty dst a mask z fzi fzo
/-- VTANH (R288). -/
def execVtanh (la : BitVec 4) (ty : ElemType) (dst a : VReg) (mask : BitVec 3) (z fzi fzo : Bool) (s : State) :
    Host.Outcome State Fault Refusal := specialVec .tanh s la ty dst a mask z fzi fzo

end Sys2Proof.Machine
end

