-- ==== Sys2Proof/Machine/Sketch.lean ====
section
/-! DEFINITION. The three kinds of summary: their layouts, when they are well formed, insertion, merge and queries
(R336 to R345). -/

namespace Sys2Proof.Machine
open Sys2Proof

/-! ## Quantile sketches -/

/-- A quantile sketch (R337): levels 0 to 7 as lists of FP32 items. -/
structure Sketch where
  count : Nat := 0
  min : Nat := 0x7F800000
  max : Nat := 0xFF800000
  coin : Nat := 0
  fast : Bool := false
  top : Nat := 0
  levels : List (List Nat) := List.replicate 8 []
  deriving DecidableEq, Repr

/-- The slots of a level: sixteen, or eight at level 7 (R337). -/
def levelSlots (k : Nat) : Nat := if k = 7 then 8 else 16

/-- The items of a level as EMPTY and OCC count them (R337). -/
def levelCount (x k : Nat) : Nat := if bit x (192 + k) then 0 else fld x (128 + 4 * k) 4 + 1

/-- Slot j of level k (R337). -/
def levelSlot (x k j : Nat) : Nat := fld x (32 * (8 + 16 * k + j)) 32

/-- A sketch from its 4,096 bits (R337). -/
def Sketch.ofBits (x : Nat) : Sketch where
  count := fld x 0 64
  min := fld x 64 32
  max := fld x 96 32
  coin := fld x 160 32
  fast := bit x 208
  top := fld x 200 6
  levels := (List.range 8).map fun k => (List.range (Nat.min (levelCount x k) (levelSlots k))).map (levelSlot x k)

/-- The 4,096 bits of a sketch (R337). -/
def Sketch.bits (q : Sketch) : Nat :=
  let head := q.count % 2 ^ 64 + ((q.min % 2 ^ 32) <<< 64) + ((q.max % 2 ^ 32) <<< 96) + ((q.coin % 2 ^ 32) <<< 160)
    + (b2n q.fast <<< 208) + ((q.top % 64) <<< 200)
  q.levels.zipIdx.foldl (fun x p =>
    let (l, k) := p
    x + (if l.isEmpty then 1 <<< (192 + k) else ((l.length - 1) % 16) <<< (128 + 4 * k))
      + (packElems 32 l <<< (32 * (8 + 16 * k)))) head

/-- An FP32 NaN. -/
def isNan32 (x : Nat) : Bool := decide (0x7F800000 < x % 2 ^ 31)

/-- The order of FP32 values as integers; both zeros give 0. -/
def ordKey (x : Nat) : Int := if bit x 31 then -((x % 2 ^ 31 : Nat) : Int) else (x % 2 ^ 31 : Nat)

/-- The FP32 order: a NaN, which an empty sketch may hold as its MIN or MAX, is less than nothing and more than nothing. -/
def less32 (x y : Nat) : Bool := !isNan32 x && !isNan32 y && decide (ordKey x < ordKey y)

/-- A well-formed quantile sketch (R338). -/
def sketchOk (x : Nat) : Bool :=
  fld x 206 2 == 0 && fld x 209 47 == 0 && decide (fld x 200 6 ≤ 57) &&
  ((List.range 8).all fun k =>
    let n := levelCount x k
    (!bit x (192 + k) || fld x (128 + 4 * k) 4 == 0) && decide (n ≤ if k = 7 then 8 else 15) &&
    ((List.range (levelSlots k)).all fun j =>
      if j < n then !isNan32 (levelSlot x k j) else levelSlot x k j == 0)) &&
  (if fld x 0 64 = 0 then fld x 192 8 == 255
   else !isNan32 (fld x 64 32) && !isNan32 (fld x 96 32) && decide (ordKey (fld x 64 32) ≤ ordKey (fld x 96 32)))

/-- The source of coins: whether fast coins are in force, and the number of free values drawn (R339). -/
structure Coin where
  fast : Bool
  drawn : Nat
  deriving DecidableEq, Repr

/-- One coin of a sketch (R339). -/
def flip (c : Coin) (q : Sketch) : Nat × Sketch × Coin :=
  if c.fast then ((Config.freeBits 1 c.drawn).toNat, { q with fast := true }, { c with drawn := c.drawn + 1 })
  else
    let k := (q.coin * 0x2C9277B5 + 1) % 2 ^ 32
    (k / 2 ^ 31, { q with coin := k }, c)

/-- Ascending by value; equal values by encoding (R340). -/
def itemLe (x y : Nat) : Bool := decide (ordKey x < ordKey y) || (ordKey x == ordKey y && decide (x ≤ y))

/-- An element placed in a sorted list. -/
def insertBy {α : Type} (le : α → α → Bool) (x : α) : List α → List α
  | [] => [x]
  | y :: ys => if le x y then x :: y :: ys else y :: insertBy le x ys

/-- A list sorted. -/
def sortBy {α : Type} (le : α → α → Bool) : List α → List α
  | [] => []
  | x :: xs => insertBy le x (sortBy le xs)

/-- Every second item from the b-th on. -/
def everySecond : Nat → List Nat → List Nat
  | _, [] => []
  | 0, x :: xs => x :: everySecond 1 xs
  | _ + 1, _ :: xs => everySecond 0 xs

/-- compact (R340): the kept items; an empty list draws no coin. -/
def compact (c : Coin) (q : Sketch) (l : List Nat) : List Nat × Sketch × Coin :=
  if l.isEmpty then ([], q, c)
  else
    let (b, q1, c1) := flip c q
    (everySecond b (sortBy itemLe l), q1, c1)

/-- compact repeated (R340). -/
def compactN : Nat → Coin → Sketch → List Nat → List Nat × Sketch × Coin
  | 0, c, q, l => (l, q, c)
  | n + 1, c, q, l => let (l1, q1, c1) := compact c q l; compactN n c1 q1 l1

/-- Level 7 compacted into itself until it holds eight items or fewer (R340); each pass halves it, so the fuel of its length
is enough. -/
def compactTop : Nat → Coin → Sketch → List Nat → Nat → List Nat × Nat × Sketch × Coin
  | 0, c, q, l, t => (l, t, q, c)
  | n + 1, c, q, l, t =>
    if l.length ≤ 8 then (l, t, q, c)
    else let (l1, q1, c1) := compact c q l; compactTop n c1 q1 l1 (t + 1)

/-- Levels 0 to 6 merged: the lists of both, the batch carried up, and the levels of the result so far (R340). -/
def mergeLevels : List (List Nat × List Nat) → Coin → Sketch → List Nat → List (List Nat) →
    List (List Nat) × List Nat × Sketch × Coin
  | [], c, q, carry, acc => (acc, carry, q, c)
  | (x, y) :: r, c, q, carry, acc =>
    let l := x ++ y ++ carry
    if 16 ≤ l.length then
      let (k, q1, c1) := compact c q l
      mergeLevels r c1 q1 k (acc ++ [[]])
    else mergeLevels r c q [] (acc ++ [l])

/-- merge of quantile sketches (R340). -/
def mergeSketch (c : Coin) (a b : Sketch) : Sketch × Coin :=
  let q : Sketch := { a with
    count := Nat.min (a.count + b.count) (2 ^ 64 - 1)
    min := if less32 b.min a.min then b.min else a.min
    max := if less32 a.max b.max then b.max else a.max
    fast := a.fast || b.fast }
  let (low, carry, q, c) := mergeLevels ((a.levels.zip b.levels).take 7) c q [] []
  let t := Nat.max a.top b.top
  let (la, q, c) := compactN (t - a.top) c q (a.levels.getD 7 [])
  let (lb, q, c) := compactN (t - b.top) c q (b.levels.getD 7 [])
  let (lc, q, c) := compactN t c q carry
  let l := la ++ lb ++ lc
  let (l, t, q, c) := compactTop l.length c q l t
  ({ q with levels := low ++ [l], top := t }, c)

/-- A sketch that holds one item (R340). -/
def singleSketch (x : Nat) : Sketch :=
  { count := 1, min := x, max := x, levels := [x] :: List.replicate 7 [] }

/-- Quantile insertion (R340). -/
def insertSketch (c : Coin) (q : Sketch) (x : Nat) : Sketch × Coin := mergeSketch c q (singleSketch x)

/-- The weighted list (R341): items with their weights, sorted. -/
def weighted (q : Sketch) : List (Nat × Nat) :=
  sortBy (fun x y => itemLe x.1 y.1) ((q.levels.zipIdx.map fun p =>
    p.1.map fun x => (x, if p.2 = 7 then 2 ^ (7 + q.top) else 2 ^ p.2)).flatten)

/-- The first item whose running weight reaches t. -/
def reach : List (Nat × Nat) → Nat → Nat → Nat
  | [], _, _ => 0
  | (x, w) :: r, acc, t => if t ≤ acc + w then x else reach r (acc + w) t

/-- SQQ (R341): the FP32 result and the flags. -/
def quantile (s : Sketch) (qx : Nat) : Nat × Nat :=
  match fp32Of qx with
  | .fin neg m e =>
    if s.count = 0 ∨ (neg ∧ m ≠ 0) ∨ fpLess (.fin false 1 0) (.fin neg m e) then (0x7FC00000, flagNV)
    else if m = 0 then (s.min, 0)
    else if fpEqual (.fin neg m e) (.fin false 1 0) then (s.max, 0)
    else
      let l := weighted s
      if l.isEmpty then (s.max, 0)
      else
        let w := l.foldl (fun a p => a + p.2) 0
        let k := (-e).toNat
        let t := (m * w + 2 ^ k - 1) / 2 ^ k
        (reach l 0 (Nat.max 1 t), 0)
  | _ => (0x7FC00000, flagNV)

/-- SQRANK (R341): the result and the flags. -/
def rankOf (s : Sketch) (x : Nat) : Nat × Nat :=
  if isNan32 x then (0, flagNV)
  else if s.count = 0 ∨ ordKey x < ordKey s.min then (0, 0)
  else if ordKey s.max ≤ ordKey x then (s.count, 0)
  else (Nat.min s.count ((weighted s).foldl (fun a p => if ordKey p.1 ≤ ordKey x then a + p.2 else a) 0), 0)

/-! ## Heavy hitters -/

/-- A heavy-hitter list (R342): 63 entries of key and count. -/
structure Hitters where
  seen : Nat := 0
  dec : Nat := 0
  entries : List (Nat × Nat) := List.replicate 63 (0, 0)
  deriving DecidableEq, Repr

/-- A list from its bits (R342). -/
def Hitters.ofBits (x : Nat) : Hitters where
  seen := fld x 0 32
  dec := fld x 32 32
  entries := (List.range 63).map fun e => (fld x (64 * e + 64) 32, fld x (64 * e + 96) 32)

/-- The bits of a list (R342). -/
def Hitters.bits (h : Hitters) : Nat :=
  h.seen % 2 ^ 32 + ((h.dec % 2 ^ 32) <<< 32)
    + (packElems 64 (h.entries.map fun e => e.1 % 2 ^ 32 + ((e.2 % 2 ^ 32) <<< 32)) <<< 64)

/-- No two entries that count hold one key. -/
def keysDistinct : List (Nat × Nat) → Bool
  | [] => true
  | (k, c) :: r => (c == 0 || r.all fun p => p.2 == 0 || p.1 != k) && keysDistinct r

/-- A well-formed list (R342). -/
def hittersOk (x : Nat) : Bool :=
  let h := Hitters.ofBits x
  h.entries.all (fun e => e.2 != 0 || e.1 == 0) && keysDistinct h.entries

/-- sat32 (R343). -/
def sat32 (x : Nat) : Nat := Nat.min x (2 ^ 32 - 1)

/-- The first entry that p names changed by f. -/
def updFirst (p : Nat × Nat → Bool) (f : Nat × Nat → Nat × Nat) : List (Nat × Nat) → List (Nat × Nat)
  | [] => []
  | e :: es => if p e then f e :: es else e :: updFirst p f es

/-- insert (R343). -/
def insertHitter (h : Hitters) (key : Nat) : Hitters :=
  let h := { h with seen := sat32 (h.seen + 1) }
  if h.entries.any fun e => e.2 != 0 && e.1 == key then
    { h with entries := updFirst (fun e => e.2 != 0 && e.1 == key) (fun e => (e.1, sat32 (e.2 + 1))) h.entries }
  else if h.entries.any fun e => e.2 == 0 then
    { h with entries := updFirst (fun e => e.2 == 0) (fun _ => (key, 1)) h.entries }
  else
    { h with entries := h.entries.map (fun e => if e.2 = 1 then (0, 0) else (e.1, e.2 - 1)), dec := sat32 (h.dec + 1) }

/-- By count descending, then key ascending (R343). -/
def hitterLe (x y : Nat × Nat) : Bool := decide (y.2 < x.2) || (x.2 == y.2 && decide (x.1 ≤ y.1))

/-- The canonical order (R343). -/
def canonical (es : List (Nat × Nat)) : List (Nat × Nat) := sortBy hitterLe (es.filter fun e => e.2 != 0)

/-- A key's count added into a list of keys. -/
def addKey (p : List (Nat × Nat)) (e : Nat × Nat) : List (Nat × Nat) :=
  if p.any fun x => x.1 == e.1 then p.map fun x => if x.1 = e.1 then (x.1, x.2 + e.2) else x else p ++ [e]

/-- merge (R343). -/
def mergeHitters (a b : Hitters) : Hitters :=
  let p := canonical ((a.entries ++ b.entries).foldl (fun p e => if e.2 = 0 then p else addKey p e) [])
  let c64 := (p.getD 63 (0, 0)).2
  let kept := (p.map fun e => (e.1, e.2 - c64)).filter fun e => e.2 != 0
  let es := (canonical kept).map fun e => (e.1, sat32 e.2)
  { seen := sat32 (a.seen + b.seen), dec := sat32 (a.dec + b.dec + c64),
    entries := es ++ List.replicate (63 - es.length) (0, 0) }

/-! ## Distinct counts -/

/-- A distinct-count array (R344): 640 registers. -/
structure Distinct where
  ins : Nat := 0
  regs : List Nat := List.replicate 640 0
  deriving DecidableEq, Repr

/-- An array from its bits (R344). -/
def Distinct.ofBits (x : Nat) : Distinct := { ins := fld x 0 64, regs := unpackElems 6 640 (x >>> 256) }

/-- The bits of an array (R344). -/
def Distinct.bits (d : Distinct) : Nat := d.ins % 2 ^ 64 + (packElems 6 d.regs <<< 256)

/-- A well-formed array (R344). -/
def distinctOk (x : Nat) : Bool := fld x 64 192 == 0 && (unpackElems 6 640 (x >>> 256)).all fun r => decide (r ≤ 33)

/-- mix (R344). -/
def mix (x : Nat) : Nat :=
  let x := (x ^^^ (x >>> 16)) * 0x6C8E9CF5 % 2 ^ 32
  let x := (x ^^^ (x >>> 13)) * 0x2F1B4A63 % 2 ^ 32
  x ^^^ (x >>> 16)

/-- insert (R345). -/
def insertDistinct (d : Distinct) (key : Nat) : Distinct :=
  let hi := mix (key % 2 ^ 32)
  let lo := mix hi
  let j := hi * 640 / 2 ^ 32
  let rho := if lo = 0 then 33 else 32 - Nat.log2 lo
  { ins := Nat.min (d.ins + 1) (2 ^ 64 - 1), regs := d.regs.modify j fun r => Nat.max r rho }

/-- merge (R345). -/
def mergeDistinct (a b : Distinct) : Distinct :=
  { ins := Nat.min (a.ins + b.ins) (2 ^ 64 - 1), regs := (a.regs.zip b.regs).map fun p => Nat.max p.1 p.2 }

/-- A quotient rounded to FP32 under RNE: the quotient's bits beyond the precision are kept as a sticky bit. -/
def roundQuot (num den : Nat) : Nat :=
  let k : Nat := 128
  let q := num * 2 ^ k / den
  let sticky := if num * 2 ^ k % den = 0 then 0 else 1
  (roundFin (fmtOf .fp32) .rne false false false (2 * q + sticky) (-(k : Int) - 1)).1

/-- The FP32 VLOG of R288. -/
def vlog32 (x : Nat) : Nat := (specialElem .log .fp32 {} x).1

/-- 2^32 in FP32. -/
def two32 : Nat := 0x4F800000

/-- SDEST (R345): the FP32 estimate. -/
def estimate (d : Distinct) : Nat :=
  let sum := d.regs.foldl (fun a r => a + 2 ^ (33 - r)) 0
  let v := (d.regs.filter (· == 0)).length
  let e := roundQuot (294947 * 2 ^ 33) sum
  if ordKey e ≤ 0x44C80000 ∧ 0 < v then
    (fpMul .fp32 {} 0x44200000 (vlog32 (roundQuot 640 v))).1
  else if ordKey two32 ≤ ordKey e then two32
  else if fpLess (.fin false 143165576 0) (fp32Of e) then
    let frac := (addFp .rne (.fin false 1 0) (mulFp (fp32Of e) (.fin true 1 (-32))).1)
    let l := vlog32 (roundOut .fp32 {} frac).1
    let r := (roundOut .fp32 {} (mulFp (.fin true 1 32) (fp32Of l))).1
    if ordKey two32 < ordKey r then two32 else r
  else e

end Sys2Proof.Machine
end

