-- ==== Sys2Proof/Machine/Summary.lean ====
section
/-! DEFINITION. The summary instructions (R348 to R351). -/

namespace Sys2Proof.Machine
open Sys2Proof

/-- The coin source of a context's instruction: fast while c.mode.SFAST is set (R349). -/
def coinOf (s : State) : Coin := { fast := bit s.me.mode.toNat 1, drawn := s.free }

/-- A summary register's bits. -/
def sumBits (s : State) (r : VReg) : Nat := (s.rv r).toNat

/-- A register's value from summary bits. -/
def sumVec (x : Nat) : Vec := BitVec.ofNat 4096 x

/-- SQINS (R349): NaN elements are skipped and set invalid. -/
def execSqins (ty : ElemType) (dst a : VReg) (mask : BitVec 3) (s : State) : Host.Outcome State Fault Refusal :=
  run s (if !ty.isFloat || !sketchOk (sumBits s dst) then .error illegal
    else
      let xs := (activeOnes (actives s ty mask) (vElems ty (s.rv a))).map fun x => (convertElem .fp32 ty {} false x).1
      let (q, c, f) := xs.foldl (fun (q, c, f) x =>
        if isNan32 x then (q, c, f ||| flagNV) else let (q1, c1) := insertSketch c q x; (q1, c1, f))
        (Sketch.ofBits (sumBits s dst), coinOf s, 0)
      .ok (raiseFlags { s.setV dst (sumVec q.bits) with free := c.drawn } f))

/-- The types of keys (R348). -/
def keyType (ty : ElemType) : Bool := ty == .s32 || ty == .u32 || ty == .fp32

/-- SHINS (R349). -/
def execShins (ty : ElemType) (dst a : VReg) (mask : BitVec 3) (s : State) : Host.Outcome State Fault Refusal :=
  run s (if !keyType ty || !hittersOk (sumBits s dst) then .error illegal
    else .ok (s.setV dst (sumVec ((activeOnes (actives s ty mask) (vElems ty (s.rv a))).foldl insertHitter
      (Hitters.ofBits (sumBits s dst))).bits)))

/-- SDINS (R349). -/
def execSdins (ty : ElemType) (dst a : VReg) (mask : BitVec 3) (s : State) : Host.Outcome State Fault Refusal :=
  run s (if !keyType ty || !distinctOk (sumBits s dst) then .error illegal
    else .ok (s.setV dst (sumVec ((activeOnes (actives s ty mask) (vElems ty (s.rv a))).foldl insertDistinct
      (Distinct.ofBits (sumBits s dst))).bits)))

/-- A well-formed summary of a kind: 0 quantile, 1 heavy hitter, 2 distinct count (R350). -/
def summaryOk (kind x : Nat) : Bool :=
  match kind with
  | 0 => sketchOk x
  | 1 => hittersOk x
  | _ => distinctOk x

/-- The merge of two summaries of a kind (R340, R343, R345). -/
def mergeBits (kind : Nat) (c : Coin) (a b : Nat) : Nat × Coin :=
  match kind with
  | 0 => let (q, c1) := mergeSketch c (Sketch.ofBits a) (Sketch.ofBits b); (q.bits, c1)
  | 1 => ((mergeHitters (Hitters.ofBits a) (Hitters.ofBits b)).bits, c)
  | _ => ((mergeDistinct (Distinct.ofBits a) (Distinct.ofBits b)).bits, c)

/-- The merge, or none where a summary is not well formed (R349, R350). -/
def mergeKind (kind : Nat) (c : Coin) (a b : Nat) : Option (Nat × Coin) :=
  if summaryOk kind a && summaryOk kind b then some (mergeBits kind c a b) else none

/-- SMERGE (R349). -/
def execSmerge (la : BitVec 4) (dst a b : VReg) (kind : BitVec 2) (s : State) : Host.Outcome State Fault Refusal :=
  runLong s la [.v dst] (match mergeKind kind.toNat (coinOf s) (sumBits s a) (sumBits s b) with
    | none => .error illegal
    | some (x, c) => .ok ({ s with free := c.drawn }, [.v dst (sumVec x)]))

/-- SQQ (R341, R349). -/
def execSqq (la : BitVec 4) (dst : SReg) (a : VReg) (q : SReg) (s : State) : Host.Outcome State Fault Refusal :=
  let r := quantile (Sketch.ofBits (sumBits s a)) ((s.rs q).toNat % 2 ^ 32)
  longFp s la (sketchOk (sumBits s a)) true (.s dst) (.s dst (wd r.1)) r.2

/-- SQRANK (R341, R349). -/
def execSqrank (la : BitVec 4) (dst : SReg) (a : VReg) (x : SReg) (s : State) : Host.Outcome State Fault Refusal :=
  let r := rankOf (Sketch.ofBits (sumBits s a)) ((s.rs x).toNat % 2 ^ 32)
  longFp s la (sketchOk (sumBits s a)) true (.s dst) (.s dst (wd r.1)) r.2

/-- SHTOP (R343, R349). -/
def execShtop (dst : SReg) (a : VReg) (j : SReg) (s : State) : Host.Outcome State Fault Refusal :=
  let l := canonical (Hitters.ofBits (sumBits s a)).entries
  let n := (s.rs j).toNat
  run s (if hittersOk (sumBits s a) then
      let e := if n < l.length then l.getD n (0, 0) else (0, 0)
      .ok (s.setS dst (wd (e.1 + e.2 * 2 ^ 32)))
    else .error illegal)

/-- SDEST (R345, R349). -/
def execSdest (dst : SReg) (a : VReg) (s : State) : Host.Outcome State Fault Refusal :=
  run s (if distinctOk (sumBits s a) then .ok (s.setS dst (wd (estimate (Distinct.ofBits (sumBits s a)))))
    else .error illegal)

/-- SCOIN (R349): sets COIN, or makes an empty sketch with it. -/
def execScoin (dst : VReg) (a : SReg) (init : Bool) (s : State) : Host.Outcome State Fault Refusal :=
  let coin := (s.rs a).toNat % 2 ^ 32
  run s (if init then .ok (s.setV dst (sumVec ({ coin := coin } : Sketch).bits))
    else if sketchOk (sumBits s dst) then .ok (s.setV dst (sumVec (setFld (sumBits s dst) 160 32 coin)))
    else .error illegal)

end Sys2Proof.Machine
end

