-- ==== Sys2Proof/Machine/Rank.lean ====
section
/-! DEFINITION. Rank groups and steps: the group table, acceptance, leaving armed, abort and publish (R66, R69, R130, R132,
R316 to R318, R324 to R328). -/

namespace Sys2Proof.Machine
open Sys2Proof

/-! ## Groups -/

/-- A group-table entry of a die (R317). -/
def groupAt (s : State) (die e : Nat) : Group := SMap.getD (s.die die).groups e {}

/-- A group-table entry replaced. -/
def setGroup (s : State) (die e : Nat) (g : Group) : State := s.modDie die fun d => { d with groups := SMap.put d.groups e g }

/-- The number of ranks of a group (R316). -/
def Group.size (g : Group) : Nat := 2 ^ g.log2

/-- The bank of a rank (R316). -/
def rankBank (die : Nat) (g : Group) (r : Nat) : Nat := die * 1536 + g.first + r

/-- The banks of a group in rank order (R316). -/
def groupBanks (die : Nat) (g : Group) : List Nat := (List.range g.size).map (rankBank die g)

/-- A group number (R317). -/
def groupNumber (die e : Nat) (g : Group) : Nat := e + (die <<< 8) + (g.gen <<< 12)

/-- The entry that a group number names on a die, or none where R317 makes it illegal. -/
def namedGroup (s : State) (die w : Nat) : Option Nat :=
  let e := fld w 0 6
  let g := groupAt s die e
  if fld w 6 2 = 0 ∧ fld w 16 48 = 0 ∧ fld w 8 4 = die ∧ g.en ∧ g.gen = fld w 12 4 then some e else none

/-- The code of a step's phase in GCTL (R318). -/
def StepPhase.code : StepPhase → Nat
  | .armed => 1 | .flood => 2 | .move => 3 | .publish => 4

/-- GCTL (R318). -/
def gctlBits (g : Group) : Nat :=
  b2n g.en + ((match g.steps with | [] => 0 | st :: _ => st.phase.code) <<< 1) + (g.gen <<< 4) + (g.first <<< 8)
    + (g.log2 <<< 19) + ((g.serial % 65536) <<< 32) + (g.steps.length <<< 48)

/-- GTREE (R318). -/
def gtreeBits (g : Group) : Nat := g.shape + (g.oper <<< 2) + (g.words <<< 6) + (b2n g.valid <<< 13)

/-- A group control block as read (R318). -/
def groupReg (g : Group) (off : Nat) : Nat :=
  match off with
  | 0 => gctlBits g
  | 8 => gtreeBits g
  | 16 => g.tres
  | 24 => g.fail0.toNat
  | 32 => g.fail1.toNat
  | 40 => g.fail2.toNat
  | _ => 0

/-- A write to a group control block: V of GFAIL0 is cleared by writing 1 (R9, R318). -/
def writeGroup (s : State) (die e off w1 : Nat) : State :=
  if off = 24 ∧ bit w1 31 then
    let g := groupAt s die e
    setGroup s die e { g with fail0 := wd (setFld g.fail0.toNat 31 1 0) }
  else s

/-! ## Descriptor fields -/

/-- COLL (R324). -/
def stepColl (b : BitVec 512) : Nat := fld b.toNat 0 3
/-- CW. -/
def stepCw (b : BitVec 512) : Bool := b.getLsbD 3
/-- ENTRY. -/
def stepEntry (b : BitVec 512) : Nat := fld b.toNat 8 8
/-- D. -/
def stepD (b : BitVec 512) : Nat := fld b.toNat 20 9
/-- TIMEOUT. -/
def stepTimeout (b : BitVec 512) : Nat := fld b.toNat 32 32
/-- SBASE. -/
def stepSbase (b : BitVec 512) : Nat := fld b.toNat 64 16
/-- SROWS. -/
def stepSrows (b : BitVec 512) : Nat := fld b.toNat 80 16
/-- RBASE. -/
def stepRbase (b : BitVec 512) : Nat := fld b.toNat 96 16
/-- RCAP. -/
def stepRcap (b : BitVec 512) : Nat := fld b.toNat 112 16
/-- CWADDR. -/
def stepCwaddr (b : BitVec 512) : Nat := fld b.toNat 128 64
/-- CWSEQ. -/
def stepCwseq (b : BitVec 512) : Nat := fld b.toNat 192 64
/-- ARG k. -/
def stepArg (b : BitVec 512) (k : Nat) : Nat := fld b.toNat (256 + 32 * k) 32

/-- A reserved field of a descriptor that is set, or a reserved collective (R324). -/
def stepReserved (b : BitVec 512) : Bool :=
  fld b.toNat 4 4 != 0 || fld b.toNat 16 4 != 0 || fld b.toNat 29 3 != 0 || decide (6 ≤ stepColl b)

/-- A descriptor that R324 makes illegal for a group. -/
def stepIllegal (g : Group) (b : BitVec 512) : Bool :=
  let c := stepColl b
  let sr := stepSrows b
  decide (deepRows < stepSbase b + sr) || decide (deepRows < stepRbase b + stepRcap b)
    || ((c == 1 || c == 5) && (decide (g.size ≤ stepD b) || decide (stepRcap b < sr)))
    || (c == 2 && (sr % g.size != 0 || decide (stepRcap b < sr)))
    || (c == 4 && !g.valid)
    || ((c == 0 || c == 4) && (sr != 0 || stepRcap b != 0))
    || (stepCw b && (stepCwaddr b % 8 != 0 || bit (stepCwseq b) 63))
    || ((c == 0 || c == 2 || c == 3 || c == 4) && stepD b != 0)

/-! ## Accepting a step -/

/-- A step accepted for an operation, with the tree configuration and the generation in force (R323, R324). -/
def acceptStep (s : State) (die e op : Nat) (b : BitVec 512) (cwpa : Option Nat) (node : Option (Nat × Nat)) : State :=
  let g := groupAt s die e
  let st : RStep := {
    op := op, bits := b, shape := g.shape, oper := g.oper, words := if g.valid then g.words + 1 else 0,
    tres := if g.valid then some g.tres else none, gen := g.gen, cwpa := cwpa, since := newtCycles s, node := node }
  setGroup s die e { g with steps := g.steps ++ [st] }

/-! ## Abort -/

/-- What a failure reports (R318, R328). -/
structure Report where
  cause : Nat
  sub : Nat := 0
  rank : Nat := 0
  npc : Nat := 0
  addr : Nat := 0
  sh : Bool := false
  prow : Nat := 0
  src : Nat := 0
  need : Nat := 0
  code : Nat := 0
  deriving DecidableEq, Repr

/-- A report written whole to a group's failure registers (R318). -/
def writeReport (g : Group) (r : Report) : Group :=
  { g with
    fail0 := wd (r.cause + (r.sub <<< 8) + ((r.rank % 512) <<< 16) + (1 <<< 31) + ((g.serial % 65536) <<< 32)
      + ((r.npc % 256) <<< 48))
    fail1 := wd (r.addr % 2 ^ 27 + (b2n r.sh <<< 27) + ((r.prow % 65536) <<< 32))
    fail2 := wd (r.src % 512 + ((r.need % 65536) <<< 16) + ((r.code % 2 ^ 32) <<< 32)) }

/-- The shadows of a group's banks returned to their pools and their newts stopped (R66, R328). -/
def dropShadows (s : State) (die : Nat) (g : Group) : State :=
  (groupBanks die g).foldl (fun s k => s.modBank k fun b => { b with shadows := [], newt := {} }) s

/-- A step's end told to whom it concerns: its handle, its completion word and its node (R326, R365). -/
def endStep (s : State) (die : Nat) (st : RStep) (status : Nat) : State :=
  let s1 := if st.node.isNone then deliverTo s die st.op status .die else s
  let s2 := match st.cwpa with
    | some a => completionStore s1 die a (seqValue (stepCwseq st.bits) (status != 0))
    | none => s1
  match st.node with
  | some (n, uid) => if (nodeAt s2 n).map (·.uid) = some uid then finishNode s2 n status else s2
  | none => s2

/-- A step aborted with a status, and a report unless it has none (R326): what it shadowed and its pending result are
discarded. -/
def abortOne (s : State) (die e : Nat) (st : RStep) (status : Nat) (rep : Option Report) : State :=
  let g := groupAt s die e
  let s1 := if st.phase = .armed then s else dropShadows s die g
  let s2 := pendDrop s1 fun o => o == .op st.op
  let g1 := match rep with | some r => writeReport g r | none => g
  let s3 := setGroup s2 die e { g1 with steps := g1.steps.filter fun x => x.op != st.op }
  endStep s3 die st status

/-- An abort of a group's step, after which the steps behind it abort with cause 0x27 (R326). DEDUCED, log entry 43. -/
def abortStep (s : State) (die e op status : Nat) (rep : Option Report) : State :=
  let steps := (groupAt s die e).steps.dropWhile fun st => st.op != op
  match steps with
  | [] => s
  | st :: behind =>
    if st.phase = .publish then s
    else behind.foldl (fun s x => abortOne s die e x 0x27 none) (abortOne s die e st status rep)

/-- A failure of a group's head step with its report. -/
def failStep (s : State) (die e : Nat) (st : RStep) (r : Report) : State := abortStep s die e st.op r.cause (some r)

/-- The group and entry of a step by its operation. -/
def stepOfOp (s : State) (op : Nat) : Option (Nat × Nat) :=
  s.dies.findSome? fun d => (List.find? (fun g => g.2.steps.any fun st => st.op == op) d.2.groups).map fun g => (d.1, g.1)

/-- A step's timeout has expired by a newt cycle (R324). -/
def timedOut (st : RStep) (now : Nat) : Bool :=
  stepTimeout st.bits != 0 && decide (st.since + 1024 * stepTimeout st.bits ≤ now)

/-- An abort of a step by its timeout (R326). -/
def timeoutStep (s : State) (die e : Nat) (st : RStep) : State := abortStep s die e st.op 0x25 (some { cause := 0x25 })

/-- A step of a group whose timeout expired in an earlier newt cycle than this: whatever else comes to the group finds it
aborted (R326). -/
def overdue (s : State) (die e : Nat) : Option RStep := (groupAt s die e).steps.find? fun st => timedOut st (newtCycles s - 1)

/-- HCANCEL of a step: it aborts with status 1 and no report, unless it is in publish; where its timeout expires in the same
cycle, with cause 0x25 (R326). -/
def cancelStep (s : State) (op : Nat) : State :=
  match stepOfOp s op with
  | some (die, e) =>
    match (groupAt s die e).steps.find? fun st => st.op == op && timedOut st (newtCycles s) with
    | some st => timeoutStep s die e st
    | none => abortStep s die e op 1 none
  | none => s

/-- STEP_TIMEOUT (R326): the first step of a group whose timeout has expired aborts with cause 0x25. -/
def execStepTimeout (die grp : Nat) (s : State) : Host.Outcome State Fault Refusal :=
  .next (match (groupAt s die grp).steps.find? fun st => timedOut st (newtCycles s) with
    | some st => timeoutStep s die grp st
    | none => s)

/-! ## Leaving armed -/

/-- A bank-local sector of a rank region of a group's banks (R69). -/
def inRegion (s : State) (die : Nat) (g : Group) (sector : Nat) : Bool :=
  let a := sector * 64
  regionOf a == 0 && bankKey a / 1536 == die && decide (g.first ≤ bankKey a % 1536)
    && decide (bankKey a % 1536 < g.first + g.size) && validRow (s.bank (bankKey a)) (classOf a) (rowNo a)

/-- A race record that holds a step armed: one that is open, or closed at a scope narrower than die (R130). -/
def raceHolds (s : State) (die : Nat) (g : Group) : Bool :=
  s.races.any fun r => inRegion s die g r.sector && (r.opn != 0 || decide (scopeRank r.scope < 3))

/-- The conditions under which the head step of a group is ready to leave armed (R327). -/
def leaveReady (s : State) (die : Nat) (g : Group) : Bool :=
  let bs := groupBanks die g
  !(bs.any fun k => bankLive s k) && !(bs.any fun k => (s.bank k).shBusy || (s.bank k).rtBusy)
    && !raceHolds s die g && !(bs.any fun k => bit s.pkg.hold (k / 768))

/-- Groups that share a bank (R317). -/
def overlap (g h : Group) : Bool := decide (g.first < h.first + h.size) && decide (h.first < g.first + g.size)

/-- The head step of a group may leave armed: it is ready, and no ready step of an overlapping group was accepted before it
(R327). -/
def mayLeave (s : State) (die e : Nat) : Bool :=
  let g := groupAt s die e
  leaveReady s die g && !((s.die die).groups.any fun p =>
    p.1 != e && p.2.en && overlap g p.2 && (match p.2.steps, g.steps with
      | x :: _, st :: _ => x.phase == .armed && decide (x.op < st.op) && leaveReady s die p.2
      | _, _ => false))

/-- Every cached copy of a group's rank regions written back and dropped (R130): none while a home must wait (R95). -/
def dropRegion (s : State) (die : Nat) (g : Group) : Option State :=
  let posted := fun (s : State) => (s.homeq.filter fun r => inRegion s die g r.sector).map fun r => r.sector
  let s1 := (posted s).foldl serveHome s
  if !(posted s1).isEmpty then none
  else l2RemoveAll s1 (s1.l2.map fun p => (p.2.filter fun l => inRegion s die g (l.line * 4)).map fun l => l.line).flatten

/-- A newt at the start of flood (R310). -/
def newtStart (b : BitVec 512) : Newt :=
  { pc := stepEntry b, halted := false, sk := sumVec ({} : Sketch).bits }

/-- The first member of a group with which its step cannot enter flood (R319, R326). -/
def badMember (s : State) (die grp : Nat) (g : Group) : Option Report :=
  (List.range g.size).findSome? fun r =>
    let b := s.bank (rankBank die g r)
    if b.fenced then some { cause := 0x24, rank := r }
    else if b.progTag ≠ some (groupNumber die grp g) then some ({ cause := 0x26, rank := r } : Report) else none

/-- STEP_LEAVE_ARMED (R130, R326, R327): the head step of a group enters flood, or aborts with the first failing member. -/
def execStepLeaveArmed (die grp : Nat) (s : State) : Host.Outcome State Fault Refusal :=
  let g := groupAt s die grp
  .next (match overdue s die grp, g.steps with
    | some late, _ => timeoutStep s die grp late
    | none, [] => s
    | none, st :: rest =>
      if st.phase ≠ .armed ∨ !mayLeave s die grp then s
      else
        match badMember s die grp g with
        | some r => failStep s die grp st r
        | none => match dropRegion s die g with
          | none => s
          | some s1 =>
            let s2 := (groupBanks die g).foldl (fun s k =>
              s.modBank k fun b => { b with shadows := [], newt := newtStart st.bits }) s1
            setGroup s2 die grp { g with steps := { st with phase := .flood } :: rest })

/-! ## Publish -/

/-- The bytes of a shadow's row as a list of byte addresses within the row. -/
def shadowMask (cells : Memory) (i : Nat) : Nat :=
  cells.foldl (fun m c => if c.1 / 64 = i then m ||| (1 <<< (c.1 % 64)) else m) 0

/-- The bytes of one sector of a shadow. -/
def shadowBytes (cells : Memory) (i : Nat) : List Byte := (List.range 64).map fun j => (SMap.find? cells (64 * i + j)).getD 0#8

/-- One published sector of a shadowed row: its copies are dropped, its bytes change and leave the race records, and its waiters
are told (R113, R121, R132). None while its home must wait (R95). -/
def publishSector (s : State) (sector mask : Nat) (bytes : List Byte) : Option State :=
  let s1 := flushAllV (serveHome s sector) sector
  if homeWaits s1 sector then none
  else
    let s2 := dropCopies s1 none sector
    let s3 := { s2 with mem := s2.mem.writeMask (sector * 64) mask bytes }
    some (notifySector (raceStrip s3 sector mask) sector)

/-- The shadow of one logical row of a bank published: the row's mapping is its shadow, its slot is free (R66). -/
def publishRow (s : State) (bk d : Nat) (x : Shadow) : Option State := do
  let s1 := s.modBank bk fun b =>
    let b1 := setMap b d x.prow
    match slotOfRow b d with | some (k, _) => { b1 with slots := SMap.del b1.slots k } | none => b1
  let sec := rowSector bk 0 d
  let s2 ← (List.range 16).foldlM (fun s i => publishSector s (sec + i) (shadowMask x.cells i) (shadowBytes x.cells i)) s1
  l2RemoveAll s2 ((List.range 4).map fun i => sec / 4 + i)

/-- Every shadow of a bank published. -/
def publishBank (s : State) (bk : Nat) : Option State :=
  let xs := (s.bank bk).shadows
  xs.foldlM (fun s p => publishRow s bk p.1 p.2) (s.modBank bk fun b => { b with shadows := [], newt := {} })

/-- The receive table of a rank after a published ALLTOALL (R331). -/
def recvTable (rows : List (Nat × Nat × Nat × Nat)) (r : Nat) : SMap (Nat × Nat) :=
  rows.foldl (fun m x => if x.1 = r then SMap.put m x.2.1 (x.2.2.1, x.2.2.2) else m) []

/-- The tables of a group's members and the tree result of its step, changed together (R66, R132, R331, R334): none while a
home must wait. -/
def publishAll (s : State) (die : Nat) (g : Group) (st : RStep) : Option State := do
  let s1 ← (groupBanks die g).foldlM publishBank s
  let s2 ← commitOwner s1 fun o => o == .op st.op
  if stepColl st.bits = 3 then
    some ((List.range g.size).foldl (fun s r =>
      s.modBank (rankBank die g r) fun b => { b with recv := recvTable st.recvNew r }) s2)
  else some s2

/-- STEP_PUBLISH_COMPLETE (R66, R132, R326): all member tables change together with the tree result, and the step ends. -/
def execStepPublishComplete (die grp : Nat) (s : State) : Host.Outcome State Fault Refusal :=
  let g := groupAt s die grp
  .next (match g.steps with
    | [] => s
    | st :: rest =>
      if st.phase ≠ .publish then s
      else match publishAll s die g st with
        | none => commitWaits s fun o => o == .op st.op
        | some s1 => endStep (setGroup s1 die grp { g with steps := rest, serial := (g.serial + 1) % 65536 }) die st 0)

end Sys2Proof.Machine
end

