-- ==== Sys2Proof/Machine/Newt.lean ====
section
/-! DEFINITION. The newt: its words, ports, units and traps (R310 to R315, R352), and its view of its bank (R47, R63, R65, R131). -/

namespace Sys2Proof.Machine
open Sys2Proof

/-! ## The bank as its newt sees it -/

/-- Where a newt runs: its bank, its group's die and entry, the group, the step and its rank. -/
structure NewtAt where
  bk : Nat
  die : Nat
  entry : Nat
  grp : Group
  step : RStep
  rank : Nat

/-- The group whose step is in flood on a bank, if there is one. -/
def floodAt (s : State) (bk : Nat) : Option NewtAt :=
  let die := bk / 1536
  (s.die die).groups.findSome? fun p =>
    match p.2.steps with
    | st :: _ =>
      if p.2.en ∧ p.2.first ≤ bk % 1536 ∧ bk % 1536 < p.2.first + p.2.size ∧ st.phase = .flood then
        some { bk := bk, die := die, entry := p.1, grp := p.2, step := st, rank := bk % 1536 - p.2.first }
      else none
    | [] => none

/-- The fields of a newt address (R47). -/
def newtCls (a : Nat) : Nat := fld a 26 1
/-- Row. -/
def newtRow (a : Nat) : Nat := fld a 10 16
/-- Column. -/
def newtCol (a : Nat) : Nat := fld a 0 10

/-- A shadow's sector whose code gives other bytes than those stored keeps them (R399). -/
def putCells (cells : Memory) (col : Nat) (bs : List Byte) : Memory :=
  (bs.zipIdx.foldl (fun m p => SMap.put m (col + p.2) p.1) cells)

/-- A shadow of a bank changed. -/
def modShadow (s : State) (bk d : Nat) (f : Memory → Memory) : State :=
  s.modBank bk fun b => match SMap.find? b.shadows d with
    | some x => { b with shadows := SMap.put b.shadows d { x with cells := f x.cells } }
    | none => b

/-- The code of one sector of a row read as its bank serves it to the newt, its shadow before the published row
(R65, R399): a report when it cannot be corrected. -/
def newtCode (s : State) (bk cls row i addr : Nat) : Except (Report × State) State :=
  let count := fun (s : State) (ok : Bool) => countBank s bk (if ok then corrOff bk else corrOff bk + 4)
  let a := bankLocal (bk / 768) (bk % 768) cls row 0 + 64 * i
  match (if cls = 0 then SMap.find? (s.bank bk).shadows row else none) with
  | some x =>
    match codeOutcome s (rowSector bk 0 x.prow + i) 64 count with
    | (true, _, s1) => .error ({ cause := 0x21, addr := addr, sh := true, prow := x.prow }, s1)
    | (false, none, s1) => .ok s1
    | (false, some bs, s1) => .ok (modShadow s1 bk row fun m => putCells m (64 * i) bs)
  | none =>
    match readCode s (physAddr s a / 64) 64 a count with
    | (true, s1) => .error ({ cause := 0x21, addr := addr, prow := if cls = 0 then mapRow (s.bank bk) row else 0 }, s1)
    | (false, s1) => .ok s1

/-- n bytes at a newt address as the newt sees them: its shadows over the published rows (R131). -/
def newtBytes (s : State) (bk addr n : Nat) : List Byte :=
  let row := newtRow addr
  let col := newtCol addr
  let base := bankLocal (bk / 768) (bk % 768) (newtCls addr) row col
  let pub := s.mem.readN base n
  match (if newtCls addr = 0 then SMap.find? (s.bank bk).shadows row else none) with
  | some x => pub.zipIdx.map fun p => (SMap.find? x.cells (col + p.2)).getD p.1
  | none => pub

/-- A newt load within one row (R131, R399). -/
def newtLoad (s : State) (bk addr n : Nat) : Except (Report × State) (List Byte × State) := do
  let secs := (List.range ((newtCol addr % 64 + n + 63) / 64)).map fun i => newtCol addr / 64 + i
  let s1 ← secs.foldlM (fun s i => newtCode s bk (newtCls addr) (newtRow addr) i addr) s
  .ok (newtBytes s1 bk addr n, s1)

/-- A shadow taken for a logical row (R65): the lowest-numbered free pool row of its subarray, with the row's contents. -/
def takeShadow (s : State) (bk d addr : Nat) : Except (Report × State) State :=
  if (SMap.find? (s.bank bk).shadows d).isSome then .ok s
  else match poolRow (s.bank bk) (d % 128) with
    | none => .error ({ cause := 0x22, addr := addr }, s)
    | some p => do
      let s1 ← (List.range 16).foldlM (fun s i => newtCode s bk 0 d i addr) s
      let keys := (List.range 16).map fun i => rowSector bk 0 p + i
      .ok ({ s1 with poison := s1.poison.filter fun k => !keys.contains k
                     upsets := s1.upsets.filter fun x => !keys.contains x.1 }.modBank bk fun b =>
        { b with shadows := SMap.put b.shadows d { prow := p } })

/-- A newt store to a deep row, in its shadow (R65). A store of all 64 bytes of a sector clears its mark (R399). -/
def newtStore (s : State) (bk addr : Nat) (bs : List Byte) : Except (Report × State) State := do
  let d := newtRow addr
  let s1 ← takeShadow s bk d addr
  let s2 := modShadow s1 bk d fun m => putCells m (newtCol addr) bs
  let p := match SMap.find? (s2.bank bk).shadows d with | some x => x.prow | none => 0
  let full := ((List.range 16).filter fun i =>
    decide (newtCol addr ≤ 64 * i) && decide (64 * i + 64 ≤ newtCol addr + bs.length)).map fun i => rowSector bk 0 p + i
  .ok { s2 with poison := s2.poison.filter fun k => !full.contains k
                upsets := s2.upsets.filter fun x => !full.contains x.1 }

/-! ## Words and ports -/

/-- A move of a newt word (R311). -/
structure Move where
  g : Nat
  src : Nat
  dst : Nat
  i : Bool
  imm : Nat
  deriving DecidableEq, Repr

/-- A move from its 32 bits (R311). -/
def moveOf (w : Nat) : Move := { g := fld w 29 3, src := fld w 21 8, dst := fld w 13 8, i := bit w 12, imm := fld w 0 12 }

/-- The two moves of a word, move 0 first (R311). -/
def movesOf (w : BitVec 64) : List Move := [moveOf (fld w.toNat 0 32), moveOf (fld w.toNat 32 32)]

/-- A guard register. -/
def Newt.guard (n : Newt) (k : Nat) : Bool := n.g[k % 4]'(Nat.mod_lt _ (by decide))

/-- Whether a move's guard holds (R311). -/
def guardHolds (n : Newt) (g : Nat) : Bool :=
  if g = 0 then true else if g ≤ 4 then n.guard (g - 1) else !n.guard (g - 5)

/-- The unit that a trigger port belongs to (R314): 0 ALU, 1 floating point, 2 load/store, 3 PROMOTE, 4 sketch, 5 size,
6 receive table, 7 tree, 8 control. -/
def unitOf (p : Nat) : Option Nat :=
  if 0x31 ≤ p ∧ p ≤ 0x3E then some 0
  else if 0x42 ≤ p ∧ p ≤ 0x4A then some 1
  else if 0x52 ≤ p ∧ p ≤ 0x58 ∧ p ≠ 0x57 then some 2
  else if 0x70 ≤ p ∧ p ≤ 0x73 then some 3
  else if 0x78 ≤ p ∧ p ≤ 0x7E then some 4
  else if p = 0x81 then some 5
  else if p = 0x84 then some 6
  else if p = 0x89 ∨ p = 0x8A then some 7
  else if 0x90 ≤ p ∧ p ≤ 0x92 then some 8
  else none

/-- A port that can be read (R314). -/
def readable (p : Nat) : Bool :=
  decide (p < 0x24) || p == 0x3F || p == 0x4F || p == 0x57 || (decide (0x60 ≤ p) && decide (p ≤ 0x6F)) || p == 0x77
    || p == 0x87 || (decide (0x94 ≤ p) && decide (p ≤ 0x96)) || (decide (0x98 ≤ p) && decide (p ≤ 0x9F))

/-- A port that can be written, trigger ports among them (R314). -/
def writable (p : Nat) : Bool :=
  decide (p < 0x24) || p == 0x30 || p == 0x40 || p == 0x41 || p == 0x50 || (decide (0x60 ≤ p) && decide (p ≤ 0x6F))
    || p == 0x80 || p == 0x88 || p == 0xFF || (unitOf p).isSome

/-- A newt register. -/
def Newt.reg (n : Newt) (k : Nat) : Half := n.n[k % 32]'(Nat.mod_lt _ (by decide))
/-- A word of the line buffer. -/
def Newt.line (n : Newt) (k : Nat) : Half := n.lb[k % 16]'(Nat.mod_lt _ (by decide))

/-- A read of a port (R313, R314). -/
def readPort (x : NewtAt) (n : Newt) (p : Nat) : Half :=
  if p < 0x20 then n.reg p
  else if p < 0x24 then (if n.guard (p - 0x20) then 1#32 else 0#32)
  else if p = 0x3F then n.aluR
  else if p = 0x4F then n.fmaR
  else if p = 0x57 then n.lsR
  else if p ≤ 0x6F then n.line (p - 0x60)
  else if p = 0x77 then n.prR
  else if p = 0x87 then n.rcR
  else if p = 0x94 then BitVec.ofNat 32 x.rank
  else if p = 0x95 then BitVec.ofNat 32 x.grp.size
  else if p = 0x96 then BitVec.ofNat 32 (x.grp.serial % 65536)
  else BitVec.ofNat 32 (stepArg x.step.bits (p - 0x98))

/-- The value that a move carries (R311). -/
def moveValue (x : NewtAt) (n : Newt) (m : Move) : Half :=
  if m.i then (BitVec.ofNat 12 m.imm).signExtend 32 else readPort x n m.src

/-- A sketch port or TRSK, which waits for a sketch load (R352). -/
def sketchWaits (p : Nat) : Bool := unitOf p == some 4 || p == 0x8A

/-- A move that stalls its newt until an outstanding result is ready (R313, R314, R352). -/
def moveStalls (n : Newt) (m : Move) : Bool :=
  (!m.i && ((m.src == 0x4F && n.busy.contains 1) || (m.src == 0x57 && n.busy.contains 2) || (m.src == 0x77 && n.prOp.isSome)
    || (decide (0x60 ≤ m.src) && decide (m.src ≤ 0x6F) && n.busy.contains 9)))
    || (decide (0x60 ≤ m.dst) && decide (m.dst ≤ 0x6F) && n.busy.contains 9)
    || (sketchWaits m.dst && n.busy.contains 4)

/-- A write to a register, guard, operand port or line-buffer word (R312, step 3). -/
def writePort (n : Newt) (p : Nat) (v : Half) : Newt :=
  if p < 0x20 then { n with n := n.n.set (p % 32) v (Nat.mod_lt _ (by decide)) }
  else if p < 0x24 then { n with g := n.g.set (p % 4) (v.getLsbD 0) (Nat.mod_lt _ (by decide)) }
  else if p = 0x30 then { n with aluB := v }
  else if p = 0x40 then { n with fmaB := v }
  else if p = 0x41 then { n with fmaC := v }
  else if p = 0x50 then { n with lsD := v }
  else if 0x60 ≤ p ∧ p ≤ 0x6F then { n with lb := n.lb.set (p % 16) v (Nat.mod_lt _ (by decide)) }
  else if p = 0x80 then { n with szD := v }
  else if p = 0x88 then { n with trD := v }
  else n

/-! ## Traps -/

/-- The width of an access of the load/store unit. -/
def lsBytes (p : Nat) : Nat := if p ≤ 0x53 then 4 else if p ≤ 0x55 then 2 else 64

/-- A newt address that R29 or R47 makes invalid. -/
def newtAddrBad (s : State) (bk a : Nat) : Bool :=
  decide (2 ^ 27 ≤ a) || !validRow (s.bank bk) (newtCls a) (newtRow a)

/-- The sum of the sizes that a newt has declared, with one more (R330). -/
def sizesSum (n : Newt) (d v : Nat) : Nat := (SMap.put n.sizes d v).foldl (fun a p => a + p.2) 0

/-- The trap sub-codes that a move's trigger meets with a value (R315). Outside an ALLTOALL step SZ.SET declares no sizes, which
then exceed nothing. DEDUCED, log entry 42. -/
def triggerTraps (s : State) (x : NewtAt) (n : Newt) (p a : Nat) : List Nat :=
  let cond := fun (b : Bool) (k : Nat) => if b then [k] else []
  match unitOf p with
  | some 2 =>
    cond (newtAddrBad s x.bk a) 3 ++ cond ((p == 0x53 || p == 0x55 || p == 0x58) && newtCls a == 1) 4
      ++ cond (a % lsBytes p != 0) 9
  | some 3 => cond (newtAddrBad s x.bk a) 3 ++ cond (newtCls a == 1) 4
  | some 4 =>
    if p = 0x78 then cond (a % 4 == 3) 12
    else if p = 0x79 then []
    else if p ≤ 0x7C then cond (n.skKind != p - 0x7A) 12
    else cond (newtAddrBad s x.bk a) 3 ++ cond (p == 0x7D && newtCls a == 1) 4 ++ cond (a % 512 != 0) 9
  | some 5 =>
    let all := stepColl x.step.bits == 3
    cond (decide (x.grp.size ≤ n.szD.toNat) || (all && decide (stepSrows x.step.bits < sizesSum n n.szD.toNat a))) 11
      ++ cond (!all) 13
  | some 7 => if p = 0x89 then cond (decide (x.step.words ≤ a)) 12 else cond (x.step.words != 128) 12
  | some 8 => if p = 0x90 then cond (decide (256 ≤ a)) 6 else cond (p == 0x92) 7
  | _ => []

/-- The trap sub-codes that a move meets by itself. -/
def moveTraps (s : State) (x : NewtAt) (n : Newt) (m : Move) (a : Nat) : List Nat :=
  let src := if m.i then (if m.src != 0 then [8] else [])
    else if readable m.src then [] else if writable m.src then [2] else [1]
  let dst := if writable m.dst then [] else if readable m.dst then [2] else [1]
  src ++ dst ++ triggerTraps s x n m.dst a

/-- The traps that the moves of a word meet together, and at word 255 (R315). DEDUCED, log entry 42. -/
def wordTraps (n : Newt) (ms : List (Move × Half)) : List Nat :=
  let pair := match ms with
    | [(a, _), (b, _)] =>
      (if a.dst = b.dst ∧ a.dst ≠ 0xFF then [5] else [])
        ++ (if (unitOf a.dst).isSome ∧ unitOf a.dst = unitOf b.dst then [14] else [])
    | _ => []
  pair ++ if n.pc = 255 ∧ !ms.any (fun m => m.1.dst == 0x90 || m.1.dst == 0x91) then [10] else []

/-- The least of a list of sub-codes. -/
def leastSub (l : List Nat) : Option Nat := l.foldl (fun m k => match m with | none => some k | some j => some (min j k)) none

/-- An address trap's newt address, or 0. -/
def trapAddr (sub p a : Nat) : Nat :=
  if (sub = 3 ∨ sub = 4 ∨ sub = 9) ∧ (unitOf p = some 2 ∨ unitOf p = some 3 ∨ unitOf p = some 4) then a % 2 ^ 27 else 0

/-- The trap of a word (R315): the lowest sub-code, of move 0 where both moves meet it. -/
def wordTrap (s : State) (x : NewtAt) (n n1 : Newt) (ms : List (Move × Half)) : Option Report :=
  let each := ms.map fun m => (m, moveTraps s x n1 m.1 m.2.toNat)
  match leastSub ((each.map fun e => e.2).flatten ++ wordTraps n ms) with
  | none => none
  | some k =>
    let r : Report := { cause := 0x20, sub := k, rank := x.rank, npc := n.pc }
    match each.find? fun e => e.2.contains k with
    | some e => some { r with addr := trapAddr k e.1.1.dst e.1.2.toNat, code := if k = 7 then e.1.2.toNat else 0 }
    | none => some r

/-! ## Units -/

/-- A comparison as a 32-bit value. -/
def flag32 (b : Bool) : Half := if b then 1#32 else 0#32

/-- The ALU (R314). -/
def aluResult (p : Nat) (a b : Half) : Half :=
  let k := b.toNat % 32
  match p with
  | 0x31 => a + b
  | 0x32 => a - b
  | 0x33 => a &&& b
  | 0x34 => a ||| b
  | 0x35 => a ^^^ b
  | 0x36 => a <<< k
  | 0x37 => a >>> k
  | 0x38 => a.sshiftRight k
  | 0x39 => if a.toInt ≤ b.toInt then a else b
  | 0x3A => if a.toInt ≤ b.toInt then b else a
  | 0x3B => flag32 (a == b)
  | 0x3C => flag32 (decide (a.toInt < b.toInt))
  | 0x3D => flag32 (decide (a.toNat < b.toNat))
  | _ => a * b

/-- BF16 bits as FP32 (R314). -/
def bf2f (x : Nat) : Nat := (convertElem .fp32 .bf16 {} false (x % 65536)).1

/-- The floating-point unit (R314): round to nearest even, subnormals kept, canonical NaN, no flags. -/
def fmaResult (p : Nat) (a b c : Half) : Half :=
  let r := fun (x : Nat × Nat) => BitVec.ofNat 32 x.1
  let (x, y, z) := (a.toNat, b.toNat, c.toNat)
  match p with
  | 0x42 => r (fpFma .fp32 {} x y z)
  | 0x43 => r (fpAdd .fp32 {} x z)
  | 0x44 => r (fpMul .fp32 {} x y)
  | 0x45 => r (fpFma .fp32 {} (bf2f x) (bf2f y) z)
  | 0x46 => r (convertElem .bf16 .fp32 {} false x)
  | 0x47 => BitVec.ofNat 32 (bf2f x)
  | 0x48 => r (fpMinMax .fp32 {} true x y)
  | 0x49 => r (fpMinMax .fp32 {} false x y)
  | _ => flag32 (fpLess (fp32Of x) (fp32Of y))

/-- The newt of a bank changed. -/
def modNewt (s : State) (bk : Nat) (f : Newt → Newt) : State := s.modBank bk fun b => { b with newt := f b.newt }

/-- A unit's result becomes outstanding. -/
def Newt.wait (n : Newt) (k : Nat) : Newt := if n.busy.contains k then n else { n with busy := n.busy ++ [k] }

/-- The line buffer's bytes. -/
def lineBytes (n : Newt) : List Byte := (n.lb.toList.map fun w => natToBytes 4 w.toNat).flatten

/-- A line buffer from 64 bytes. -/
def lineOf (bs : List Byte) : Vector Half 16 :=
  Vector.ofFn fun i => BitVec.ofNat 32 (bytesToNat (sliceBytes bs (4 * i.val) 4))

/-- The load/store unit (R314): a store, and a line load, leave LS.R with no result of theirs, which is a free value. -/
def lsUnit (s : State) (bk p a : Nat) : Except (Report × State) State := do
  let n := (s.bank bk).newt
  match p with
  | 0x52 | 0x54 =>
    let (bs, s1) ← newtLoad s bk a (lsBytes p)
    .ok (modNewt s1 bk fun n => { n.wait 2 with lsR := BitVec.ofNat 32 (bytesToNat bs) })
  | 0x56 =>
    let (bs, s1) ← newtLoad s bk a 64
    let (f, s2) := drawBits s1 32
    .ok (modNewt s2 bk fun n => { n.wait 9 with lb := lineOf bs, lsR := f })
  | _ =>
    let bs := if p = 0x58 then lineBytes n else natToBytes (lsBytes p) n.lsD.toNat
    let s1 ← newtStore s bk a bs
    let (f, s2) := drawBits s1 32
    .ok (modNewt s2 bk fun n => { n with lsR := f })

/-- The deterministic coin of newts and trees (R347, R352). -/
def fixedCoin : Coin := { fast := false, drawn := 0 }

/-- The empty summary of a kind. -/
def emptySummary (kind : Nat) : Nat := if kind = 0 then ({} : Sketch).bits else 0

/-- The sketch unit (R314, R352). -/
def skUnit (s : State) (bk p a : Nat) : Except (Report × State) State := do
  let n := (s.bank bk).newt
  let sk := n.sk.toNat
  let put := fun (x : Nat) => modNewt s bk fun n => { n with sk := sumVec x }
  match p with
  | 0x78 => .ok (modNewt s bk fun n => { n with skKind := a % 4, sk := sumVec (emptySummary (a % 4)) })
  | 0x79 => .ok (if n.skKind = 0 then put (setFld sk 160 32 a) else s)
  | 0x7A => .ok (if isNan32 a then s else put (insertSketch fixedCoin (Sketch.ofBits sk) a).1.bits)
  | 0x7B => .ok (put (insertHitter (Hitters.ofBits sk) a).bits)
  | 0x7C => .ok (put (insertDistinct (Distinct.ofBits sk) a).bits)
  | 0x7D => newtStore s bk a (natToBytes 512 sk)
  | _ =>
    let (bs, s1) ← newtLoad s bk a 512
    .ok (modNewt s1 bk fun n => { n.wait 4 with sk := sumVec (bytesToNat bs) })

/-- A trigger of the PROMOTE unit: its operation waits at the bank with those of the channel (R53, R63). -/
def prUnit (s : State) (bk p a : Nat) : State :=
  let (uid, s1) := newOp s
  let op : BankOp := { uid := uid, cid := newtAgent, kind := p - 0x70, row := newtRow a, dst := 0#6 }
  s1.modBank bk fun b => { b with queue := b.queue ++ [op], newt := { b.newt with prOp := some uid } }

/-- The contribution words that TRSK writes (R314). -/
def sketchWords (n : Newt) : SMap Half := (List.range 128).map fun i => (i, BitVec.ofNat 32 (elemOf 32 n.sk.toNat i))

/-- One trigger applied (R312, step 4). -/
def applyTrigger (s : State) (x : NewtAt) (p : Nat) (v : Half) : Except (Report × State) State :=
  let a := v.toNat
  match unitOf p with
  | some 0 => .ok (modNewt s x.bk fun n => { n with aluR := aluResult p v n.aluB })
  | some 1 => .ok (modNewt s x.bk fun n => { n.wait 1 with fmaR := fmaResult p v n.fmaB n.fmaC })
  | some 2 => lsUnit s x.bk p a
  | some 3 => .ok (prUnit s x.bk p a)
  | some 4 => skUnit s x.bk p a
  | some 5 => .ok (modNewt s x.bk fun n => { n with sizes := SMap.put n.sizes n.szD.toNat a })
  | some 6 =>
    let (off, rows) := SMap.getD (s.bank x.bk).recv a (0, 0)
    .ok (modNewt s x.bk fun n => { n with rcR := BitVec.ofNat 32 (off + rows * 65536) })
  | some 7 => .ok (modNewt s x.bk fun n =>
      { n with contrib := if p = 0x89 then SMap.put n.contrib a n.trD else sketchWords n })
  | some _ => .ok (if p = 0x90 then modNewt s x.bk fun n => { n with pc := a }
      else if p = 0x91 then modNewt s x.bk fun n => { n with halted := true } else s)
  | none => .ok s

end Sys2Proof.Machine
end

