-- ==== Sys2Proof/Machine/Steps.lean ====
section
/-! DEFINITION. Rank steps as they run: newt words, the end of flood, the collectives and the reduction tree (R312, R313, R326,
R329 to R334, R353). -/

namespace Sys2Proof.Machine
open Sys2Proof

/-! ## The reduction tree -/

/-- −∞ in FP32. -/
def negInf32 : Nat := 0xFF800000
/-- The canonical NaN in FP32 (R156). -/
def nan32 : Nat := 0x7FC00000

/-- MAXSUM of two pairs (R333). -/
def maxsum (m s m' s' : Nat) : Nat × Nat :=
  let exp := fun x y => (specialElem .exp .fp32 {} (fpSub .fp32 {} x y).1).1
  if isNan32 m || isNan32 m' then (nan32, nan32)
  else if m = negInf32 ∧ m' = negInf32 then (negInf32, (fpAdd .fp32 {} s s').1)
  else if !fpLess (fp32Of m) (fp32Of m') then (m, (fpFma .fp32 {} s' (exp m' m) s).1)
  else (m', (fpFma .fp32 {} s (exp m m') s').1)

/-- MAXSUM over words in pairs (R323). -/
def maxsumWords : List Nat → List Nat → List Nat
  | m :: x :: r, m' :: y :: r' => let (a, b) := maxsum m x m' y; a :: b :: maxsumWords r r'
  | _, _ => []

/-- The merge of two summaries given as words (R353): the contributions were checked at the start of move, and a partial
result is not checked again. -/
def mergeWords (kind : Nat) (a b : List Nat) : List Nat :=
  unpackElems 32 128 (mergeBits kind fixedCoin (packElems 32 a) (packElems 32 b)).1

/-- The operator of a tree on two contributions (R323, R332). -/
def treeOp (op : Nat) (a b : List Nat) : List Nat :=
  let each := fun (f : Nat → Nat → Nat) => (a.zip b).map fun p => f p.1 p.2
  match op with
  | 1 => each fun x y => (x + y) % 2 ^ 32
  | 3 => each fun x y => (fpMinMax .fp32 {} true x y).1
  | 4 => each fun x y => if signedOf 32 x ≤ signedOf 32 y then y else x
  | 5 => maxsumWords a b
  | 6 | 7 | 8 => mergeWords (op - 6) a b
  | _ => each fun x y => (fpAdd .fp32 {} x y).1

/-- The identity word of an operator at a position (R323). -/
def treeIdentity (op i : Nat) : Nat :=
  match op with
  | 3 => negInf32
  | 4 => 2 ^ 31
  | 5 => if i % 2 = 0 then negInf32 else 0
  | 6 => elemOf 32 (emptySummary 0) i
  | _ => 0

/-- A newt's contribution: the words it wrote over the identity (R332). -/
def contribution (n : Newt) (op w : Nat) : List Nat :=
  (List.range w).map fun i => match SMap.find? n.contrib i with
    | some x => x.toNat
    | none => treeIdentity op i

/-- One level of the tree with a fan-in: neighbours folded from the left (R332). The fuel is the number of inputs. -/
def treeFold (op f : Nat) : Nat → List (List Nat) → List (List Nat)
  | 0, _ => []
  | _ + 1, [] => []
  | k + 1, x :: xs => ((x :: xs).take f).tail.foldl (treeOp op) x :: treeFold op f k ((x :: xs).drop f)

/-- The levels of the tree until one input is left (R332). -/
def treeReduce (op f : Nat) : Nat → List (List Nat) → List Nat
  | 0, xs => xs.headD []
  | k + 1, xs => if xs.length ≤ 1 then xs.headD [] else treeReduce op f k (treeFold op f xs.length xs)

/-- The fan-in of a shape (R332). -/
def fanIn (shape : Nat) : Nat := if shape = 0 then 2 else if shape = 1 then 4 else 16

/-- The tree result of a step (R332): BF16 leaves are widened first. -/
def treeResult (s : State) (die : Nat) (g : Group) (st : RStep) : List Nat :=
  let xs := (groupBanks die g).map fun k => contribution (s.bank k).newt st.oper st.words
  let leaves := if st.oper = 2 then xs.map fun x => x.map bf2f else xs
  treeReduce st.oper (fanIn st.shape) leaves.length leaves

/-! ## The start of move -/

/-- The rows that a rank declared for another (R330). -/
def declared (s : State) (die : Nat) (g : Group) (t r : Nat) : Nat := SMap.getD (s.bank (rankBank die g t)).newt.sizes r 0

/-- The receive region of a destination as its sources share it: source, offset and rows, in rising source order (R331). -/
def allotRegion (s : State) (die : Nat) (g : Group) (r : Nat) : List (Nat × Nat × Nat) :=
  ((List.range g.size).foldl (fun (acc : List (Nat × Nat × Nat) × Nat) t =>
    let n := declared s die g t r
    (acc.1 ++ [(t, acc.2, n)], acc.2 + n)) ([], 0)).1

/-- The first source that does not fit, by destination and source (R331). -/
def misfit (s : State) (die : Nat) (g : Group) (rcap : Nat) : Option Report :=
  (List.range g.size).findSome? fun r =>
    ((allotRegion s die g r).find? fun x => decide (rcap < x.2.1 + x.2.2)).map fun x =>
      { cause := 0x23, rank := r, src := x.1, need := x.2.1 + x.2.2 }

/-- Every destination's table: destination, source, offset and rows (R331). -/
def allTables (s : State) (die : Nat) (g : Group) : List (Nat × Nat × Nat × Nat) :=
  ((List.range g.size).map fun r => (allotRegion s die g r).map fun x => (r, x)).flatten

/-- The first rank whose contribution is no summary of the tree's kind (R353). -/
def badSummary (s : State) (die : Nat) (g : Group) (st : RStep) : Option Report :=
  if st.oper < 6 then none
  else ((List.range g.size).find? fun r =>
      !summaryOk (st.oper - 6) (packElems 32 (contribution (s.bank (rankBank die g r)).newt st.oper st.words))).map fun r =>
    { cause := 0x20, sub := 12, rank := r }

/-- A head step replaced. -/
def setHead (s : State) (die e : Nat) (st : RStep) : State :=
  let g := groupAt s die e
  setGroup s die e { g with steps := st :: g.steps.tail }

/-- The last member has executed HALT: the step moves, or publishes where it has no collective (R326, R331, R353). -/
def endFlood (s : State) (die e : Nat) : State :=
  let g := groupAt s die e
  match g.steps with
  | [] => s
  | st :: _ =>
    let c := stepColl st.bits
    if c = 0 then setHead s die e { st with phase := .publish }
    else
      let s1 := setHead s die e { st with phase := .move, recvNew := if c = 3 then allTables s die g else [] }
      let bad := if c = 3 then misfit s die g (stepRcap st.bits) else if c = 4 then badSummary s die g st else none
      match bad with
      | some r => failStep s1 die e st r
      | none => s1

/-! ## Newt words -/

/-- The triggers of a word applied in turn; of two failures the lower cause is kept (R312, R326). -/
def applyTriggers (s : State) (x : NewtAt) (ms : List (Move × Half)) : Option Report × State :=
  ms.foldl (fun acc m =>
    if (unitOf m.1.dst).isNone then acc
    else match applyTrigger acc.2 x m.1.dst m.2 with
      | .ok s1 => (acc.1, s1)
      | .error (r, s1) => (match acc.1 with
          | some r0 => if r.cause < r0.cause then some r else some r0
          | none => some r, s1)) (none, s)

/-- The next word of a newt in flood, in the newt cycle that has come: none where it does not execute one, having halted,
having executed one in this cycle, or standing at a result that is not ready; the failure it meets, or its effect (R312,
R313, R315). -/
def newtWord (s : State) (x : NewtAt) : Option (Option Report × State) :=
  let b := s.bank x.bk
  let n := b.newt
  let ms := ((movesOf (SMap.getD b.prog n.pc 0#64)).filter fun m => guardHolds n m.g).map fun m => (m, moveValue x n m)
  if n.halted || decide (newtCycles s < n.last) || ms.any fun m => moveStalls n m.1 then none
  else
    let n1 := ms.foldl (fun n m => writePort n m.1.dst m.2) n
    match wordTrap s x n n1 ms with
    | some r => some (some r, s)
    | none =>
      let (r, s1) := applyTriggers (modNewt s x.bk fun _ => { n1 with pc := (n.pc + 1) % 256, last := newtCycles s + 1 }) x ms
      some (r.map fun r => { r with rank := x.rank, npc := n.pc }, s1)

/-- The failure that a step reports when a member of it fails: of the failures of that newt cycle that of the lowest rank, and of
one rank the one of the lowest cause (R326). -/
def firstFailure (s : State) (x : NewtAt) (r : Report) (s1 : State) : Report × State :=
  ((List.range (x.rank + 1)).findSome? fun k =>
    match newtWord s { x with bk := rankBank x.die x.grp k, rank := k } with
    | some (some r0, s0) => if k < x.rank ∨ r0.cause < r.cause then some (r0, s0) else none
    | _ => none).getD (r, s1)

/-- A member of a step in flood fails: the step reports the first failure of the newt cycle (R326). -/
def failMember (s : State) (x : NewtAt) (r : Report) (s1 : State) : State :=
  let (r0, s0) := firstFailure s x r s1
  failStep s0 x.die x.entry x.step r0

/-- The step in flood on a bank aborts because the bank is fenced (R326, R420). -/
def fenceAborts (s : State) (bk : Nat) : State :=
  match floodAt s bk with
  | none => s
  | some x => failMember s x { cause := 0x24, rank := x.rank } s

/-- NEWT_WORD (R312, R326): the newt of a bank executes its next word, stalls, or fails its step. -/
def execNewtWord (bank : Nat) (s : State) : Host.Outcome State Fault Refusal :=
  .next (match floodAt s bank with
    | none => s
    | some x =>
      match overdue s x.die x.entry, newtWord s x with
      | some late, _ => timeoutStep s x.die x.entry late
      | none, none => s
      | none, some (some r, s1) => failMember s x r s1
      | none, some (none, s1) =>
        if (groupBanks x.die x.grp).all fun k => (s1.bank k).newt.halted then endFlood s1 x.die x.entry else s1)

/-- NEWT_RESULT_READY (R313, R352): a unit's outstanding result is ready; a sketch load is then checked. -/
def execNewtResultReady (bank unit : Nat) (s : State) : Host.Outcome State Fault Refusal :=
  let n := (s.bank bank).newt
  .next (match floodAt s bank with
    | none => s
    | some x =>
      if unit = 4 ∧ n.busy.contains 4 ∧ !summaryOk n.skKind n.sk.toNat then
        failMember s x { cause := 0x20, sub := 12, rank := x.rank, npc := n.pc } s
      else modNewt s bank fun n => { n with busy := n.busy.filter fun k => k != unit && !(unit == 2 && k == 9) })

/-! ## Move -/

/-- A transfer of one row: source rank and row, destination rank and row. -/
structure Transfer where
  src : Nat
  srow : Nat
  dst : Nat
  drow : Nat

/-- The rows that a collective moves, in rising source rank (R329 to R331). -/
def transfers (s : State) (die : Nat) (g : Group) (st : RStep) : List Transfer :=
  let b := st.bits
  let rows := fun (n i si j dj : Nat) => (List.range n).map fun k => ({ src := i, srow := si + k, dst := j, drow := dj + k } : Transfer)
  let n := stepSrows b
  let sb := stepSbase b
  let rb := stepRbase b
  match stepColl b with
  | 1 => ((List.range g.size).map fun i => rows n i sb ((i + stepD b) % g.size) rb).flatten
  | 2 =>
    let k := n / g.size
    ((List.range g.size).map fun i => ((List.range g.size).map fun j => rows k i (sb + j * k) j (rb + i * k)).flatten).flatten
  | 3 =>
    ((List.range g.size).map fun i =>
      ((List.range g.size).foldl (fun (acc : List Transfer × Nat) j =>
        let m := declared s die g i j
        let off := ((st.recvNew.find? fun x => x.1 == j && x.2.1 == i).map fun x => x.2.2.1).getD 0
        (acc.1 ++ rows m i (sb + acc.2) j (rb + off), acc.2 + m)) ([], 0)).1).flatten
  | 5 => ((List.range g.size).map fun j => rows n (stepD b) sb j rb).flatten
  | _ => []

/-- A whole row read in its flood-end state (R329). -/
def readRow (s : State) (bk row : Nat) : Except (Report × State) (List Byte × State) := do
  let s1 ← (List.range 16).foldlM (fun s i => newtCode s bk 0 row i (row * 1024 + 64 * i)) s
  .ok (newtBytes s1 bk (row * 1024) 1024, s1)

/-- A part of move that may fail, with the rank it concerns: NPC is 0 (R328). -/
def atRank {α : Type} (r : Nat) : Except (Report × State) α → Except (Report × State) α
  | .error (rep, s) => .error ({ rep with rank := r, npc := 0 }, s)
  | .ok a => .ok a

/-- Every row of a collective read before any is written, then written by rising destination (R329). -/
def moveRows (s : State) (die : Nat) (g : Group) (ts : List Transfer) : Except (Report × State) State := do
  let (rows, s1) ← ts.foldlM (fun (acc : List (Transfer × List Byte) × State) t => do
    let (bs, s1) ← atRank t.src (readRow acc.2 (rankBank die g t.src) t.srow)
    .ok (acc.1 ++ [(t, bs)], s1)) ([], s)
  (List.range g.size).foldlM (fun s r =>
    (rows.filter fun p => p.1.dst == r).foldlM (fun s p =>
      atRank r (newtStore s (rankBank die g r) (p.1.drow * 1024) p.2)) s) s1

/-- The places of a tree result (R334). -/
def treePieces (s : State) (pa n : Nat) : Option (List (Nat × Nat)) :=
  if regionOf pa = 1 then (if validVault pa && validVault (pa + n - 1) then some [(pa, n)] else none) else dramPieces s pa n

/-- The tree result put into pending sectors, or none where it cannot be held (R334). -/
def holdResult (s : State) (die : Nat) (g : Group) (st : RStep) : Option State × State :=
  let ws := treeResult s die g st
  let bytes := (ws.map fun w => natToBytes 4 w).flatten
  match st.tres.bind fun a => treePieces s a bytes.length with
  | none => (none, s)
  | some ps =>
    let other := ps.any fun p => regionOf p.1 == 0 &&
      (stepsOfBank s (bankKey p.1)).any fun q => q.2.phase != .armed && q.2.op != st.op
    if other || ps.any (fun p => claimedBy s none p.1 p.2) then (none, s) else pendPieces s st.op ps bytes

/-- STEP_MOVE_COMPLETE (R326, R329, R334): every row is moved and the tree result formed, and the step enters publish. -/
def execStepMoveComplete (die grp : Nat) (s : State) : Host.Outcome State Fault Refusal :=
  let g := groupAt s die grp
  .next (match overdue s die grp, g.steps with
    | some late, _ => timeoutStep s die grp late
    | none, [] => s
    | none, st :: _ =>
      if st.phase ≠ .move then s
      else if stepColl st.bits = 4 then
        match holdResult s die g st with
        | (some s1, _) => setHead s1 die grp { st with phase := .publish }
        | (none, s1) => failStep s1 die grp st { cause := 0x28 }
      else match moveRows s die g (transfers s die g st) with
        | .ok s1 => setHead s1 die grp { st with phase := .publish }
        | .error (r, s1) => failStep s1 die grp st r)

end Sys2Proof.Machine
end

