-- ==== Sys2Proof/Machine/Preempt.lean ====
section
/-! DEFINITION. What a supervisor does to contexts: resumption, retirement, save images, eviction and restore, breakwaters
(R182, R291, R294, R388 to R396). -/

namespace Sys2Proof.Machine
open Sys2Proof

/-! ## Gangs -/

/-- The contexts still bound to the GANGTASK that holds a gang: its members that have not retired (R291, R294). -/
def boundMembers (g : Gang) : List Nat := g.members.filter fun m => !g.retired.contains m

/-- A member that the gang fault stops though no instruction of its own has faulted: it goes on from where it stands. -/
def heldCtx (c : Ctx) : Ctx :=
  { c with passFault := if c.passing then some (c.rep.pass, c.rep.pos) else none, passing := false }

/-- The gang fault at one member (R294): its GANG, or the RETIRE or GANG of the culprit, has had no effect; another member
keeps all that it has. -/
def gangFaultAt (s : State) (culprit : Option Nat) (m : Nat) : State :=
  let t : Trap := { code := 0x23, sub := b2n (culprit == some m) }
  let inPass := fun (c : Ctx) => { c with passing := !c.rep.body.isEmpty && !c.replayV }
  if culprit = some m ∨ (s.ctx m).atGang then takeFault (s.modCtx m inPass) m t
  else freezeWith (settleCtx s m |>.modCtx m inPass) m t heldCtx

/-- The gang fault (R294): every member still bound freezes its core; SUB marks the culprit. -/
def gangFault (s : State) (g : Nat) (culprit : Option Nat) : State :=
  (boundMembers (s.gang g)).foldl (fun s m => gangFaultAt s culprit m) s

/-- A member waits at GANG. -/
def waitsAtGang (s : State) (g : Nat) : Bool := (boundMembers (s.gang g)).any fun m => (s.ctx m).atGang

/-! ## The end of a task -/

/-- A context made idle: nothing of its task is left, and its incarnation advances (R178, R397). It advances at an eviction too,
so that the next task differs from the evicted one: DESIGN CHOICE, log entry 41. -/
def idleAt (s : State) (cid : Nat) : State :=
  let k := ctxNo cid % 4
  have h : k < 4 := Nat.mod_lt _ (by decide)
  let i := ((s.core (coreOf cid)).incs[k] + 1) % 16
  (s.modCore (coreOf cid) fun c => { c with incs := c.incs.set k i h }).setCtx cid { ({} : Ctx) with incarnation := i }

/-- A task is in its context (R397). -/
def taskInCtx (s : State) (cid inc : Nat) : Bool := (s.ctx cid).st != .idle && (s.ctx cid).incarnation == inc

/-- The save image of a task (R391, R397). -/
def taskImage (s : State) (cid inc : Nat) : Option Image :=
  (s.die (dieOf cid)).images.find? fun m => m.cid == cid && m.ctx.incarnation == inc

/-- A task that has not ended: it is in its context or in an image. What is sent to another is stale (R397). -/
def taskHere (s : State) (cid inc : Nat) : Bool := taskInCtx s cid inc || (taskImage s cid inc).isSome

/-- A context has left its node, well or lost: a TASK finishes, a GANGTASK with its last member (R195, R368, R370). -/
def leaveNode (s : State) (cid : Nat) (n : Nat) (lost : Bool) : State :=
  match nodeAt s n with
  | none => s
  | some x =>
    if nodeKind x.bits = 1 then
      let g := gangOf cid
      let s1 := s.modGang g fun y => { y with retired := cid :: y.retired }
      let x1 := { x with left := x.left - 1, lost := x.lost || lost }
      let s2 := putNode s1 n x1
      if x1.left = 0 then
        finishNode (s2.modGang g fun y => { y with task := none, members := [], retired := [] }) n (if x1.lost then 15 else 0)
      else s2
    else finishNode s n (if lost then 15 else 0)

/-- Every tidal store of a task discarded (R182). -/
def dropTidal (s : State) (cid inc : Nat) : State :=
  pendDrop (s.modCore (coreOf cid) fun c => { c with tidal := c.tidal.filter fun t => !(t.ctx == cid && t.inc == inc) })
    fun o => match o with | .tidal c i _ _ => c == cid && i == inc | _ => false

/-- The scope of a retirement as a release (R368). -/
def retireScope (s : State) (cid : Nat) : Scope :=
  match (s.ctx cid).node.bind (nodeAt s) with
  | none => .die
  | some x =>
    if 4 ≤ nodeCscope x.bits ∨ x.succ.any (fun t => t.1 / 4096 != dieOf cid) then .pkg else .die

/-- The release of a context that retires: the bytes of its core's V sectors go home and its records close (R368). -/
def retireRelease (s : State) (cid : Nat) : State :=
  let mine := sectorsIn (s.core (coreOf cid)) fun x => x.st == .v
  raceClose (mine.foldl (fun s x => flushV s (coreOf cid) x) s) cid (retireScope s cid)

/-- A context that runs as one side of a pair (R402). -/
def isPaired (s : State) (cid : Nat) : Bool :=
  match (s.core (coreOf cid)).pair with
  | some p => p.ctx == cid % 4 && p.inc == (s.ctx cid).incarnation
  | none => false

/-- A pair dissolved on both of its cores (R396, R404): stores that were not agreed are discarded. -/
def dissolvePair (s : State) (core : Nat) : State :=
  match (s.core core).pair with
  | none => s
  | some p =>
    let s1 := (s.modCore core fun c => { c with pair := none }).modCore p.partner fun c => { c with pair := none }
    pendDrop s1 fun o => o == .interval p.owner

/-- A context retired by the supervisor (R182, R294, R368): its handles and tidal stores are discarded. A pair that it is a side of
is dissolved: DESIGN CHOICE, log entry 89. -/
def retireCtx (s : State) (cid : Nat) : State :=
  let c := s.ctx cid
  match c.st with
  | .idle | .evicted => s
  | _ =>
    let g := gangOf cid
    let member := !isSup cid && (s.gang g).task.isSome && (boundMembers (s.gang g)).contains cid
    let s1 := if isPaired s cid then dissolvePair s (coreOf cid) else s
    let s2 := idleAt (retireRelease (dropTidal s1 cid c.incarnation) cid) cid
    let s3 := match c.node with | some n => leaveNode s2 cid n false | none => s2
    if member && waitsAtGang s3 g then gangFault s3 g none else s3

/-! ## Resumption -/

/-- A frozen context returns to its state; it is ready if its wake condition was met meanwhile, and it enters its line anew
(R182, R204, R205, R388). -/
def resumeCtx (c : Ctx) : Ctx :=
  match c.st with
  | .frozen => { c with st := if c.prev = .blocked ∧ c.met then .ready else c.prev, prev := .idle, entry := .plain }
  | _ => c

/-- A frozen core resumes (R388). A context whose enabled floating-point condition came while it was frozen parks at once
(R182). -/
def resumeCore (s : State) (core : Nat) : State :=
  (ctxsOf core).foldl (fun s k => parkIfEvent (s.modCtx k resumeCtx) k) (s.modCore core fun c => { c with frozen := false })

/-! ## Save images -/

/-- Bytes of a number. -/
def le (n x : Nat) : List Byte := natToBytes n x

/-- The value of c.cycle at which the bound of a wait expires, 0 for none (R391): of a wait at a barrier object, whose bound
counts ungated cycles from the wait's beginning, at the rate of full speed. -/
def deadlineOf (s : State) (cid : Nat) (c : Ctx) : Nat :=
  match c.wake, c.watch with
  | .barrier .., some a =>
    let bound := fld (readWord64 s a) 32 32
    if bound = 0 then 0 else cycleOf s (dieOf cid) + (c.deadline + 256 * bound - ungatedFor s cid)
  | .barrier .., none => 0
  | _, _ => c.deadline

/-- The code region's limits in one word (R391): bits 47 to 16 of each. -/
def regionBits (c : Ctx) : Nat := fld c.codeBase 16 32 + (fld c.codeLim 16 32 <<< 32)

/-- The content of a save image as its eviction writes it (R391): the packing of its first word, of the code region and of the
sequencer is the model's choice. DESIGN CHOICE, log entry 41. -/
def imageBytes (s : State) (cid : Nat) (c : Ctx) : List Byte :=
  let zeros := fun n => List.replicate n (0#8 : Byte)
  le 8 (cid % 65536 + ((c.node.getD 0) <<< 16) + (1 <<< 32)) ++ le 8 (nextPc c) ++ le 16 c.wake.bits ++ le 8 (deadlineOf s cid c)
    ++ le 8 c.asid.toNat ++ le 8 c.troot.toNat ++ le 8 (regionBits c)
    ++ le 8 c.round.toNat ++ le 8 c.fpflags.toNat ++ le 8 c.fpen.toNat ++ le 8 c.mode.toNat
    ++ (c.doms.toList.map fun w => le 8 w.toNat).flatten ++ le 8 c.icount.toNat ++ zeros 120
    ++ (c.sregs.toList.zipIdx.map fun p => le 8 (if p.2 = 0 then 0 else p.1.toNat)).flatten
    ++ (c.hregs.toList.map fun h => le 16 (handleBits h)).flatten
    ++ (c.mregs.toList.map fun m => le 128 m.toNat).flatten
    ++ zeros 1024 ++ le 256 (repBits c.rep) ++ zeros 768
    ++ (c.vregs.toList.map fun v => le 512 v.toNat).flatten

/-- A run of whole sectors written by a device, where its addresses name DRAM. -/
def writeSectors (s : State) (pa : Nat) : Nat → List Byte → State
  | 0, _ => s
  | f + 1, bs =>
    if bs.isEmpty then s
    else
      let s1 := match dramLoc s pa with
        | none => s
        | some a => deviceWrite s (a / 64) (ones 64) (bs.take 64)
      writeSectors s1 (pa + 64) f (bs.drop 64)

/-- Bytes of a save slot as its writes leave them: none where the address names no DRAM. -/
def slotRead (s : State) (die slot off n : Nat) : Option Nat :=
  (dramLoc s (slotAddr s die slot off)).map fun a => bytesToNat (postedBytes s a n)

/-- A place of a save slot that holds requests back, with the parked die that a read of it wakes (R56, R62, R68, R69). -/
def slotHeld (s : State) (die slot : Nat) : Option State :=
  (List.range 320).findSome? fun k => (dramLoc s (slotAddr s die slot (64 * k))).bind fun a => heldAt s .load (.dram a)

/-- The lowest free save slot of a die (R391). -/
def freeSlot (s : State) (die : Nat) : Option Nat :=
  let d := s.die die
  (List.range d.svSlots).find? fun i => !d.images.any fun m => m.slot == i

/-- The members of a context's crew that hold a context (R198). -/
def crewResident (s : State) (cid : Nat) : Bool :=
  match (s.ctx cid).node.bind (nodeAt s) with
  | none => false
  | some x =>
    let k := nodeCrew x.bits
    k != 0 && s.ctxs.any fun p => p.1 != cid && dieOf p.1 == dieOf cid && p.2.st != .idle
      && (match p.2.node.bind (nodeAt s) with | some y => nodeCrew y.bits == k | none => false)

/-- A context that may be evicted (R390). -/
def evictable (s : State) (cid : Nat) : Bool :=
  let c := s.ctx cid
  !isSup cid && c.st == .blocked && c.node.isSome && !(boundMembers (s.gang (gangOf cid))).contains cid && !crewResident s cid
    && c.windows.all (·.finished)

/-- A context evicted into a slot (R391). -/
def evictTo (s : State) (cid slot : Nat) : State :=
  let c := s.ctx cid
  let die := dieOf cid
  let s2 := idleAt (writeSectors s (slotAddr s die slot 0) 320 (imageBytes s cid c)) cid
  let kept := { c with line := none, fetchReq := none, entry := .plain }
  s2.modDie die fun d => { d with images := d.images ++ [{ slot := slot, cid := cid, ctx := kept }] }

/-- A context evicted if it is evictable and a slot is free; without a slot FULL is set (R390). -/
def evict (s : State) (cid : Nat) : State :=
  if !evictable s cid then s
  else match freeSlot s (dieOf cid) with
    | some i => evictTo s cid i
    | none => s.modDie (dieOf cid) fun d => { d with svFull := true }

/-- The defined bits of a control register that a write sets: none for one that is read only (R34, R159, R186, R233, R269). -/
def ctlBits (n v : Nat) : Option Nat :=
  if n = 1 then some (fld v 0 3)
  else if n = 2 ∨ n = 3 then some (fld v 0 5)
  else if n = 4 then some (fld v 0 2)
  else if 0x10 ≤ n ∧ n ≤ 0x13 then some (fld v 0 29 + (fld v 32 13 <<< 32) + (fld v 48 4 <<< 48))
  else if n = 0x20 then some (fld v 0 16)
  else if n = 0x21 then some (fld v 12 36 <<< 12)
  else none

/-- Bytes of a save slot in sectors of 64, as a number: none where an address names no DRAM. -/
def slotWide (s : State) (die slot off sectors : Nat) : Option Nat :=
  (List.range sectors).foldl (fun (a : Option Nat) h =>
    match a, slotRead s die slot (off + 64 * h) 64 with
    | some x, some y => some (x + (y <<< (512 * h)))
    | _, _ => none) (some 0)

/-- A wake condition from its bits, for a core of a die (R392): kinds that never occur hold none. The layout names a tile's vault within
the core's own die, and a wait for a tile of another die's vault is read back as one for that number on the own die: DESIGN CHOICE, log
entry 82. -/
def wakeOf (die b : Nat) : Wake :=
  match fld b 0 4 with
  | 1 => .barrier (fld b 4 48) (fld b 52 4)
  | 2 => .tide (fld b 4 16) (bit b 20) (fld b 21 2)
  | 3 => .handle (fld b 4 4)
  | 4 => .token (fld b 4 20)
  | 5 => .tile (die * 160 + fld b 4 8 % 160) (fld b 12 7)
  | 6 => .remote (fld b 4 6) (bit b 10) (fld b 11 4)
  | 7 => .word (fld b 4 48) (fld b 52 2) (fld b 64 64)
  | _ => .none

/-- A handle from its bits (R386, R391); a pending one is pending on the operation that it was, and a complete one keeps the scope
that it had. -/
def handleOf (old : Handle) (b : Nat) : Handle :=
  match fld b 0 2 with
  | 0 => .idle
  | 2 => .complete (wd (fld b 64 64)) (match old with | .complete _ sc => sc | _ => .thr)
  | _ => old

/-- A repetition buffer from its bits. -/
def repOf (b : Nat) : RepBuf :=
  { body := (List.range (min 8 (fld b 1600 8))).map fun i => BitVec.ofNat 96 (fld b (96 * i) 96), pos := fld b 1608 8,
    pass := fld b 1616 32, count := fld b 1648 32, pc := fld b 768 48, flags := fld b 816 8, rstr := fld b 824 8,
    istr := fld b 832 16 }

/-- A register that a reply has been written into while its task was evicted: until the load is performed, its own address may need
what the register held before (R393). -/
def repliedReg (c : Ctx) (vec : Bool) (i : Nat) : Bool :=
  match c.wake with
  | .remote d v _ => !c.reply.isEmpty && v == vec && d == i
  | _ => false

/-- The registers of an image as its slot in memory holds them: what the image keeps stands where memory has no copy
(R394). Reserved bits of control registers read as zero (R5). -/
def loadImage (s : State) (die : Nat) (m : Image) : Ctx :=
  let c := m.ctx
  let w := fun off (d : Word) => ((slotRead s die m.slot off 8).map wd).getD d
  let ctl := fun n off (d : Word) => wd ((ctlBits n (w off d).toNat).getD 0)
  let region := (slotRead s die m.slot 0x38 8).getD (regionBits c)
  { c with
    pc := match slotRead s die m.slot 8 8 with
      | some x => if x % 2 ^ 48 = nextPc c % 2 ^ 48 then c.pc else x % 2 ^ 48
      | none => c.pc
    wake := ((slotRead s die m.slot 0x10 16).map (wakeOf die)).getD c.wake
    deadline := if c.wake.kind = 7 ∨ c.wake.kind = 5 then (slotRead s die m.slot 0x20 8).getD c.deadline else c.deadline
    codeBase := setFld c.codeBase 16 32 (fld region 0 32), codeLim := setFld c.codeLim 16 32 (fld region 32 32)
    asid := ctl 0x20 0x28 c.asid, troot := ctl 0x21 0x30 c.troot, round := ctl 1 0x40 c.round
    fpflags := ctl 2 0x48 c.fpflags, fpen := ctl 3 0x50 c.fpen, mode := ctl 4 0x58 c.mode, icount := w 0x80 c.icount
    doms := Vector.ofFn fun i =>
      let x := (w (0x60 + 8 * i.val) c.doms[i]).toNat
      wd ((ctlBits 0x10 x).getD 0 + (b2n (bit x 63) <<< 63))
    sregs := Vector.ofFn fun i => if repliedReg c false i.val then c.sregs[i] else w (0x100 + 8 * i.val) c.sregs[i]
    hregs := Vector.ofFn fun i =>
      ((slotRead s die m.slot (0x300 + 16 * i.val) 16).map (handleOf c.hregs[i])).getD c.hregs[i]
    mregs := Vector.ofFn fun i => (slotWide s die m.slot (0x400 + 128 * i.val) 2).elim c.mregs[i] fun x => BitVec.ofNat 1024 x
    rep := (slotWide s die m.slot 0xC00 4).elim c.rep repOf
    vregs := Vector.ofFn fun i =>
      if repliedReg c true i.val then c.vregs[i]
      else (slotWide s die m.slot (0x1000 + 512 * i.val) 8).elim c.vregs[i] fun x => BitVec.ofNat 4096 x }

/-- An entry of a save image's message entries (R393): the kind of the event and its source, in the model's own layout.
DESIGN CHOICE, log entry 41. -/
def eventBytes (e : Nat × Nat) : List Byte := le 8 e.1 ++ le 56 e.2

/-- The message entries that an image has taken written into its slot (R391, R393). -/
def syncImage (s : State) (die : Nat) (m : Image) : State :=
  let s1 := (m.events.zipIdx.drop m.written).foldl (fun s p =>
    writeSectors s (slotAddr s die m.slot (0x800 + 64 * p.2)) 2 (eventBytes p.1)) s
  s1.modDie die fun d => { d with images := d.images.map fun x =>
    if x.slot = m.slot then { x with written := m.events.length } else x }

/-- The images whose slots lack an entry that they have taken, by die. -/
def unsynced (s : State) : List (Nat × Image) :=
  (s.dies.map fun d => (d.2.images.filter fun m => decide (m.written < m.events.length)).map fun m => (d.1, m)).flatten

/-- Every message entry that an image has taken is in its slot (R393). -/
def syncImages (s : State) : State := (unsynced s).foldl (fun s p => syncImage s p.1 p.2) s

/-- An image restored into its own context: ready when its condition was met, else blocked; its slot is free (R394). -/
def restoreImage (s : State) (m : Image) : State :=
  let die := dieOf m.cid
  let c := loadImage s die m
  let st := if c.met then CtxSt.ready else .blocked
  let s1 := s.setCtx m.cid (if (s.core (coreOf m.cid)).frozen then { c with st := .frozen, prev := st } else { c with st := st })
  s1.modDie die fun d => { d with images := d.images.filter fun x => x.slot != m.slot }

/-- The due image of a context whose condition was met first (R394). -/
def dueImage (s : State) (cid : Nat) : Option Image :=
  ((s.die (dieOf cid)).images.filter fun m => m.cid == cid && m.due.isSome).foldl (fun best m =>
    match best with
    | none => some m
    | some b => if m.due.getD 0 < b.due.getD 0 then some m else some b) none

/-- A context that is idle and may take a task or an image: its core is neither frozen nor fenced (R366, R396). -/
def contextFree (s : State) (cid : Nat) : Bool :=
  let k := s.core (coreOf cid)
  (s.ctx cid).st == .idle && !k.frozen && !k.fenced

/-- CONTEXT_RESTORE (R366, R394): it waits while a place of the slot holds its reads back. -/
def execContextRestore (cid : Nat) (s : State) : Host.Outcome State Fault Refusal :=
  .next (match dueImage s cid with
    | some m =>
      if !contextFree s cid then s
      else (match slotHeld s (dieOf cid) m.slot with
        | some s1 => s1
        | none => restoreImage s m)
    | none => s)

/-- DEBUG_EVICT (R390). -/
def execDebugEvict (cid : Nat) (s : State) : Host.Outcome State Fault Refusal := .next (evict s cid)

/-- A parked context resumes; while its core is frozen the resumption is recorded (R389). -/
def unpark (s : State) (cid : Nat) : State :=
  s.modCtx cid fun c =>
    if c.st = .parked then { c with st := .ready, entry := .plain }
    else if c.st = .frozen ∧ c.prev = .parked then { c with prev := .ready }
    else c

/-- DEBUG_UNPARK (R389). -/
def execDebugUnpark (cid : Nat) (s : State) : Host.Outcome State Fault Refusal := .next (unpark s cid)

/-- A write to DWPC (R387, R394): the context restarts plainly at the address; for an idle context with an image, the image
is restored. -/
def writeDwpc (s : State) (cid pc : Nat) : State :=
  if (s.ctx cid).st = .idle then
    match (s.die (dieOf cid)).images.find? fun m => m.cid == cid with
    | some m => restoreImage s m
    | none => s
  else (s.modDie (dieOf cid) fun d => { d with remotes := d.remotes.filter fun x => x != (cid, (s.ctx cid).incarnation) }).modCtx
      cid fun c =>
    { c with pc := pc % 2 ^ 48, ahead := 0, replayV := false, mid := .none, look := none, awaits := [], reply := [],
             windows := c.windows.filter (·.late.isNone), xlat := [], entry := .plain, line := none, atGang := false,
             rep := {}, passFault := none, prev := if c.st = .frozen ∧ c.prev = .blocked then .ready else c.prev, wake := .none,
             deadline := 0 }

/-- DEBUG_PC_WRITE (R387). -/
def execDebugPcWrite (cid pc : Nat) (s : State) : Host.Outcome State Fault Refusal := .next (writeDwpc s cid pc)

/-- WAKE_EVENT_RETRY (R393): the oldest refused event of a die is offered again. -/
def execWakeEventRetry (die : Nat) (s : State) : Host.Outcome State Fault Refusal :=
  .next (match (s.die die).retries with
    | [] => s
    | r :: rest => s.modDie die fun d =>
        let d0 := { d with retries := rest }
        match d0.images.find? fun m => m.cid == r.cid && m.ctx.incarnation == r.inc with
        | none => { d0 with ctrs := bumpCtr d0.ctrs ctrStale 1 }
        | some m =>
          let (m1, again, disc, due) := imageEvent d0 m r.kind r.source r.meets
          { d0 with images := d0.images.map fun x => if x.slot = m.slot then m1 else x
                    retries := d0.retries ++ again.toList, dueCount := due, ctrs := bumpCtr d0.ctrs ctrEvdisc disc })

/-! ## Breakwaters -/

/-- The cores of a breakwater's rectangle (R395). -/
def bwCores (die rect : Nat) : List Nat :=
  let (y0, x0, y1, x1) := (fld rect 0 4, fld rect 4 4, fld rect 8 4, fld rect 12 4)
  ((List.range (y1 + 1 - y0)).map fun i => (List.range (x1 + 1 - x0)).map fun j =>
    die * 256 + (y0 + i) * 16 + (x0 + j)).flatten

/-- A well-formed rectangle (R396). -/
def bwRectOk (rect : Nat) : Bool :=
  decide (fld rect 0 4 ≤ fld rect 8 4) && decide (fld rect 8 4 ≤ 9) && decide (fld rect 4 4 ≤ fld rect 12 4)

/-- A breakwater of a die. -/
def bwAt (s : State) (die b : Nat) : Breakwater := (s.die die).bw[b % 8]'(Nat.mod_lt _ (by decide))

/-- A breakwater replaced. -/
def setBw (s : State) (die b : Nat) (x : Breakwater) : State :=
  s.modDie die fun d => { d with bw := d.bw.set (b % 8) x (Nat.mod_lt _ (by decide)) }

/-- A command refused (R396). -/
def bwRefuse (s : State) (die b : Nat) : State := setBw s die b { bwAt s die b with refused := true }

/-- A core frozen without a packet and isolated (R396). -/
def fenceCore (s : State) (core : Nat) : State :=
  (freezeCore s core).modCore core fun c => { c with fenced := true }

/-- BREAKWATER_FENCE (R396). DEDUCED, log entry 39. -/
def bwFence (s : State) (die b : Nat) : State :=
  let x := bwAt s die b
  let mine := bwCores die x.rect
  let overlap := (List.range 8).any fun i => i != b % 8 && (bwAt s die i).st != 0
    && (bwCores die (bwAt s die i).rect).any mine.contains
  if x.st ≠ 0 ∨ !bwRectOk x.rect ∨ overlap then bwRefuse s die b
  else setBw (mine.foldl fenceCore s) die b { x with st := 1 }

/-- The scope of a trigger's operation (R264). -/
def trigScope (t : Trigger) : Scope := Scope.ofCode (BitVec.ofNat 3 (trigFld t.bits 25 3))

/-- A copy that waits for an engine cancelled (R190, R261): where a trigger started it, that leaves its table. -/
def cancelWaiting (s : State) (die : Nat) (w : Waiting) : State :=
  let s1 := s.modDie die fun d => { d with waiting := d.waiting.filter fun x => x.op != w.op }
  let s2 := match w.dest with | .trigger d idx => dropTrigger s1 d idx | _ => s1
  deliverOp s2 w.op 1 w.scope

/-- An operation that a context waits for cancelled, whatever it is (R190, R396): it completes at its own scope. -/
def cancelAny (s : State) (op : Nat) : State :=
  let s1 := cancelStep (cancelGraph (cancelOp s op) op) op
  match s1.dies.findSome? fun d => (d.2.waiting.find? fun w => w.op == op).map fun w => (d.1, w) with
  | some (die, w) => cancelWaiting s1 die w
  | none =>
    match s1.dies.findSome? fun d => (d.2.triggers.find? fun t => t.2.op == op && !t.2.fired).map fun t => (d.1, t) with
    | some (die, idx, t) => deliverOp (dropTrigger s1 die idx) op 1 (trigScope t)
    | none => s1

/-- The operations that a task's handles are pending on cancelled (R396). -/
def cancelHandles (s : State) (c : Ctx) : State :=
  c.hregs.toList.foldl (fun s h => match h with | .pending op => cancelAny s op | _ => s) s

/-- A context lost to a reset: its handles' operations are cancelled, what it had pending is dropped, and its node loses it
(R396). -/
def loseCtx (s : State) (cid : Nat) : State :=
  let c := s.ctx cid
  let s1 := cancelHandles s c
  let s2 := idleAt (dropTidal { s1 with races := s1.races.filter fun r => r.ctx != cid } cid c.incarnation) cid
  match c.node with | some n => leaveNode s2 cid n true | none => s2

/-- A save image discarded with its task (R396). -/
def loseImage (s : State) (die : Nat) (m : Image) : State :=
  let s1 := (cancelHandles s m.ctx).modDie die fun d => { d with images := d.images.filter fun x => x.slot != m.slot }
  let s2 := dropTidal s1 m.cid m.ctx.incarnation
  match m.ctx.node with | some n => leaveNode s2 m.cid n true | none => s2

/-- The tile table of a vault freed, and the operations that name its tiles ended (R85). -/
def freeTiles (s : State) (v : Nat) : State :=
  let s1 := (List.range 128).foldl (fun s e => if (s.tile (v * 128 + e)).st = .free then s else changeTile s v e {}) s
  s1.ops.foldl (fun s p =>
    if (p.2.tileSrc.any fun t => t.1 == v) || (p.2.tileDst.any fun t => t.1 == v) then
      (if p.2.stage = 3 then s else failOp s p.1 { p.2 with
        tileSrc := p.2.tileSrc.filter fun t => t.1 != v, tileDst := p.2.tileDst.filter fun t => t.1 != v } 5)
    else s) s1

/-- A gang's slices invalid, their words kept, and its latches empty (R9, R291, R396). -/
def clearArray (s : State) (g : Nat) : State :=
  let s1 := (coresOfGang g).foldl (fun s k => s.modCore k fun c =>
    { c with alatch := Vector.replicate 2 {}, acc := c.acc.map fun x => { x with valid := false }, halted := none, mloads := [] }) s
  s1.modGang g fun x => { x with bpub := Vector.replicate 2 {}, bshadow := Vector.replicate 2 {} }

/-- The gang of a mesh core (R14). -/
def gangOfCore (core : Nat) : Nat := gangOf (16 * core)

/-- The reset of one core (R396). -/
def resetCore (s : State) (core : Nat) : State :=
  let s0 := dissolvePair s core
  let s1 := s0.modCore core fun c =>
    { c with l1 := [], fifo := [], fifoLeft := c.fifoLeft + c.fifo.length, tidal := [], tlb := [], bwr := true, pairWait := none }
  let s2 := (ctxsOf core).foldl loseCtx s1
  let imgs := (s2.die (core / 256)).images.filter fun m => coreOf m.cid == core
  let s3 := imgs.foldl (fun s m => loseImage s (core / 256) m) s2
  clearArray (freeTiles s3 (core / 256 * 160 + core % 256)) (gangOfCore core)

/-- The gang fault of the gangs that lost a member while another, outside the reset, waits at GANG (R294, R396). -/
def resetGangs (s : State) (cores : List Nat) : State :=
  ((cores.map gangOfCore).eraseDups.filter (waitsAtGang s)).foldl (fun s g => gangFault s g none) s

/-- BREAKWATER_RESET (R396): the cores are reset, then the gangs that lost members learn it; the state stays resetting until
that is done. -/
def bwReset (s : State) (die b : Nat) : State :=
  let x := bwAt s die b
  let cores := bwCores die x.rect
  if x.st ≠ 1 then bwRefuse s die b
  else setBw (resetGangs (cores.foldl resetCore s) cores) die b { x with st := 2 }

/-- The release of a breakwater's cores: refusal ends and they resume with every context idle (R396). -/
def bwRelease (s : State) (die b : Nat) : State :=
  let x := bwAt s die b
  if x.st ≠ 1 ∧ x.st ≠ 3 then bwRefuse s die b
  else
    let s1 := (bwCores die x.rect).foldl (fun s core =>
      ((ctxsOf core).foldl (fun s k => if (s.ctx k).st = .idle then s else loseCtx s k) s).modCore core fun c =>
        { c with frozen := false, fenced := false, bwr := false }) s
    setBw s1 die b { x with st := 0 }

/-- BREAKWATER_FENCE (R396). -/
def execBreakwaterFence (die bw : Nat) (s : State) : Host.Outcome State Fault Refusal := .next (bwFence s die bw)
/-- BREAKWATER_RESET (R396). -/
def execBreakwaterReset (die bw : Nat) (s : State) : Host.Outcome State Fault Refusal := .next (bwReset s die bw)
/-- BREAKWATER_RESET_DONE (R396). -/
def execBreakwaterResetDone (die bw : Nat) (s : State) : Host.Outcome State Fault Refusal :=
  let x := bwAt s die bw
  .next (if x.st = 2 then
      setBw ((bwCores die x.rect).foldl (fun s k => s.modCore k fun c => { c with bwr := false }) s) die bw { x with st := 3 }
    else s)
/-- BREAKWATER_RELEASE (R396). -/
def execBreakwaterRelease (die bw : Nat) (s : State) : Host.Outcome State Fault Refusal := .next (bwRelease s die bw)

end Sys2Proof.Machine
end

