-- ==== Sys2Proof/Machine/Tide.lean ====
section
/-! DEFINITION. Domains and the tide (R119, R122 to R125, R186 to R189). -/

namespace Sys2Proof.Machine
open Sys2Proof

/-! ## Domain registers and entries -/

/-- The domain number of a domain register: entry, home and generation (R186). -/
def domNumber (w : Word) : Nat := fld w.toNat 0 16
/-- ENTRY. -/
def domEntry (w : Word) : Nat := fld w.toNat 0 8
/-- HOME. -/
def domHome (w : Word) : Nat := fld w.toNat 8 4
/-- GEN. -/
def domGen (w : Word) : Nat := fld w.toNat 12 4
/-- COUNT. -/
def domCount (w : Word) : Nat := fld w.toNat 16 13
/-- INDEX. -/
def domIndex (w : Word) : Nat := fld w.toNat 32 13
/-- SCOPE. -/
def domScope (w : Word) : Nat := fld w.toNat 48 3
/-- V. -/
def domV (w : Word) : Bool := w.getLsbD 51

/-- The register of level k of a context. -/
def Ctx.dom (c : Ctx) (k : Nat) : Word := c.doms[(k - 1) % 4]'(Nat.mod_lt _ (by decide))

/-- A domain-table entry of a die (R187). -/
def domainAt (s : State) (die e : Nat) : Domain := SMap.getD (s.die die).domains e {}

/-- An entry replaced. -/
def setDomain (s : State) (die e : Nat) (x : Domain) : State := s.modDie die fun d => { d with domains := SMap.put d.domains e x }

/-- The number of an entry's current generation. -/
def entryNumber (die e : Nat) (x : Domain) : Nat := e + (die <<< 8) + (x.gen <<< 12)

/-- A context that waits at the TIDE of a domain (R392). -/
def waitsAtTide (dom : Nat) (c : Ctx) : Bool := match c.wake with | .tide d _ _ => d == dom | _ => false

/-- Tasks that wait at the TIDE of a domain, woken with what the event records (R188, R393). What is sent to one that has ended is
dropped and counted (R397). -/
def wakeMembers (s : State) (dom : Nat) (tasks : List (Nat × Nat)) (m : Mid) : State :=
  let s1 := wakeAll s 2 (dom % 4096) fun k c =>
    if tasks.contains (k, c.incarnation) && waitsAtTide dom c then some (some m) else none
  tasks.foldl (fun t x => if taskHere s x.1 x.2 then t else countDie t (dieOf x.1) ctrStale 1) s1

/-- The tasks of a package, in their contexts and in save images. -/
def allTasks (s : State) : List (Nat × Ctx) :=
  (s.ctxs.filter fun p => p.2.st != .idle) ++ (s.dies.map fun d => d.2.images.map fun m => (m.cid, m.ctx)).flatten

/-- The tidal stores of a task that no arrival has named a domain for, discarded: those in L1 and those sent home (R122). -/
def dropUnnamed (s : State) (cid inc : Nat) : State :=
  pendDrop (s.modCore (coreOf cid) fun c => { c with tidal := c.tidal.filter fun t => !(t.ctx == cid && t.inc == inc) })
    fun o => match o with | .tidal c i d _ => c == cid && i == inc && d == noDomain | _ => false

/-- What an abort of a domain discards of a task's stores that no arrival has named (R188): all of them where its registers name that
domain alone; where they name another too, the domain at which it arrives next is not known, and they are kept or discarded by a
free choice. DESIGN CHOICE, log entry 90. -/
def abortTask (n : Nat) (s : State) (x : Nat × Ctx) : State :=
  let ds := x.2.doms.toList.filter fun w => domV w && domNumber w != n
  if !(x.2.doms.toList.any fun w => domV w && domNumber w == n) then s
  else if ds.isEmpty then dropUnnamed s x.1 x.2.incarnation
  else
    let (c, s1) := drawChoice s 2
    if c = 0 then s1 else dropUnnamed s1 x.1 x.2.incarnation

/-- A phase ended without an ebb (R188): every tidal store for the domain's generation is discarded. -/
def abortDomain (s : State) (die e : Nat) : State :=
  let x := domainAt s die e
  if !x.en || x.ebb then s
  else
    let n := entryNumber die e x
    let s1 := pendDrop s fun o => match o with | .tidal _ _ d _ => d == n | _ => false
    let s2 := setDomain s1 die e { x with en := false, arrived := 0, first := 0, waiting := [] }
    wakeMembers ((allTasks s2).foldl (abortTask n) s2) n x.waiting (.fault 0x12)

/-- The pending sectors and the arrival messages of an entry that bear another generation, dropped and counted (R124, R187). -/
def dropStale (s : State) (die e gen : Nat) : State :=
  let old := fun o => match o with
    | Owner.tidal _ _ d _ => d != noDomain && fld d 0 8 == e && fld d 8 4 == die && fld d 12 4 != gen
    | _ => false
  let late := fun m : TideMsg => domEntry m.dom == e && domGen m.dom != gen
  let n := (s.pend.filter fun p => old p.owner).length + ((s.die die).tideMsgs.filter late).length
  let s1 := (pendDrop s old).modDie die fun d => { d with tideMsgs := d.tideMsgs.filter fun m => !late m }
  countDie s1 die ctrStale n

/-- A write to DMCTL (R187). Where it sets ABORT in a phase that can be ended, it sets no other field; DMFIRST is zero while nothing
has arrived: DESIGN CHOICE, log entry 72. -/
def writeDmctl (s : State) (die e v : Nat) : State :=
  let x := domainAt s die e
  let x1 := { x with ovl := x.ovl && !bit v 41, ovr := x.ovr && !bit v 43 }
  let s1 := setDomain s die e x1
  if bit v 44 && x.en && !x.ebb then abortDomain s1 die e
  else if x.arrived ≠ 0 ∨ x.ebb then s1
  else
    let x2 := { x1 with en := bit v 0, scope := fld v 1 3, gen := fld v 4 4, count := fld v 8 13 }
    if x2.en then setDomain (dropStale s1 die e x2.gen) die e { x2 with arrived := 0, phase := false, first := 0, waiting := [] }
    else setDomain s1 die e x2

/-- DOMAIN_ENABLE (R187). -/
def execDomainEnable (die entry val : Nat) (s : State) : Host.Outcome State Fault Refusal :=
  .next (writeDmctl s die (entry % 256) val)
/-- DOMAIN_ABORT (R188). -/
def execDomainAbort (die entry : Nat) (s : State) : Host.Outcome State Fault Refusal :=
  .next (abortDomain s die (entry % 256))

/-- DMCTL and DMFIRST as read (R187). -/
def Domain.bits (x : Domain) : Nat × Nat :=
  (b2n x.en + ((x.scope % 8) <<< 1) + ((x.gen % 16) <<< 4) + ((x.count % 2 ^ 13) <<< 8) + ((x.arrived % 2 ^ 13) <<< 24)
    + (b2n x.phase <<< 40) + (b2n x.ovl <<< 41) + (b2n x.ebb <<< 42) + (b2n x.ovr <<< 43),
   x.first / 256 + ((x.first / 16 % 16) <<< 4) + ((x.first % 16) <<< 8))

/-! ## Arrivals -/

/-- Whether an arriving core lies where its domain's scope asks (R188, check 4): first is the core of the first arrival. -/
def arrivalPlace (scope home arrived first core : Nat) : Bool :=
  let same := match scope with
    | 1 => core == first
    | 2 => core / 256 == first / 256 && core % 256 / 16 == first % 256 / 16 && core % 16 / 8 == first % 16 / 8
    | 3 => core / 256 == first / 256
    | _ => true
  (arrived == 0 || same) && (scope != 3 || core / 256 == home)

/-- Checks 2 to 4 of R188. -/
def arrivalOk (x : Domain) (w : Word) (core : Nat) : Bool :=
  x.en && x.gen == domGen w && x.count == domCount w && x.scope == domScope w
    && arrivalPlace x.scope (domHome w) x.arrived x.first core

/-- The pending tidal sectors of a task that bear one domain name bear another with a member index (R119, R122). -/
def renameTidal (s : State) (cid inc old new index : Nat) : State :=
  { s with pend := s.pend.map fun p => match p.owner with
    | .tidal c i d _ => if c = cid ∧ i = inc ∧ d = old then { p with owner := .tidal c i new index } else p
    | _ => p }

/-- TIDE_ARRIVAL (R188, R397): the first arrival that has reached its home die is counted or refused.
DEDUCED, log entry 40. -/
def execTideArrival (die : Nat) (s : State) : Host.Outcome State Fault Refusal :=
  .next (match (s.die die).tideMsgs with
    | [] => s
    | m :: rest =>
      let s1 := s.modDie die fun d => { d with tideMsgs := rest }
      if !taskHere s m.cid m.incarnation then countDie s1 die ctrStale 1
      else
        let e := domEntry m.dom
        let n := domNumber m.dom
        let x := domainAt s1 die e
        if !arrivalOk x m.dom (coreOf m.cid) || x.ebb then
          let s2 := if arrivalOk x m.dom (coreOf m.cid) then setDomain s1 die e { x with ovr := true } else s1
          wakeMembers (renameTidal s2 m.cid m.incarnation n noDomain 0) n [(m.cid, m.incarnation)] (.fault 0x12)
        else
          let x1 := { x with arrived := x.arrived + 1, first := if x.arrived = 0 then coreOf m.cid else x.first,
                             waiting := x.waiting ++ [(m.cid, m.incarnation)] }
          setDomain s1 die e { x1 with ebb := x1.arrived == x.count })

/-- The order in which an ebb commits: rising member index, and within it rising context (R124, R188). -/
def ebbKey (p : Pend) : Nat := match p.owner with | .tidal c _ _ i => i * 65536 + c | _ => 0

/-- A list of pending sectors in rising order of their keys. -/
def insertPend (p : Pend) : List Pend → List Pend
  | [] => [p]
  | q :: qs => if ebbKey p < ebbKey q then p :: q :: qs else q :: insertPend p qs

/-- Whether two members wrote one byte (R124). -/
def ebbOverlap : List Pend → Bool
  | [] => false
  | p :: ps => (ps.any fun q => q.sector == p.sector && q.owner != p.owner && p.mask &&& q.mask != 0) || ebbOverlap ps

/-- The OVLEBB counter (R407). -/
def ctrOvlebb : Nat := 0x38

/-- EBB_COMPLETE (R124, R188): the members' pending sectors of the generation are committed as one, the phase toggles and
the members wake. It waits while one of the sectors' homes must (R95). -/
def execEbbComplete (die entry : Nat) (s : State) : Host.Outcome State Fault Refusal :=
  let e := entry % 256
  let x := domainAt s die e
  .next (if !x.ebb then s
    else
      let n := entryNumber die e x
      let f := fun o => match o with | Owner.tidal _ _ d _ => d == n | _ => false
      let mine := ((s.pend.filter fun p => f p.owner).foldr insertPend [])
      let ovlp := ebbOverlap mine
      match mine.foldlM commitSector { s with pend := s.pend.filter fun p => !f p.owner } with
      | none => commitWaits s f
      | some s1 =>
        let s2 := if ovlp then countDie s1 die ctrOvlebb 1 else s1
        let s3 := setDomain s2 die e { x with phase := !x.phase, arrived := 0, ebb := false, first := 0, waiting := [],
                                              ovl := x.ovl || ovlp }
        wakeMembers s3 n x.waiting (.result (b2n !x.phase)))

/-! ## PUBL and TIDE -/

/-- The level operand, 1 to 4. -/
def levelOk (k : BitVec 32) : Bool := k != 0#32 && decide (k.toNat ≤ 4)

/-- A level whose register names a domain, in a context that takes part in domains: a supervisor context does not (R175).
DEDUCED, log entry 40. -/
def levelCheck (s : State) (level : BitVec 32) : Res Unit :=
  illegalIf (!levelOk level || !domV (s.me.dom level.toNat) || isSup s.cur)

/-- PUBL (R125): a release, then the commit of the context's own tidal stores, but for those that it has sent to an arrival at
another domain. It waits while one of the sectors' homes must (R95). -/
def execPubl (scope : Scope) (level : BitVec 32) (s : State) : Host.Outcome State Fault Refusal :=
  run s (do
    levelCheck s level
    let s1 ← release s scope
    let n := domNumber (s.me.dom level.toNat)
    let mine := fun o => match o with
      | Owner.tidal c i d _ => c == s.cur && i == s.me.incarnation && (d == noDomain || d == n)
      | _ => false
    match commitOwner s1 mine with
    | some s2 => .ok s2
    | none => .error (.stall (commitWaits s1 mine)))

/-- PHASE of a domain register set. -/
def setPhase (w : Word) (p : Nat) : Word := wd (setFld w.toNat 63 1 p)

/-- TIDE (R124, R188, R189): an arrival, which is a release at the domain's scope; the ebb ends the wait, with an acquire. -/
def execTide (level : BitVec 32) (s : State) : Host.Outcome State Fault Refusal :=
  let k := level.toNat
  let w := s.me.dom k
  let sc := Scope.ofCode (BitVec.ofNat 3 (domScope w))
  run s (match s.me.mid with
    | .fault _ => .error illegal
    | .result p => do
      let s1 ← acquire s sc
      .ok (s1.modMe fun c => { c with doms := c.doms.set ((k - 1) % 4) (setPhase w p) (Nat.mod_lt _ (by decide)) })
    | _ => do
      levelCheck s level
      let s1 ← release s sc
      let s2 := renameTidal s1 s.cur s.me.incarnation noDomain (domNumber w) (domIndex w)
      let s3 := s2.modDie (domHome w) fun d =>
        { d with tideMsgs := d.tideMsgs ++ [{ cid := s.cur, dom := w, incarnation := s.me.incarnation }] }
      .error (.block (.tide (domNumber w) (w.getLsbD 63) (k - 1)) 0 (s3.modMe fun c => { c with mid := .waiting 188 })))

end Sys2Proof.Machine
end

