-- ==== Sys2Proof/Machine/Power.lean ====
section
/-! DEFINITION. Power grants, throttling, held stacks, power states, links and the events that lifetime counters count (R18 to
R24, R62, R407, R412, R413, R417, R418). -/

namespace Sys2Proof.Machine
open Sys2Proof

/-! ## Grants -/

/-- A die that may not be parked: it holds a resident context, which a supervisor's is not, a GANGTASK or a step out of armed (R180,
R418). -/
def dieBusy (s : State) (die : Nat) : Bool :=
  (s.ctxs.any fun p => dieOf p.1 == die && !isSup p.1 && p.2.st != .idle) ||
    ((List.range 20).any fun g => (s.gang (die * 20 + g)).task.isSome) ||
    ((s.die die).groups.any fun p => p.2.steps.any fun st => st.phase != .armed)

/-- A request that R20 and R418 refuse: shares in half watts. -/
def grantRefused (s : State) (dies pst stks : List Nat) : Bool :=
  decide (8400 < 300 + dies.foldl (· + ·) 0 + stks.foldl (· + ·) 0) || dies.any (· < 120) || stks.any (· < 20)
    || pst.any (· == 3) || pst.zipIdx.any fun p => p.1 == 2 && dieBusy s p.2

/-- GO of the power-grant control block: the staged request is refused, or granted for the next interval (R20, R418). One
that comes while another is being applied is refused. DEDUCED, log entry 44. -/
def grantGo (s : State) : State :=
  let p := s.pkg
  let ds := p.stagedShare.toList
  let ps := p.stagedPstate.toList
  let ks := p.stagedStk.toList
  if p.grant.isSome || grantRefused s ds ps ks then { s with pkg := { p with pgRefused := true } }
  else { s with pkg := { p with grant := some (ds, ps, ks) } }

/-- POWER_GRANT_REQUEST (R20, R418). -/
def execPowerGrantRequest (s : State) : Host.Outcome State Fault Refusal := .next (grantGo s)

/-- A granted request takes effect (R20). -/
def applyGrant (s : State) : State :=
  match s.pkg.grant with
  | none => s
  | some (ds, ps, ks) =>
    let pkg := { s.pkg with
      grant := none, dieShare := Vector.ofFn fun i => ds.getD i.val 0, stkShare := Vector.ofFn fun i => ks.getD i.val 0 }
    (List.range 12).foldl (fun s d => s.modDie d fun x =>
      { x with pstate := ps.getD d 0, returning := x.returning && ps.getD d 0 == 2 }) { s with pkg := pkg }

/-! ## Measurement intervals -/

/-- The issue ratio of a die after an interval (R21). -/
def nextRatio (ratio power share : Nat) : Nat :=
  if share < power then (if ratio = 8 then 6 else max 2 (ratio - 1))
  else if power * 10 ≤ share * 9 then min 8 (ratio + 1)
  else ratio

/-- The THROT and HOLD counters (R407). -/
def ctrThrot : Nat := 0x40
/-- HOLD. -/
def ctrHold : Nat := 0x48

/-- A die at the close of an interval: an interval in which it was throttled counts, and the next ratio follows (R21, R24). -/
def closeDie (s : State) (die power : Nat) : State :=
  let d := s.die die
  let s1 := if d.ratio < 8 then countDie s die ctrThrot 1 else s
  s1.modDie die fun d =>
    { d with ratio := nextRatio d.ratio power ((s.pkg.dieShare.toList).getD die 0), intervals := d.intervals + 1 }

/-- A stack at the close of an interval (R22, R24). -/
def closeStack (s : State) (stk power : Nat) : State :=
  let s1 := if bit s.pkg.hold stk then countDie s (stk / 2) ctrHold 1 else s
  { s1 with pkg := { s1.pkg with hold := setFld s1.pkg.hold stk 1 (b2n (decide ((s.pkg.stkShare.toList).getD stk 0 < power))) } }

/-- A die's core clock has counted the 4,096 cycles of its measurement interval (R7, R21). -/
def intervalDue (s : State) (die : Nat) : Bool := decide (((s.die die).intervals + 1) * 4096 ≤ cycleOf s die)

/-- POWER_MEASUREMENT_INTERVAL (R20 to R24): the measured power of every die and stack, in half watts; the event closes the
intervals of 4,096 core cycles that are over, and does nothing before that. A grant takes effect when the intervals of every die
close together. DEDUCED, log entry 44. -/
def execPowerMeasurementInterval (dies stks : List Nat) (s : State) : Host.Outcome State Fault Refusal :=
  let due := (List.range 12).filter (intervalDue s)
  .next (
    let s1 := due.foldl (fun s d => closeDie s d (dies.getD d 0)) s
    let s2 := ((List.range 24).filter fun k => due.contains (k / 2)).foldl (fun s k => closeStack s k (stks.getD k 0)) s1
    if due.length = 12 then applyGrant s2 else s2)

/-! ## Power states -/

/-- The package enters P3 (R418). -/
def enterP3 (s : State) : State := { s with pkg := { s.pkg with p3 := true } }

/-- PACKAGE_ENTER_P3 (R418). -/
def execPackageEnterP3 (s : State) : Host.Outcome State Fault Refusal := .next (enterP3 s)
/-- PACKAGE_LEAVE_P3 (R418). -/
def execPackageLeaveP3 (s : State) : Host.Outcome State Fault Refusal :=
  .next { s with pkg := { s.pkg with p3 := false } }

/-- DIE_RETURN_TO_P0 (R62, R417): a parked die that a request has reached. -/
def execDieReturnToP0 (die : Nat) (s : State) : Host.Outcome State Fault Refusal :=
  .next (let d := s.die die
    if d.pstate = 2 ∧ d.returning then s.setDie die { d with pstate := 0, returning := false } else s)

/-- The power-grant control block as read (R418). -/
def powerReg (s : State) (off : Nat) : Nat :=
  let p := s.pkg
  if off < 0x60 then p.stagedShare.toList.getD (off / 8) 0 + (p.stagedPstate.toList.getD (off / 8) 0 <<< 16)
  else if off < 0x120 then p.stagedStk.toList.getD ((off - 0x60) / 8) 0
  else if off = 0x120 then (b2n p.grant.isSome <<< 1) + (b2n p.pgRefused <<< 2)
  else if 0x200 ≤ off ∧ off < 0x260 then
    let d := s.die ((off - 0x200) / 8)
    d.ratio + (b2n (d.pstate == 2) <<< 4)
  else if off = 0x280 then p.hold
  else 0

/-- A write to the power-grant control block (R418): v is the register's new content, w1 the bits written as 1. -/
def writePower (s : State) (off v w1 : Nat) : State :=
  let p := s.pkg
  if h : off < 0x60 then
    have hi : off / 8 < 12 := by omega
    { s with pkg := { p with stagedShare := p.stagedShare.set (off / 8) (fld v 0 16) hi
                             stagedPstate := p.stagedPstate.set (off / 8) (fld v 16 2) hi } }
  else if h : off < 0x120 then
    have hi : (off - 0x60) / 8 < 24 := by omega
    { s with pkg := { p with stagedStk := p.stagedStk.set ((off - 0x60) / 8) (fld v 0 16) hi } }
  else if off = 0x120 then
    let s1 := { s with pkg := { p with pgRefused := p.pgRefused && !bit w1 2 } }
    let s2 := if bit w1 0 then grantGo s1 else s1
    if bit w1 3 then enterP3 s2 else s2
  else s

/-! ## Links -/

/-- The counter LINKRETRY (R407). -/
def ctrLinkretry : Nat := 0x68

/-- The unit whose counters count a link's retries: the sending die of a boundary direction, or a port's I/O die (R407). -/
def linkUnit (link : Nat) : Nat :=
  if 32 ≤ link then 12 + (link - 32) / 8 % 2
  else
    let b := link / 2
    let back := link % 2
    if b < 10 then b / 5 * 6 + b % 5 + back else b - 10 + 6 * back

/-- A link of the package (R15, R408). -/
def validLink (link : Nat) : Bool := decide (link < 48)

/-- LINK_RETRY (R407, R412): the retry is counted. It is of the same flit or packet as the one before, or that has passed, which is an
open choice; the sixteenth in a row takes the link down. DEDUCED, log entry 45. -/
def execLinkRetry (link : Nat) (s : State) : Host.Outcome State Fault Refusal :=
  .next (if validLink link then
      let (c, s1) := drawChoice s 2
      let x := SMap.getD s.links link {}
      let n := if c = 0 then x.retries + 1 else 1
      countUnit { s1 with links := SMap.put s1.links link { retries := n, down := x.down || decide (16 ≤ n) } } (linkUnit link) ctrLinkretry 1
    else s)

/-- LINK_DOWN (R412): sixteen retries in a row have taken the link down. -/
def execLinkDown (link : Nat) (s : State) : Host.Outcome State Fault Refusal :=
  .next (let x := SMap.getD s.links link {}
    if validLink link ∧ 16 ≤ x.retries then { s with links := SMap.put s.links link { x with down := true } } else s)

/-- LINK_REENABLE (R412). -/
def execLinkReenable (link : Nat) (s : State) : Host.Outcome State Fault Refusal :=
  .next (if validLink link then { s with links := SMap.put s.links link {} } else s)

/-- LINK_ERROR_RATE_REPLAN (R413): unsent chunks move to other ports, which changes only timing. -/
def execLinkErrorRateReplan (_link : Nat) (s : State) : Host.Outcome State Fault Refusal := .next s

/-! ## Other counted events -/

/-- THERMAL_EXCURSION (R407): the bucket of its peak above the limit. -/
def execThermalExcursion (die bucket : Nat) (s : State) : Host.Outcome State Fault Refusal :=
  .next (if bucket < 8 then countDie s die (0x80 + 8 * bucket) 1 else s)

/-- SUPPLY_DROOP (R407): the bucket of its depth. -/
def execSupplyDroop (die bucket : Nat) (s : State) : Host.Outcome State Fault Refusal :=
  .next (if bucket < 8 then countDie s die (0xC0 + 8 * bucket) 1 else s)

/-- The core cycles that a unit has counted, dies 0 to 11 and then the I/O dies, whose clock runs at 1.75 GHz (R7). -/
def unitCycles (s : State) (unit : Nat) : Nat := if unit < 12 then cycleOf s unit else s.time

/-- A unit's counters copied to its persistent store, for all the periods that are over (R407). -/
def persist (s : State) (unit : Nat) : State :=
  let n := unitCycles s unit / 2 ^ 30
  if unit < 12 then s.modDie unit fun d => { d with saved := d.ctrs, persists := n }
  else if unit < 14 then s.modIo (unit - 12) fun d => { d with saved := d.ctrs, persists := n }
  else s

/-- A unit's period of 2^30 core cycles is over, and its counters are not yet copied (R407). -/
def persistDue (s : State) (unit : Nat) : Bool :=
  decide ((if unit < 12 then (s.die unit).persists else (s.io (unit - 12)).persists) < unitCycles s unit / 2 ^ 30)

/-- COUNTER_PERSIST (R407): every 2^30 core cycles of the unit, and nothing before that. -/
def execCounterPersist (unit : Nat) (s : State) : Host.Outcome State Fault Refusal :=
  .next (if persistDue s unit then persist s unit else s)

end Sys2Proof.Machine
end

