-- ==== Sys2Proof/Machine/RegRead.lean ====
section
/-! DEFINITION. Device registers, control registers and the debug window as they read (R32, R33, R45, R48, R49, R54, R77, R120,
R176, R187, R232, R233, R307, R318, R383, R386, R387, R395, R405, R407, R409, R418 to R421). -/

namespace Sys2Proof.Machine
open Sys2Proof

/-! ## Control registers -/

/-- A control register of a context as a number, none for a number that names none (R232, R233). -/
def ctlRead (s : State) (cid n : Nat) : Option Nat :=
  let c := s.ctx cid
  if n = 0 then some (selfWord cid).toNat
  else if n = 1 then some c.round.toNat
  else if n = 2 then some c.fpflags.toNat
  else if n = 3 then some c.fpen.toNat
  else if n = 4 then some c.mode.toNat
  else if 0x10 ≤ n ∧ n ≤ 0x13 then some (c.dom (n - 0x0F)).toNat
  else if n = 0x20 then some c.asid.toNat
  else if n = 0x21 then some c.troot.toNat
  else if n = 0x30 then some (cycleOf s (dieOf cid) % 2 ^ 64)
  else if n = 0x31 then some c.icount.toNat
  else if n = 0x40 then some (match (s.core (coreOf cid)).pair with | some p => 1 + (p.dir <<< 1) | none => 0)
  else none

/-! ## The blocks of a compute die -/

/-- 64 bits of a wider value from a byte offset. -/
def word64At (x off : Nat) : Nat := fld x (8 * off) 64

/-- The translation control block (R45). -/
def transReg (d : Die) (off : Nat) : Nat :=
  match off with
  | 0 => d.tinvAddr
  | 8 => d.tinvCtl
  | 0x10 => b2n d.tinvBusy + (b2n d.tinvRefused <<< 1)
  | _ => 0

/-- A format window's register (R49). -/
def fmtReg (d : Die) (ctl off : Nat) : Nat :=
  let w := SMap.getD d.fw (ctl * 64 + off / 32) {}
  if 64 * 32 ≤ off then 0
  else match off % 32 with
    | 0 => w.base.toNat
    | 8 => w.limit.toNat
    | 16 => w.scale.toNat
    | _ => 0

/-- The shadow control block (R120). -/
def shadowReg (s : State) (die off : Nat) : Nat :=
  let d := s.die die
  match off with
  | 0 => d.eshBase <<< 16
  | 8 => d.eshSize
  | 0x10 => spillUsed s die + (b2n d.eshFull <<< 40)
  | _ => 0

/-- The error records and MXHEAD (R307). -/
def matrixReg (d : Die) (off : Nat) : Nat :=
  if off < 0x200 then word64At ((d.mxrec[off / 32 % 16]'(Nat.mod_lt _ (by decide))).toNat) (off % 32)
  else if off = 0x200 then d.mxNext + (b2n d.mxOvf <<< 4)
  else 0

/-- The fault control block with its breakwaters (R383, R395). -/
def faultReg (s : State) (die off : Nat) : Nat :=
  let d := s.die die
  if off < 0x40 then
    let r := ringAt s die (off / 0x20)
    match off % 0x20 with
    | 0 => r.base
    | 8 => r.log2 + (b2n r.en <<< 4)
    | 0x10 => r.wr
    | _ => r.rd
  else if off = 0x40 then d.froute
  else if off = 0x48 then d.svBase <<< 16
  else if off = 0x50 then d.svSlots + (d.svEvmin <<< 16)
  else if off = 0x58 then d.images.length + (b2n d.svFull <<< 16)
  else if 0x100 ≤ off ∧ off < 0x180 then
    let b := bwAt s die ((off - 0x100) / 16)
    if off % 16 = 0 then b.rect else (b.st <<< 2) + (b2n b.refused <<< 5)
  else 0

/-- The redundant-execution control block (R405). -/
def redundantReg (d : Die) (off : Nat) : Nat :=
  let r := d.rx
  if off = 0 then r.desc
  else if off = 8 then r.peer + (r.st <<< 5) + (r.fstat <<< 8)
  else if off < 0x30 then word64At r.siga.toNat (off - 0x10)
  else if off < 0x50 then word64At r.sigb.toNat (off - 0x30)
  else 0

/-- The lifetime counters and the list of retired rows (R407). -/
def counterReg (ctrs : SMap Nat) (retired : List (Nat × Nat)) (off : Nat) : Nat :=
  if off < 0x100 then SMap.getD ctrs off 0
  else if 0x1000 ≤ off ∧ off < 0x4000 then SMap.getD ctrs off 0 + (SMap.getD ctrs (off + 4) 0 <<< 32)
  else if 0x8000 ≤ off then
    match retired[(off - 0x8000) / 8]? with
    | some (i, r) => i + (r <<< 16)
    | none => 0
  else 0

/-- The supervisor start block, which only the firmware of IO0 and the external debugger reach (R176). -/
def startReg (d : Die) (off : Nat) : Nat :=
  if h : off < 0x40 then d.svpc[off / 8]'(by omega)
  else if off = 0x40 then d.svcBase
  else if off = 0x48 then d.svcLim
  else if off = 0x50 then b2n d.svRun <<< 1
  else 0

/-- A register of a compute die at an offset that is a multiple of 8 (R32); fw says that firmware reads it. -/
def dieReg (fw : Bool) (s : State) (die off : Nat) : Nat :=
  let d := s.die die
  if off < 0x10000 then transReg d off
  else if off < 0x12000 then fmtReg d ((off - 0x10000) / 0x1000) (off % 0x1000)
  else if 0x40000 ≤ off ∧ off < 0x50000 then shadowReg s die (off - 0x40000)
  else if 0x50000 ≤ off ∧ off < 0x51000 then
    let (a, b) := (domainAt s die ((off - 0x50000) / 16)).bits
    if off % 16 = 0 then a else b
  else if 0x60000 ≤ off ∧ off < 0x70000 then matrixReg d (off - 0x60000)
  else if 0x70000 ≤ off ∧ off < 0x71000 then groupReg (groupAt s die ((off - 0x70000) / 64)) (off % 64)
  else if 0x80000 ≤ off ∧ off < 0x90000 then faultReg s die (off - 0x80000)
  else if 0x90000 ≤ off ∧ off < 0xA0000 then redundantReg d (off - 0x90000)
  else if 0xA0000 ≤ off ∧ off < 0xC0000 then counterReg d.ctrs d.retired (off - 0xA0000)
  else if 0xC0000 ≤ off ∧ off < 0xD0000 then (if fw then startReg d (off - 0xC0000) else 0)
  else if 0x100000 ≤ off ∧ off < 0x110000 then
    let b := off % 0x8000 / 32
    if b < 768 then bankReg s (die * 1536 + (off - 0x100000) / 0x8000 * 768 + b) (off % 32) else 0
  else if 0x200000 ≤ off ∧ off < 0x200000 + 0x800 * 160 then
    let v := (off - 0x200000) / 0x800
    word64At (s.tile ((die * 160 + v) * 128 + off % 0x800 / 16)).bits (off % 16)
  else 0

/-! ## The I/O dies -/

/-- A queue's registers (R372). -/
def queueReg (d : IoDie) (q off : Nat) : Nat :=
  let x := d.queue q
  match off with
  | 0 => b2n x.en + (b2n x.swin <<< 1) + (b2n x.halt <<< 2) + (b2n (d.cmdq.any fun c => c.q == q) <<< 3) + (x.log2n <<< 4)
      + (x.hctx <<< 8) + (x.qerr <<< 16)
  | 8 => x.base
  | 16 => x.tail
  | 24 => x.prog
  | 32 => x.head
  | 40 => x.done
  | _ => 0

/-- The service control block and CKCTL (R419, R421). -/
def serviceReg (s : State) (off : Nat) : Nat :=
  if h : off < 304 then
    have hi : off / 8 < 38 := by omega
    (s.pkg.svuState[off / 8] <<< 2) + (b2n s.pkg.svuRefused[off / 8] <<< 4)
  else if off = 0x1000 then (s.pkg.ckState <<< 1) + (s.pkg.ckep <<< 32)
  else 0

/-- A register of an I/O die at an offset that is a multiple of 8 (R32). -/
def ioReg (s : State) (io off : Nat) : Nat :=
  let d := s.io io
  if 0x20000 ≤ off ∧ off < 0x50000 then (d.reg off).toNat
  else if 0x50000 ≤ off ∧ off < 0x60000 then queueReg d ((off - 0x50000) / 64) (off % 64)
  else if 0x60000 ≤ off ∧ off < 0x70000 then (if io = 0 then powerReg s (off - 0x60000) else 0)
  else if 0x70000 ≤ off ∧ off < 0x80000 then (if io = 0 then serviceReg s (off - 0x70000) else 0)
  else if 0xA0000 ≤ off ∧ off < 0xC0000 then counterReg d.ctrs [] (off - 0xA0000)
  else 0

/-! ## The debug window -/

/-- The resume address (R386): the slot of the body's instruction for a fault in a pass (R388), the program counter
otherwise. -/
def resumePc (c : Ctx) : Nat :=
  match c.passFault with
  | some (_, i) => bodySlot c.rep i
  | none => c.pc

/-- A context's block of the debug window at an offset (R386). -/
def ctxReg (s : State) (cid off : Nat) : Nat :=
  let c := s.ctx cid
  if c.st = .idle then 0
  else if off = 0 then resumePc c % 2 ^ 48
  else if off = 8 then c.st.code + (c.prev.code <<< 4) + ((c.ahead % 16) <<< 8) + (b2n c.replayV <<< 12)
  else if off < 0x20 then (if off < 0x10 then 0 else word64At c.wake.bits (off - 0x10))
  else if 0x100 ≤ off ∧ off < 0x300 then (c.getS (BitVec.ofNat 6 ((off - 0x100) / 8))).toNat
  else if 0x800 ≤ off ∧ off < 0x1000 then (ctlRead s cid ((off - 0x800) / 8)).getD 0
  else if 0x1000 ≤ off ∧ off < 0x1400 then word64At (c.getM (BitVec.ofNat 3 ((off - 0x1000) / 128))).toNat (off % 128)
  else if 0x1400 ≤ off ∧ off < 0x1500 then
    word64At (handleBits (c.getH (BitVec.ofNat 4 ((off - 0x1400) / 16)))) (off % 16)
  else if 0x1800 ≤ off ∧ off < 0x1900 then word64At (repBits c.rep) (off - 0x1800)
  else if 0x2000 ≤ off ∧ off < 0x2600 then
    word64At (c.replay[(off - 0x2000) / 512 % 3]'(Nat.mod_lt _ (by decide))).toNat (off % 512)
  else if 0x4000 ≤ off ∧ off < 0x8000 then word64At (c.getV (BitVec.ofNat 5 ((off - 0x4000) / 512))).toNat (off % 512)
  else 0

/-- A context's block is reachable while its core is frozen or the context is parked (R387). -/
def blockOpen (s : State) (cid : Nat) : Bool := (s.core (coreOf cid)).frozen || (s.ctx cid).st == .parked

/-- An accumulator word of a core's slice. -/
def accWord (c : Core) (a k : Nat) : Half := SMap.getD (c.acc[a % 4]'(Nat.mod_lt _ (by decide))).words k 0#32

/-- Bit a: the core's slice of accumulator a is valid (R386). -/
def accValid (c : Core) : Nat := c.acc.toList.zipIdx.foldl (fun x p => x + (b2n p.1.valid <<< p.2)) 0

/-- The core that a debug-window address names (R385). -/
def dbgCore (a : Nat) : Nat := fld a 36 4 * 256 + fld a 32 4 * 16 + fld a 28 4

/-- A 64-bit word of a core's debug window (R386, R387). -/
def dbgReg (s : State) (a : Nat) : Nat :=
  let core := dbgCore a
  let off := fld a 0 20
  let c := s.core core
  if off = 0 then b2n c.frozen + (b2n c.bwr <<< 1) + (accValid c <<< 2)
  else if 0x40 ≤ off ∧ off < 0x80 then word64At c.packet.toNat (off - 0x40)
  else if 0x60000 ≤ off ∧ off < 0x80000 then
    let k := (off - 0x60000) % 0x8000 / 4
    let i := (off - 0x60000) / 0x8000
    (accWord c i k).toNat + ((accWord c i (k + 1)).toNat <<< 32)
  else if 0x10000 ≤ off ∧ off < 0x50000 then
    let cid := core * 16 + (off / 0x10000 - 1)
    if blockOpen s cid then ctxReg s cid (off % 0x10000) else 0
  else 0

/-! ## Reads -/

/-- A 64-bit register word at an address that is a multiple of 8 (R32, R385). -/
def regWord (fw : Bool) (s : State) (a : Nat) : Nat :=
  if regionOf a = 3 then dbgReg s a
  else
    let u := fld a 36 4
    if u < 12 then dieReg fw s u (fld a 0 36) else if u < 14 then ioReg s (u - 12) (fld a 0 36) else 0

/-- Bytes of registers at an address: registers are words of 64 bits (R32). -/
def regBytes (fw : Bool) (s : State) (a n : Nat) : List Byte :=
  (List.range n).map fun i => BitVec.ofNat 8 (regWord fw s ((a + i) / 8 * 8) >>> (8 * ((a + i) % 8)))

/-- What engines read registers by: reads have no effect on registers, and engines write none (R261). -/
def readOps : IoOps := { rd := fun s a n => (regBytes false s a n, s), wr := fun s _ _ => s }

end Sys2Proof.Machine
end

