-- ==== Sys2Proof/Machine/Service.lean ====
section
/-! DEFINITION. Units out of service and the whole-memory checkpoint (R419 to R422). -/

namespace Sys2Proof.Machine
open Sys2Proof

/-! ## Units -/

/-- The state of a unit: dies 0 to 11, stacks 12 to 35, I/O dies 36 and 37 (R419): 0 in service, 1 withdrawing, 2 out, 3
returning. -/
def unitState (s : State) (u : Nat) : Nat := if h : u < 38 then s.pkg.svuState[u] else 0

/-- The state of a unit set. -/
def setUnit (s : State) (u st : Nat) : State :=
  if h : u < 38 then { s with pkg := { s.pkg with svuState := s.pkg.svuState.set u st } } else s

/-- A command to a unit refused (R419). -/
def refuseUnit (s : State) (u : Nat) : State :=
  if h : u < 38 then { s with pkg := { s.pkg with svuRefused := s.pkg.svuRefused.set u true } } else s

/-- The banks of a stack. -/
def banksOfStack (stk : Nat) : List Nat := (List.range 768).map fun b => stk * 768 + b

/-- The banks of a stack fenced or unfenced; fencing aborts the steps in flood (R54, R420). -/
def fenceStack (s : State) (stk : Nat) (on : Bool) : State :=
  let s1 := (banksOfStack stk).foldl (fun s k => s.modBank k fun b => { b with fenced := on }) s
  if on then (banksOfStack stk).foldl fenceAborts s1 else s1

/-- A withdrawal that R419 refuses. DEDUCED, log entry 46. -/
def withdrawRefused (s : State) (u : Nat) : Bool :=
  unitState s u != 0
    || (u == 36 && unitState s 37 != 0) || (u == 37 && unitState s 36 != 0)
    || (u == 0 && (List.range 11).any fun i => unitState s (i + 1) == 0)

/-- A unit withdrawn (R419, R420). -/
def withdrawUnit (s : State) (u : Nat) : State :=
  if 38 ≤ u then s
  else if withdrawRefused s u then refuseUnit s u
  else if u < 12 then
    let s1 := (coresOfDie u).foldl fenceCore s
    let s2 := [2 * u, 2 * u + 1].foldl (fun s k => fenceStack (setUnit s (12 + k) 1) k true) s1
    setUnit s2 u 1
  else if u < 36 then fenceStack (setUnit s u 1) (u - 12) true
  else (setUnit s u 1).modIo (u - 36) fun d => { d with out := true }

/-- Both supervisor cores of a die are frozen (R384). -/
def supsFrozen (s : State) (die : Nat) : Bool := (s.core (supCore die 0)).frozen && (s.core (supCore die 1)).frozen

/-- The dies whose supervisor cores are both frozen, withdrawn by the firmware of IO0 where R419 lets it. -/
def withdrawLost (s : State) : State :=
  ((List.range 12).filter fun d => supsFrozen s d && !withdrawRefused s d).foldl withdrawUnit s

/-- UNIT_WITHDRAW (R419): a command of the firmware of IO0. -/
def execUnitWithdraw (unit : Nat) (s : State) : Host.Outcome State Fault Refusal := .next (withdrawUnit s unit)

/-- The units that move with a unit: a die and its two stacks (R419). -/
def unitsWith (u : Nat) : List Nat := if u < 12 then [u, 12 + 2 * u, 13 + 2 * u] else [u]

/-- UNIT_WITHDRAWAL_COMPLETE (R419). -/
def execUnitWithdrawalComplete (unit : Nat) (s : State) : Host.Outcome State Fault Refusal :=
  .next (if unitState s unit = 1 then (unitsWith unit).foldl (fun s u => setUnit s u 2) s else s)

/-- A unit asked to return (R419): only one that is out. -/
def returnUnit (s : State) (u : Nat) : State :=
  if 38 ≤ u then s
  else if unitState s u ≠ 2 then refuseUnit s u
  else (unitsWith u).foldl (fun s k => setUnit s k 3) s

/-- UNIT_RETURN (R419). -/
def execUnitReturn (unit : Nat) (s : State) : Host.Outcome State Fault Refusal := .next (returnUnit s unit)

/-- A core of a returning die: every context idle, its fence gone (R419). -/
def returnCore (s : State) (core : Nat) : State :=
  ((ctxsOf core).foldl (fun s k => if (s.ctx k).st = .idle then s else loseCtx s k) s).modCore core fun c =>
    { c with frozen := false, fenced := false, bwr := false }

/-- UNIT_RETURN_COMPLETE (R176, R419): the unit is in service again, its cores idle, its memory kept and its supervisor contexts free
to be started anew; the rest of its start block keeps what was written to it: DESIGN CHOICE, log entry 85. -/
def execUnitReturnComplete (unit : Nat) (s : State) : Host.Outcome State Fault Refusal :=
  .next (if unitState s unit ≠ 3 then s
    else
      let s1 := (unitsWith unit).foldl (fun s u => setUnit s u 0) s
      if unit < 12 then
        let cores := coresOfDie unit ++ [supCore unit 0, supCore unit 1]
        let s2 := [2 * unit, 2 * unit + 1].foldl (fun s k => fenceStack s k false) (cores.foldl returnCore s1)
        s2.modDie unit fun d => { d with svRun := false }
      else if unit < 36 then fenceStack s1 (unit - 12) false
      else s1.modIo (unit - 36) fun d => { d with out := false })

/-- A write to SVU[u] (R419): w1 holds the bits written as 1. -/
def writeUnit (s : State) (u w1 : Nat) : State :=
  if h : u < 38 then
    let s1 := if bit w1 4 then { s with pkg := { s.pkg with svuRefused := s.pkg.svuRefused.set u false } } else s
    if fld w1 0 2 = 1 then withdrawUnit s1 u else if fld w1 0 2 = 2 then returnUnit s1 u else s1
  else s

/-! ## The checkpoint -/

/-- A mesh core frozen for the checkpoint without a packet; one that is frozen already stays so afterwards (R421, R422). -/
def ckFreeze (s : State) (core : Nat) : State :=
  if (s.core core).frozen then s else (freezeCore s core).modCore core fun c => { c with ckFrozen := true }

/-- The steps of a die in flood or move aborted (R421). -/
def ckSteps (s : State) (die : Nat) : State :=
  (s.die die).groups.foldl (fun s p => match p.2.steps with
    | st :: _ => if st.phase = .flood ∨ st.phase = .move then failStep s die p.1 st { cause := 0x25 } else s
    | [] => s) s

/-- Every engine operation in progress completed: with status 1, or with the status that it has (R421). -/
def ckOps (s : State) : State :=
  s.ops.foldl (fun s p => match SMap.find? s.ops p.1 with
    | some o => finishOp readOps s p.1 o (if o.stage = 3 then o.status else 1)
    | none => s) s

/-- The dirty bytes of a core's L1 sent home, the copies kept, clean (R421). -/
def ckFlush (s : State) (core : Nat) : State :=
  (sectorsIn (s.core core) fun x => x.st != .i).foldl (fun s x => modSector (flushV s core x) x fun k y =>
    if k = core ∧ y.st = .m then { y with st := .e } else y) s

/-- The dirty promotion slots of a bank written back, the rows kept in their slots (R421). -/
def ckSlots (s : State) (bk : Nat) : State :=
  (s.bank bk).slots.foldl (fun s p =>
    if p.2.dirty then
      (copyCodes s (rowSector bk 1 p.1) (rowSector bk 0 (mapRow (s.bank bk) p.2.row))).modBank bk fun b =>
        { b with slots := SMap.put b.slots p.1 { p.2 with dirty := false } }
    else s) s

/-- Every dirty byte of the package written to DRAM (R421). -/
def ckWriteBack (s : State) : State :=
  let s1 := (s.cores.map (·.1)).foldl ckFlush s
  let s2 := (s1.homeq.map (·.sector)).foldl serveHome s1
  let l2 : SMap (List L2Line) := s2.l2.map fun kv => (kv.1, kv.2.map fun l => { l with dirty := false })
  let s3 : State := { s2 with l2 := l2 }
  (s3.banks.map (·.1)).foldl ckSlots s3

/-- A checkpoint is in progress: no dispatcher starts work (R421). -/
def ckBusy (s : State) : Bool := s.pkg.ckState == 1 || s.pkg.ckState == 2

/-- GO of CKCTL (R421): the dispatchers stop, mesh cores freeze, steps and operations end, and the package is quiescing. -/
def checkpointGo (s : State) : State :=
  if ckBusy s then s
  else
    let s1 := ((List.range 12).map coresOfDie).flatten.foldl ckFreeze { s with pkg := { s.pkg with ckState := 1 } }
    ckOps ((List.range 12).foldl ckSteps s1)

/-- The place of a byte of DRAM or of a vault in the image (R30, R422): deep rows in package-interleaved block order, then shelf rows
by stack, bank and row, then vaults by die, vault and offset. -/
def imagePlace (a : Nat) : Nat :=
  let deep := deepRows * 18432 * 1024
  if regionOf a = 1 then deep + 18432 * 4096 * 1024 + vaultNo a * vaultSize + vaultOff a
  else if classOf a = 1 then deep + (bankKey a * 4096 + rowNo a) * 1024 + colNo a
  else ((rowNo a * 768 + bankNo a) * 24 + stackOf a) * 1024 + colNo a

/-- The image of memory by its offsets, as a sparse list of bytes (R422). -/
def ckImage (m : Memory) : Memory := m.foldl (fun x c => SMap.put x (imagePlace c.1) c.2) []

/-- The end of quiescing (R421, R422): every dirty byte is in DRAM, and the image is sent from remote offset 0. -/
def ckCopy (s : State) : State :=
  let s1 := ckWriteBack s
  { s1 with pkg := { s1.pkg with ckState := 2 }, netOut := s1.netOut ++ [.image s1.pkg.ckep 0 (ckImage s1.mem)] }

/-- An I/O die can send the image: the endpoint is enabled there, and a port that it allows is up (R409, R413, R422). -/
def ckReaches (s : State) : Bool :=
  (List.range 2).any fun io => endpointOk s io s.pkg.ckep && !linkFailed s io s.pkg.ckep false

/-- CHECKPOINT_GO (R421). -/
def execCheckpointGo (s : State) : Host.Outcome State Fault Refusal := .next (checkpointGo s)

/-- A core that the checkpoint froze resumes (R422). -/
def ckResume (s : State) (core : Nat) : State :=
  if (s.core core).ckFrozen then (resumeCore s core).modCore core fun c => { c with ckFrozen := false } else s

/-- CHECKPOINT_COMPLETE (R421, R422): quiescing is complete and the copy begins; or the image was taken, or its target refused it,
as one that cannot be reached does, and either way the cores resume. DEDUCED, log entry 47. -/
def execCheckpointComplete (ok : Bool) (s : State) : Host.Outcome State Fault Refusal :=
  .next (if s.pkg.ckState = 1 then ckCopy s
    else if s.pkg.ckState = 2 then
      let s1 := (s.cores.map (·.1)).foldl ckResume s
      { s1 with pkg := { s1.pkg with ckState := if ok && ckReaches s then 3 else 4 } }
    else s)

/-- A write to CKCTL (R421): v is the new content, w1 the bits written as 1. -/
def writeCheckpoint (s : State) (v w1 : Nat) : State :=
  let s1 := { s with pkg := { s.pkg with ckep := fld v 32 16 } }
  if bit w1 0 then checkpointGo s1 else s1

end Sys2Proof.Machine
end

