-- ==== Sys2Proof/Machine/Boot.lean ====
section
/-! DEFINITION. Boot, firmware, identity, debug authentication, the lifecycle, and what power cycles keep (R64, R407, R414 to
R417). -/

namespace Sys2Proof.Machine
open Sys2Proof

/-- The number of a lifecycle state, in their order (R416). -/
def Lifecycle.code : Lifecycle → Nat
  | .manufacture => 0 | .develop => 1 | .production => 2 | .returned => 3

/-- The lifecycle state of a number. -/
def Lifecycle.ofCode : Nat → Lifecycle
  | 0 => .manufacture | 1 => .develop | 2 => .production | _ => .returned

/-- A firmware image that R414 accepts: its key's digest is the one fused for the lifecycle state, and its signature
verifies. -/
def imageAccepted (s : State) (image sig key : Nat) : Bool :=
  Config.keyDigest key == Config.fusedDigest s.pkg.lifecycle.code 0 && Config.verify key sig image

/-- What the stages of an image record, each before it runs the next (R414). -/
def stageDigests (image : Nat) : List (BitVec 256) :=
  Config.imageDigest image :: (List.range (Config.laterStages image)).map (Config.stageDigest image)

/-- An image run, the digests of its stages recorded first (R414). -/
def runImage (p : Pkg) (image : Nat) : Pkg :=
  { p with firmware := some image, measurements := p.measurements ++ stageDigests image }

/-- The image that the boot store holds: the one last installed, or the one that lies there (R414). -/
def bootStore (s : State) : Nat × Nat × Nat := s.pkg.stored.getD (Config.bootImage s.pkg.boots)

/-- POWER_UP_BOOT (R414): the image is checked, and run or left in recovery; once a power-up. -/
def execPowerUpBoot (s : State) : Host.Outcome State Fault Refusal :=
  .next (if s.pkg.firmware.isSome || s.pkg.recovery then s
    else
      let (image, sig, key) := bootStore s
      let p := { s.pkg with boots := s.pkg.boots + 1, debugOpen := false }
      if imageAccepted s image sig key then { s with pkg := runImage p image }
      else { s with pkg := { p with recovery := true } })

/-- FIRMWARE_UPDATE (R414): an accepted image is stored, and run by an I/O die that is not in recovery; a failed check leaves
the running image. DESIGN CHOICE, log entry 50. -/
def execFirmwareUpdate (image sig key : Nat) (s : State) : Host.Outcome State Fault Refusal :=
  .next (if imageAccepted s image sig key then
      let p := { s.pkg with stored := some (image, sig, key) }
      { s with pkg := if p.firmware.isSome then runImage p image else p }
    else s)

/-- What an attestation covers: the measurements, the lifecycle state, the debug state and the challenge (R415). -/
def attested (p : Pkg) (challenge : Nat) : Nat :=
  p.measurements.foldl (fun a m => a * 2 ^ 256 + m.toNat) (challenge * 8 + p.lifecycle.code * 2 + b2n p.debugOpen)

/-- ATTESTATION_REQUEST (R415, R417): signed in develop and production, outside P3. -/
def execAttestationRequest (challenge : Nat) (s : State) : Host.Outcome State Fault Refusal :=
  let p := s.pkg
  .next (match p.identity with
    | some key =>
      if (p.lifecycle = .develop ∨ p.lifecycle = .production) ∧ !p.p3 then
        { s with netOut := s.netOut ++ [.attestation (Config.sign key (attested p challenge))] }
      else s
    | none => s)

/-- DEBUG_AUTHENTICATE (R416): the debugger's signature of a challenge that the device draws. -/
def execDebugAuthenticate (key sig : Nat) (s : State) : Host.Outcome State Fault Refusal :=
  let (ch, s1) := drawBits s 256
  .next (if Config.keyDigest key = Config.fusedDigest s.pkg.lifecycle.code 1 ∧ Config.verify key sig ch.toNat = true then
      { s1 with pkg := { s1.pkg with debugOpen := true } }
    else s1)

/-! ## What outlives power -/

/-- The retired rows of a bank of a die in the die's list (R68). -/
def retiredOf (rows : List (Nat × Nat)) (i : Nat) : List Nat := (rows.filter fun r => r.1 == i).map fun r => r.2

/-- A bank at power-up with its retired rows: a logical row whose partner is retired takes the lowest-numbered free pool row
of its subarray (R64). DEDUCED, log entry 66. -/
def powerUpBank (rows : List Nat) : Bank :=
  let deep := (List.range deepRows).filter fun d => rows.contains d
  deep.foldl (fun b d => match poolRow b (d % 128) with | some p => setMap b d p | none => b) { retired := rows }

/-- The banks of the package at power-up, from the retired-row lists of its dies. -/
def powerUpBanks (dies : SMap Die) : SMap Bank :=
  dies.foldl (fun m d =>
    (d.2.retired.map (·.1)).foldl (fun m i => SMap.put m (d.1 * 1536 + i) (powerUpBank (retiredOf d.2.retired i))) m)
    []

/-- The package after power was lost: reset, but for the persistent counters and retired rows, the lifecycle, the identity and
the boot store (R64, R407, R414 to R416). -/
def powerCycle (s : State) : State :=
  let p := s.pkg
  { State.reset with
    dies := s.dies.map fun d => (d.1, { ({} : Die) with ctrs := d.2.saved, saved := d.2.saved, retired := d.2.retired })
    ios := s.ios.map fun d => (d.1, { ({} : IoDie) with ctrs := d.2.saved, saved := d.2.saved })
    banks := powerUpBanks s.dies
    pkg := { ({} : Pkg) with lifecycle := p.lifecycle, identity := p.identity, stored := p.stored, boots := p.boots }
    nextOp := s.nextOp, turns := s.turns, tick := s.tick, free := s.free, cur := s.cur }

/-- POWER_LOSS (R407): the increments since the last copy are lost, those of one period at most. -/
def execPowerLoss (s : State) : Host.Outcome State Fault Refusal :=
  .next (powerCycle (((List.range 14).filter (persistDue s)).foldl persist s))

/-- ORDERLY_POWER_DOWN (R407): the counters are copied first. -/
def execOrderlyPowerDown (s : State) : Host.Outcome State Fault Refusal :=
  .next (powerCycle ((List.range 14).foldl persist s))

/-! ## The lifecycle -/

/-- Entry into returned (R416): DRAM, vaults and registers are zero, those too that reset to another value, and the identity is
revoked; what the persistent store holds of the hardware stays. No firmware is in force until the boot ROM has accepted one for this
state (R414, R417). DESIGN CHOICE, log entry 50. -/
def wipe (s : State) : State :=
  let s1 := powerCycle s
  let zeroDie := fun (d : Die) => { d with ctrs := [], ratio := 0 }
  { s1 with
    dies := (List.range 12).map fun k => (k, zeroDie (s1.die k))
    ios := s1.ios.map fun d => (d.1, { d.2 with ctrs := [] })
    pkg := { s1.pkg with
      lifecycle := .returned, identity := none, debugOpen := s.pkg.debugOpen
      stagedShare := Vector.replicate 12 0, dieShare := Vector.replicate 12 0
      stagedStk := Vector.replicate 24 0, stkShare := Vector.replicate 24 0 } }

/-- LIFECYCLE_ADVANCE (R415, R416): forward only; the identity key is generated as the package leaves manufacture. -/
def execLifecycleAdvance (stage : Nat) (s : State) : Host.Outcome State Fault Refusal :=
  let p := s.pkg
  .next (if 3 < stage ∨ stage ≤ p.lifecycle.code then s
    else if stage = 3 then wipe s
    else
      let key := if p.lifecycle = .manufacture then some (Config.identityKey p.boots) else p.identity
      { s with pkg := { p with lifecycle := Lifecycle.ofCode stage, identity := key } })

/-- Programs may run: firmware has been accepted, and the package is not returned (R414, R417). -/
def programsRun (s : State) : Bool := s.pkg.firmware.isSome && s.pkg.lifecycle != .returned

end Sys2Proof.Machine
end

