-- ==== Sys2Proof/Machine/HostQueue.lean ====
section
/-! DEFINITION. Tranar command queues: their registers, the queue dispatcher's visits and the commands (R372 to R376, R410,
R411). -/

namespace Sys2Proof.Machine
open Sys2Proof

/-! ## The device's own reads -/

/-- Bytes of one sector read by an I/O die at a region-form address, as a UNC load (R373): published ones. The code 0 says that the
read must wait, any other that the bytes cannot be read (R374, R399, R420). -/
def ioRead (s : State) (io pa n : Nat) : URes (List Byte × State) :=
  match dramLoc s pa with
  | none => .error ({ code := 7 }, s)
  | some a => readUnitAs false s (12 + io) (.engine 0) a n

/-- The value of a tail word as the setting of EN reads it (R372): at a place that holds requests back the write takes the value that
it will find there. -/
def tailAtEnable (s : State) (io pa : Nat) : Option Nat × State :=
  match ioRead s io pa 8 with
  | .ok (bs, s1) => (some (bytesToNat bs), s1)
  | .error (t, s1) => (if t.code = 0 then (dramLoc s pa).map fun a => readWord64 s a else none, s1)

/-! ## Registers -/

/-- A progress word's place that R372 allows, and a completion word's that R411 does: DRAM, or an enabled window of the I/O
die that permits stores. -/
def wordPlaceOk (s : State) (io pa : Nat) : Bool :=
  if bit pa 47 then winIo (fld pa 40 7) == io && !netFault s (fld pa 40 7) (fld pa 0 40) 8 .store
  else isDramRegion (regionOf pa) && (dramLoc s pa).isSome

/-- A configuration that can be enabled, but for the tail word's read (R372). -/
def queueOk (s : State) (io q : Nat) (x : Queue) : Bool :=
  let same := (s.io io).queues.filter fun p => p.1 != q && p.2.en && p.2.hctx == x.hctx
  decide (4 ≤ x.log2n) && decide (same.length < 64) && isDramRegion (regionOf x.base) && dramRun s x.base (64 * 2 ^ x.log2n)
    && isDramRegion (regionOf x.tail) && (dramLoc s x.tail).isSome && wordPlaceOk s io x.prog

/-- A queue enabled, or refused with QERR 4 (R372). -/
def enableQueue (s : State) (io q : Nat) (x : Queue) : State :=
  let refuse := fun s => setQueue s io q { x with qerr := 4 }
  if !queueOk s io q x then refuse s
  else
    match tailAtEnable s io x.tail with
    | (none, s1) => refuse s1
    | (some t, s1) =>
      let x1 := { x with en := true, halt := false, qerr := 0, head := t, done := t, finished := [], run := x.run + 1 }
      progressStore (setQueue s1 io q x1) io x1 t

/-- A write to QCTL (R372, R376). -/
def writeQctl (s : State) (io q v : Nat) : State :=
  let x := (s.io io).queue q
  let x1 := { x with swin := bit v 1, log2n := if x.en then x.log2n else fld v 4 4, hctx := if x.en then x.hctx else fld v 8 8 }
  if !bit v 0 then setQueue s io q { x1 with en := false }
  else if x.en then setQueue s io q x1
  else enableQueue s io q x1

/-- A write to a queue's block (R372). -/
def writeQueue (s : State) (io q off v : Nat) : State :=
  let x := (s.io io).queue q
  match off with
  | 0 => writeQctl s io q v
  | 8 => if x.en then s else setQueue s io q { x with base := fld v 6 42 * 64 }
  | 16 => if x.en then s else setQueue s io q { x with tail := fld v 3 45 * 8 }
  | 24 => if x.en then s else setQueue s io q { x with prog := fld v 3 45 * 8 }
  | _ => s

/-- QUEUE_ENABLE (R372): a write to QCTL. -/
def execQueueEnable (io q val : Nat) (s : State) : Host.Outcome State Fault Refusal :=
  .next (if io < 2 ∧ q < 1024 then writeQctl s io q val else s)

/-- QCTL of a queue with SWIN set to a value. -/
def switchQueue (s : State) (io q : Nat) (on : Bool) : State := writeQctl s io q (setFld (queueReg (s.io io) q 0) 1 1 (b2n on))

/-- QUEUE_SWITCH_OUT (R376). -/
def execQueueSwitchOut (io q : Nat) (s : State) : Host.Outcome State Fault Refusal :=
  .next (if io < 2 ∧ q < 1024 then switchQueue s io q false else s)

/-- QUEUE_SWITCH_IN (R376). -/
def execQueueSwitchIn (io q : Nat) (s : State) : Host.Outcome State Fault Refusal :=
  .next (if io < 2 ∧ q < 1024 then switchQueue s io q true else s)

/-! ## Visits -/

/-- The queues of an I/O die are served (R414, R417, R420, R421). -/
def queuesServed (s : State) (io : Nat) : Bool :=
  decide (io < 2) && !(s.io io).out && !ckBusy s && !s.pkg.recovery && s.pkg.lifecycle != .returned

/-- A run of region-form DRAM addresses of a COPY command: one address when it has no bytes (R411). -/
def copyRange (s : State) (pa n : Nat) : Bool := isDramRegion (regionOf pa) && dramRun s pa (max n 1)

/-- A command that R411 refuses. -/
def commandRefused (s : State) (io : Nat) (b : BitVec 512) : Bool :=
  let a := cmdA b
  let dramAt := fun align => a % align == 0 && decide (a < 2 ^ 48) && isDramRegion (regionOf a) && (dramLoc s a).isSome
  decide (4 ≤ cmdOp b) || fld b.toNat 16 48 != 0 || fld b.toNat 384 128 != 0 || decide (12 ≤ cmdDie b)
    || decide (6 ≤ cmdScope b) || bit (cmdCwseq b) 63
    || (cmdCw b && (cmdCwaddr b % 8 != 0 || decide (2 ^ 48 ≤ cmdCwaddr b) || !wordPlaceOk s io (cmdCwaddr b)))
    || (match cmdOp b with
        | 1 => !dramAt 64
        | 3 => !dramAt 8
        | 2 => decide (2 ^ 32 < cmdC b) || decide (2 ^ 48 ≤ a) || decide (2 ^ 48 ≤ cmdB b) || !copyRange s a (cmdC b)
            || !copyRange s (cmdB b) (cmdC b)
        | _ => false)

/-- A queue halted (R374). -/
def haltQueue (s : State) (io q code : Nat) : State :=
  setQueue s io q { (s.io io).queue q with halt := true, qerr := code }

/-- Entries read in order, n at most: each is handed over, or halts its queue (R373, R374). One whose read must wait is read at
the next visit. -/
def readEntries (s : State) (io q : Nat) : Nat → State
  | 0 => s
  | n + 1 =>
    let x := (s.io io).queue q
    match ioRead s io (x.base + 64 * (x.head % 2 ^ x.log2n)) 64 with
    | .error (t, s1) => if t.code = 0 then s1 else haltQueue s1 io q 3
    | .ok (bs, s1) =>
      let b := BitVec.ofNat 512 (bytesToNat bs)
      if commandRefused s1 io b then haltQueue s1 io q 3
      else
        let s2 := setQueue s1 io q { x with head := x.head + 1 }
        readEntries (s2.modIo io fun d =>
          { d with cmdq := d.cmdq ++ [{ q := q, entry := x.head + 2 ^ 64 * x.run, bits := b }] }) io q n

/-- What a visit does with the tail word that it has read (R373, R374). -/
def visitTail (s : State) (io q t : Nat) : State :=
  let x := (s.io io).queue q
  if t < x.head then haltQueue s io q 1
  else if 2 ^ x.log2n < t - x.done then haltQueue s io q 2
  else readEntries s io q (min t (x.head + 8) - x.head)

/-- A visit of a queue (R373, R374): one whose tail word cannot be read yet has not been made. -/
def visitQueue (s : State) (io q : Nat) : State :=
  let next := fun s : State => s.modIo io fun d => { d with visit := (q + 1) % 1024 }
  match ioRead s io ((s.io io).queue q).tail 8 with
  | .error (t, s1) => if t.code = 0 then s1 else haltQueue (next s1) io q 5
  | .ok (bs, s1) => visitTail (next s1) io q (bytesToNat bs)

/-- The next queue to visit, in ascending number from the place after the last, wrapping (R373). -/
def nextQueue (s : State) (io : Nat) : Option Nat :=
  let d := s.io io
  let live := (d.queues.filter fun p => p.2.en && p.2.swin && !p.2.halt).map fun p => p.1
  match live.find? fun q => decide (d.visit ≤ q) with
  | some q => some q
  | none => live.head?

/-- QUEUE_VISIT (R373). -/
def execQueueVisit (io : Nat) (s : State) : Host.Outcome State Fault Refusal :=
  .next (if !queuesServed s io then s
    else match nextQueue s io with
      | none => s
      | some q => visitQueue s io q)

/-! ## Commands -/

/-- The first command of an I/O die that has not started, if it is of an operation and its die takes it; a parked die is
woken (R62, R411). -/
def nextCommand (s : State) (io op : Nat) : Option Command :=
  if !queuesServed s io then none
  else ((s.io io).cmdq.find? fun c => !c.started).filter fun c => cmdOp c.bits == op

/-- A command marked as started. -/
def startCommand (s : State) (io : Nat) (c : Command) : State :=
  s.modIo io fun d => { d with cmdq := d.cmdq.map fun x =>
    if x.q = c.q ∧ x.entry = c.entry then { x with started := true } else x }

/-- A command run on its die: one whose die is parked waits, and wakes it, and so does one that a place it acts on holds back.
DEDUCED, log entry 48. -/
def onDie (s : State) (io : Nat) (c : Command) (f : State → Except State State) : State :=
  if (s.die (cmdDie c.bits)).pstate = 2 then s.modDie (cmdDie c.bits) fun d => { d with returning := true }
  else match f (startCommand s io c) with
    | .ok s1 => s1
    | .error s1 => withWakes s s1

/-- TRANAR_NOP (R411). -/
def execTranarNop (io : Nat) (s : State) : Host.Outcome State Fault Refusal :=
  .next (match nextCommand s io 0 with
    | none => s
    | some c => tranarDone (startCommand s io c) io c.q c.entry 0)

/-- TRANAR_GRAPH (R357, R358, R411): GSUB with system instructions enabled. -/
def execTranarGraph (io : Nat) (s : State) : Host.Outcome State Fault Refusal :=
  .next (match nextCommand s io 1 with
    | none => s
    | some c => onDie s io c fun s =>
      let die := cmdDie c.bits
      let done := fun s st => Except.ok (tranarDone s io c.q c.entry st)
      match dramLoc s (cmdA c.bits) with
      | none => done s 0x107
      | some a =>
        match readUnit s die (.engine die) a 64 with
        | .error (t, s1) => if t.code = 0 then .error s1 else done s1 (0x100 + t.code)
        | .ok (bs, s1) =>
          let (op, s2) := newOp s1
          let (st, s3) := submitGraph s2 { die := die, sys := true } (BitVec.ofNat 512 (bytesToNat bs)) op
            (.tranar io c.q c.entry)
          if st = 0x100 then .error s3 else if st = 0 then .ok s3 else done s3 st)

/-- TRANAR_COPY (R261, R411). -/
def execTranarCopy (io : Nat) (s : State) : Host.Outcome State Fault Refusal :=
  .next (match nextCommand s io 2 with
    | none => s
    | some c => onDie s io c fun s =>
      let die := cmdDie c.bits
      let dest := Dest.tranar io c.q c.entry
      let sc := Scope.ofCode (BitVec.ofNat 3 (cmdScope c.bits))
      if dieOut s die then .ok (tranarDone s io c.q c.entry 0x12A)
      else
        let (op, s1) := newOp s
        match freeEngine s1 die with
        | some k => startCopy readOps s1 op k { die := die, sp := none, cid := die * 4096, scope := sc, req := .own,
                                                drain := false, rows := [(cmdA c.bits, cmdB c.bits, cmdC c.bits)] } dest
        | none => .ok (s1.modDie die fun d =>
            { d with waiting := d.waiting ++ [{ op := op, sp := none, cid := die * 4096, scope := sc, dst := cmdA c.bits,
                                                src := cmdB c.bits, len := cmdC c.bits, dest := dest }] }))

/-- STORE of eight bytes: a status, as an engine's write has (R69, R128, R260, R411), or the wait for its place. -/
def commandStore (s : State) (die a v : Nat) : Except State (Nat × State) :=
  if refuses s die (.dram a) || dieOut s die then .ok (0x12A, s)
  else if bankLive s (bankKey a) || claimedBy s none a 8 then .ok (2, s)
  else match heldAt s .store (.dram a) with
    | some s1 => .error s1
    | none =>
      match ownedHome s a with
      | none => .error s
      | some s1 =>
        let m := byteMask a 8
        .ok (0, storeHome (raceCover s1 (a / 64) m) (a / 64) m (sectorBytes (a % 64) (natToBytes 8 v)))

/-- TRANAR_STORE (R411). -/
def execTranarStore (io : Nat) (s : State) : Host.Outcome State Fault Refusal :=
  .next (match nextCommand s io 3 with
    | none => s
    | some c => onDie s io c fun s =>
      match dramLoc s (cmdA c.bits) with
      | none => .ok (tranarDone s io c.q c.entry 0x107)
      | some a => (commandStore s (cmdDie c.bits) a (cmdB c.bits)).map fun r => tranarDone r.2 io c.q c.entry r.1)

end Sys2Proof.Machine
end

