-- ==== Sys2Proof/Machine/Inbound.lean ====
section
/-! DEFINITION. Inbound remote operations (R48, R118, R408). -/

namespace Sys2Proof.Machine
open Sys2Proof

/-- An entry of an I/O die's inbound region table (R48): IRCTL, IRBASE, IRLEN. -/
structure Region where
  ctl : Nat
  base : Nat
  len : Nat

/-- An entry of the table. -/
def regionEntry (s : State) (io e : Nat) : Region :=
  let r := fun off => ((s.io io).reg (0x30000 + 32 * e + off)).toNat
  { ctl := r 0, base := r 8, len := r 16 }

/-- The lowest-numbered enabled entry that holds a key (R48). -/
def findRegion (s : State) (io key : Nat) : Option Region :=
  (List.range 256).findSome? fun e =>
    let r := regionEntry s io e
    if bit r.ctl 0 ∧ fld r.ctl 32 32 = key then some r else none

/-- The physical address that an accepted operation acts at: bit perm of IRCTL is the permission it needs (R48), and a message carries
at most 2^32 bytes (R408). -/
def inboundAt (s : State) (io key off n perm : Nat) : Option Nat :=
  match findRegion s io key with
  | none => none
  | some r => if bit r.ctl perm ∧ off + n ≤ r.len ∧ n ≤ 2 ^ 32 then some (r.base + off) else none

/-- An access-error response, counted (R48, R118). -/
def refuseInbound (s : State) (io : Nat) : State :=
  countIo { s with netOut := s.netOut ++ [.response io false []] } io ctrInbref 1

/-- A page at an output address, in its region's form, holds a place of DRAM. -/
def pageHolds (oa log2 a : Nat) : Bool :=
  match nameIn (regionOf oa) a with
  | some x => decide (oa ≤ x) && decide (x < oa + 2 ^ log2)
  | none => false

/-- A tidal page of the tables from one table down holds a place of DRAM (R35, R36); the rest of the levels is the fuel. -/
def tidalTable (s : State) (die a : Nat) : Nat → Nat → Nat → Bool
  | 0, _, _ => false
  | fuel + 1, level, table => (List.range (if level = 3 then 32 else 512)).any fun i =>
    match dramLoc s (table + 8 * i) with
    | none => false
    | some p =>
      let e := readWord64 s p
      if !bit e 0 then false
      else if bit e 1 then bit e 6 && leafOk s level e && pageHolds (leafOut die e) (levelShift level) a
      else tableEntOk s level e && tidalTable s die a fuel (level + 1) (fld e 12 36 * 4096)

/-- The page tables in use, with the dies that use them: of the contexts, the save images and the graphs. -/
def rootsInUse (s : State) : List (Nat × Nat) :=
  let cs := (s.ctxs.filter fun p => p.2.st != .idle).map fun p => (dieOf p.1, p.2.troot.toNat)
  let is := (s.dies.map fun d => d.2.images.map fun m => (d.1, m.ctx.troot.toNat)).flatten
  let gs := s.graphs.map fun g => (g.2.die, g.2.troot * 4096)
  (cs ++ is ++ gs).eraseDups.filter fun p => p.2 != 0 && tableOk s p.2

/-- A place in a tidal page (R118, R122): of tables in use, of a leaf that a core's TLB holds, or with tidal stores pending.
DEDUCED, log entry 49. -/
def tidalPlace (s : State) (a : Nat) : Bool :=
  (s.cores.any fun c => c.2.tlb.any (fun e => bit e.attrs 6 && pageHolds e.oa e.log2 a)
      || c.2.tidal.any fun t => t.sector == a / 64)
    || (s.pend.any fun p => p.sector == a / 64 && (match p.owner with | .tidal .. => true | _ => false))
    || (rootsInUse s).any fun r => tidalTable s r.1 a 4 0 r.2

/-- Some byte of a run lies in a tidal page: pages hold whole sectors. -/
def tidalRun (s : State) (ps : List (Nat × Nat)) : Bool :=
  ps.any fun p => (chunks p.1 p.2).any fun c => tidalPlace s c.1

/-- The ports of an I/O die carry inbound operations unless it is out, every port is down, or the package is in recovery, where only the
management endpoint is served (R412, R414, R420). -/
def portsUp (s : State) (io : Nat) : Bool :=
  decide (io < 2) && !s.pkg.recovery && (List.range 8).any fun p => !portDown s io p

/-- Whether an arriving message carries ordered delivery (R118, R408): the transport's choice, taken freely. DEDUCED, log entry 49. -/
def deliveryOrdered (s : State) : Bool × State := let (c, s1) := drawChoice s 2; (c == 1, s1)

/-- An operation with ordered delivery of an I/O die is in progress (R118). -/
def orderedPending (s : State) (io : Nat) : Bool := s.ops.any fun p => p.2.kind == .inbound && p.2.io == io && p.2.ord

/-- A write of n bytes into accepted places, or an atomic there, started as an engine operation of the I/O die (R118). -/
def startInbound (s : State) (io : Nat) (ps : List (Nat × Nat)) (data : List Byte) (atom : Option (Nat × Nat × Nat)) : State :=
  if tidalRun s ps then refuseInbound s io
  else
    let (ord, s0) := deliveryOrdered s
    let (op, s1) := newOp s0
    launch readOps s1 op { kind := .inbound, die := 12 + io, scope := .sys, dst := ps, snap := data,
                           total := data.length, dest := .inbound io, io := io, ord := ord, atom := atom }

/-- A write or an atomic that has been accepted: started, unless its places hold requests back, so that it has not been taken yet
(R56, R62, R68, R417). -/
def takeInbound (s : State) (io : Nat) (ps : List (Nat × Nat)) (data : List Byte) (atom : Option (Nat × Nat × Nat)) : State :=
  match piecesHeld s .store ps with
  | some s1 => s1
  | none => startInbound s io ps data atom

/-- INBOUND_REMOTE_WRITE (R48, R118). -/
def execInboundRemoteWrite (io key off : Nat) (data : List Byte) (s : State) : Host.Outcome State Fault Refusal :=
  .next (if !portsUp s io then s
    else match (inboundAt s io key off data.length 2).bind fun pa => dramPieces s pa data.length with
      | none => refuseInbound s io
      | some ps => takeInbound s io ps data none)

/-- The bytes of accepted places read as published (R118, R399): the code 0 says that the read must wait. -/
def inboundBytes (s : State) (io : Nat) (ps : List (Nat × Nat)) : URes (List Byte × State) :=
  (ps.map fun p => chunks p.1 p.2).flatten.foldlM (fun (acc : List Byte × State) c => do
    let (bs, s1) ← readUnitAs false acc.2 (12 + io) (.engine 0) c.1 c.2
    .ok (acc.1 ++ bs, s1)) ([], s)

/-- INBOUND_REMOTE_READ (R48, R118): one with ordered delivery comes after the earlier messages that carry it. -/
def execInboundRemoteRead (io key off len : Nat) (s : State) : Host.Outcome State Fault Refusal :=
  .next (if !portsUp s io then s
    else match (inboundAt s io key off len 1).bind fun pa => dramPieces s pa len with
      | none => refuseInbound s io
      | some ps =>
        let (ord, s0) := deliveryOrdered s
        if ord && orderedPending s0 io then s0
        else match inboundBytes s0 io ps with
          | .error (t, s1) => if t.code = 0 then withWakes s0 s1 else refuseInbound s1 io
          | .ok (bs, s1) => { s1 with netOut := s1.netOut ++ [.response io true bs] })

/-- INBOUND_REMOTE_ATOMIC (R48, R118, R408). -/
def execInboundRemoteAtomic (io key off size op a b : Nat) (s : State) : Host.Outcome State Fault Refusal :=
  .next (if !portsUp s io then s
    else
      let ok := (size == 4 || size == 8) && decide (op < 3)
      match (if ok then inboundAt s io key off size 3 else none).bind fun pa => dramPieces s pa size with
      | none => refuseInbound s io
      | some ps => takeInbound s io ps (List.replicate size 0#8) (some (op, a, b)))

/-- INBOUND_UNSUPPORTED_PACKET (R408): dropped and counted. -/
def execInboundUnsupportedPacket (io : Nat) (s : State) : Host.Outcome State Fault Refusal :=
  .next (if io < 2 then countIo s io ctrInbref 1 else s)

end Sys2Proof.Machine
end

