-- ==== Sys2Proof/Machine/Redundant.lean ====
section
/-! DEFINITION. Dual-die redundant kernels (R405, R406). -/

namespace Sys2Proof.Machine
open Sys2Proof

/-- An owner that is a copy of a die's run. -/
def isRun (die : Nat) : Owner → Bool
  | .run d _ => d == die
  | _ => false

/-- A run of a die whose graphs have not all completed. -/
def runAlive (s : State) (die : Nat) : Bool := s.graphs.any fun g => ofRun die g.2

/-- The control block's STATE set. -/
def setRxState (s : State) (die st : Nat) : State := s.modDie die fun d => { d with rx := { d.rx with st := st, go := false } }

/-- GO waits while what it reads holds it back (R56, R62, R68, R69). -/
def waitRun (s s1 : State) (die : Nat) : State :=
  (withWakes s s1).modDie die fun d => { d with rx := { d.rx with st := 1, go := true } }

/-- The control block as a run begins. -/
def freshRun (x : Redundant) : Redundant := { desc := x.desc, peer := x.peer, st := 1 }

/-- The graph of a run submitted on its die and on its peer (R406). -/
def startRun (s : State) (die : Nat) : State :=
  let x := (s.die die).rx
  match dramLoc s x.desc with
  | none => setRxState s die 5
  | some a =>
    match readUnit s die (.engine die) a 64 with
    | .error (t, s1) => if t.code = 0 then waitRun s s1 die else setRxState s1 die 5
    | .ok (bs, s1) =>
      let b := BitVec.ofNat 512 (bytesToNat bs)
      let s3 := (pendDrop s1 (isRun die)).modDie die fun d => { d with rx := freshRun d.rx }
      let (op0, s4) := newOp s3
      let (st0, s5) := submitGraph s4 { die := die, sys := true, run := some (die, 0) } b op0 (.run die 0)
      let (op1, s6) := newOp s5
      let (st1, s7) := submitGraph s6 { die := x.peer, sys := true, run := some (die, 1) } b op1 (.run die 1)
      if st0 = 0x100 ∨ st1 = 0x100 then waitRun s s7 die else if st0 ≠ 0 ∨ st1 ≠ 0 then setRxState s die 5 else s7

/-- The graphs of a run that has failed halt, so that their nodes retire (R370, R406). -/
def haltRun (s : State) (die : Nat) : State :=
  (s.graphs.filter fun g => ofRun die g.2).foldl (fun s g => completeGraph (haltGraph s g.1 1 none) g.1) s

/-- A run that has failed ends: STATE is 5, and both copies are discarded (R406). -/
def endRun (s : State) (die : Nat) : State := pendDrop (haltRun (setRxState s die 5) die) (isRun die)

/-- GO (R405, R406): the graph is submitted on this die and on its peer. One that a run is in the way of, one whose PEER is no other
die, or one that GSUB would refuse on either die, leaves STATE at 5, and the run that it meets fails. DEDUCED, log entry 51. That
PEER may not name the own die: DESIGN CHOICE, log entry 87. -/
def redundantGo (s : State) (die : Nat) : State :=
  let x := (s.die die).rx
  if x.st = 1 ∨ x.st = 2 then endRun s die
  else if runAlive s die ∨ x.peer = die ∨ 12 ≤ x.peer ∨ x.desc % 64 ≠ 0 then setRxState s die 5
  else startRun s die

/-- A write to the control block: writes other than GO are ignored while the run is in progress (R405). -/
def writeRedundant (s : State) (die off v w1 : Nat) : State :=
  let x := (s.die die).rx
  let open_ := x.st != 1 && x.st != 2
  if off = 0 then
    if open_ then s.modDie die fun d => { d with rx := { d.rx with desc := fld v 0 48 } } else s
  else if off = 8 then
    let s1 := if open_ then s.modDie die fun d => { d with rx := { d.rx with peer := fld v 0 4 } } else s
    if bit w1 4 then redundantGo s1 die else s1
  else s

/-- REDUNDANT_RUN_GO (R405). -/
def execRedundantRunGo (die : Nat) (s : State) : Host.Outcome State Fault Refusal := .next (redundantGo s die)

/-- Pending sectors in rising order of their sectors. -/
def insertSector (p : Pend) : List Pend → List Pend
  | [] => [p]
  | q :: qs => if p.sector < q.sector then p :: q :: qs else q :: insertSector p qs

/-- The mask of a pending sector's bytes. -/
def maskedBytes (p : Pend) : List Byte := mergeBytes p.mask (List.replicate 64 0#8) p.bytes

/-- The signature of a copy: SHA-256 over its pending sectors (R406). -/
def runSignature (s : State) (die copy : Nat) : BitVec 256 :=
  let mine := (s.pend.filter fun p => p.owner == .run die copy).foldr insertSector []
  sha256 ((mine.map fun p => natToBytes 8 (p.sector * 64) ++ natToBytes 8 p.mask ++ maskedBytes p).flatten)

/-- The RXMIS counter (R407). -/
def ctrRxmis : Nat := 0x28

/-- REDUNDANT_RUN_COMPARE (R406): a run that has failed ends, one that waits to begin is begun, and two copies that have retired are
compared; the commit waits while one of its homes must (R95). -/
def execRedundantRunCompare (die : Nat) (s : State) : Host.Outcome State Fault Refusal :=
  let x := (s.die die).rx
  .next (if x.st ≠ 1 ∧ x.st ≠ 2 then s
    else if x.fail then endRun s die
    else if x.go then startRun s die
    else if x.st = 1 then s
    else if x.sta ≠ some 0 ∨ x.stb ≠ some 0 then pendDrop (setRxState s die 5) (isRun die)
    else
      let a := runSignature s die 0
      let b := runSignature s die 1
      let s1 := s.modDie die fun d => { d with rx := { d.rx with siga := a, sigb := b } }
      if a = b then
        match commitOwner (pendDrop s1 fun o => o == .run die 1) fun o => o == .run die 0 with
        | none => commitWaits s fun o => o == .run die 0
        | some s2 =>
          let s3 := setRxState s2 die 3
          match x.cw with
          | some (p, v) => completionStore s3 die p (seqValue v false)
          | none => s3
      else countDie (pendDrop (setRxState s1 die 4) (isRun die)) die ctrRxmis 1)

end Sys2Proof.Machine
end

