-- ==== Sys2Proof/Machine/Pairing.lean ====
section
/-! DEFINITION. Core pairs: forming and dissolving, intervals, fingerprints and agreed points (R237, R402 to R404). -/

namespace Sys2Proof.Machine
open Sys2Proof

/-- The core in a direction: 0 x + 1, 1 x − 1, 2 y + 1, 3 y − 1; none outside the die's mesh (R235, R237). -/
def neighbour (core dir : Nat) : Option Nat :=
  let x := core % 16
  let y := core / 16 % 16
  if 10 ≤ y then none
  else match dir with
    | 0 => if x < 15 then some (core + 1) else none
    | 1 => if 0 < x then some (core - 1) else none
    | 2 => if y < 9 then some (core + 16) else none
    | _ => if 0 < y then some (core - 16) else none

/-- The opposite direction. -/
def backDir (dir : Nat) : Nat := match dir with | 0 => 1 | 1 => 0 | 2 => 3 | _ => 2

/-- The pairing context of a side. -/
def PairRec.cid (p : PairRec) (core : Nat) : Nat := core * 16 + p.ctx

/-- A side's record changed. -/
def modPair (s : State) (core : Nat) (f : PairRec → PairRec) : State :=
  s.modCore core fun c => { c with pair := c.pair.map f }

/-- The leader's core of a pair that a core is in, with the leader's record and the follower's core (R402). -/
def pairOf (s : State) (core : Nat) : Option (Nat × PairRec × Nat) :=
  match (s.core core).pair with
  | none => none
  | some p =>
    if p.leader then some (core, p, p.partner)
    else match (s.core p.partner).pair with
      | some q => some (p.partner, q, core)
      | none => none

/-- The pair of which a context is the pairing context on either side: of the task that was paired, which may be evicted meanwhile
(R390). -/
def pairOfCtx (s : State) (cid : Nat) : Option (Nat × PairRec × Nat) :=
  match (s.core (coreOf cid)).pair with
  | none => none
  | some p => if p.ctx = cid % 4 ∧ p.inc = (s.ctx cid).incarnation then pairOf s (coreOf cid) else none

/-- The state of the follower's context after the leader's instruction: the leader's context, but for what belongs to the
follower's place and task (R402). -/
def followCtx (l f : Ctx) : Ctx :=
  { l with node := f.node, graph := f.graph, incarnation := f.incarnation, upsets := f.upsets, inGang := f.inGang,
           interval := f.interval, fetchReq := none, line := none, xlat := [], checked := false }

/-- A context as it stood before its core froze. -/
def thawed (c : Ctx) : Ctx := if c.st = .frozen then { c with st := c.prev, prev := .idle } else c

/-- A new agreed point of both sides (R404). -/
def agree (s : State) (lead foll : Nat) : State :=
  let f := fun (s : State) (core : Nat) => modPair s core fun p =>
    { p with checkpoint := thawed (s.ctx (p.cid core)), crc := 0xFFFFFFFF, fresh := true, want := false, closed := false, disagreements := 0 }
  f (f s lead) foll

/-- A pair formed between two cores whose contexts have asked for each other: both complete PAIR with status 0, and the
follower takes a copy of the leader's registers (R237, R402). -/
def formPair (s : State) (a ca b cb dirA : Nat) (finish_ : Ctx → Ctx) : State :=
  let (lead, cl, foll, cf) := if a < b then (a, ca, b, cb) else (b, cb, a, ca)
  let dirL := if a < b then dirA else backDir dirA
  let lc := finish_ (s.ctx (lead * 16 + cl))
  let s1 := (s.setCtx (lead * 16 + cl) lc).modCtx (foll * 16 + cf) fun c => followCtx lc c
  let rec_ := fun (dir core partner ctx : Nat) (leader : Bool) =>
    ({ dir := dir, partner := partner, ctx := ctx, leader := leader, checkpoint := {}, owner := lead,
       inc := (s.ctx (core * 16 + ctx)).incarnation } : PairRec)
  let s2 := s1.modCore lead fun c => { c with pair := some (rec_ dirL lead foll cl true), pairWait := none }
  let s3 := s2.modCore foll fun c => { c with pair := some (rec_ (backDir dirL) foll lead cf false), pairWait := none }
  agree s3 lead foll

/-- The interval's owner of pending sectors. -/
def isInterval (lead : Nat) (o : Owner) : Bool := o == .interval lead

/-- An interval of a pair is to be closed: it has run to a multiple of 4,096 instructions, or its next instruction waits for the
close (R403). -/
def closePair (s : State) (cid : Nat) : State :=
  match pairOfCtx s cid with
  | none => s
  | some (lead, p, foll) =>
    if p.want ∧ !p.closed then modPair (modPair s lead fun p => { p with closed := true }) foll fun p => { p with closed := true }
    else s

/-- PAIR_INTERVAL_CLOSE (R403). -/
def execPairIntervalClose (cid : Nat) (s : State) : Host.Outcome State Fault Refusal := .next (closePair s cid)

/-- The PAIRMIS counter (R407). -/
def ctrPairmis : Nat := 0x20

/-- A side's context back at its agreed point (R404); its core's state of freezing stays. -/
def rollBack (s : State) (core : Nat) : State :=
  match (s.core core).pair with
  | none => s
  | some p => s.modCtx (p.cid core) fun c =>
      if c.st = .frozen then { p.checkpoint with st := .frozen, prev := p.checkpoint.st } else p.checkpoint

/-- The exchange of a closed interval's fingerprints (R404); the commit waits while one of its homes must (R95). -/
def exchangePair (s : State) (cid : Nat) : State :=
  match pairOfCtx s cid with
  | none => s
  | some (lead, p, foll) =>
    match (s.core foll).pair with
    | none => s
    | some q =>
      if !p.closed then s
      else if crcFinal p.crc = crcFinal q.crc then
        match commitOwner s (isInterval lead) with
        | some s1 => agree s1 lead foll
        | none => commitWaits s (isInterval lead)
      else
        let n := p.disagreements + 1
        let s1 := countDie (pendDrop s (isInterval lead)) (lead / 256) ctrPairmis 1
        let s2 := rollBack (rollBack s1 lead) foll
        let back := fun s core => modPair s core fun p =>
          { p with crc := 0xFFFFFFFF, fresh := true, want := false, closed := false, disagreements := n % 3 }
        let s3 := back (back s2 lead) foll
        if n = 3 then
          let t : Trap := { code := 0x28, aux := 0xFF00 }
          takeFault (takeFault s3 (p.cid lead) t) (q.cid foll) t
        else s3

/-- PAIR_FINGERPRINT_EXCHANGE (R404). -/
def execPairFingerprintExchange (cid : Nat) (s : State) : Host.Outcome State Fault Refusal := .next (exchangePair s cid)

/-- A pair that ends well (R237): both contexts go on by themselves. -/
def unpairCores (s : State) (lead foll : Nat) : State :=
  (s.modCore lead fun c => { c with pair := none }).modCore foll fun c => { c with pair := none }

end Sys2Proof.Machine
end

