-- ==== Sys2Proof/Machine/TransCtl.lean ====
section
/-! DEFINITION. Translation control, walkers, format windows and the supervisor start block (R42 to R45, R49 to R51, R176). -/

namespace Sys2Proof.Machine
open Sys2Proof

/-! ## Invalidation -/

/-- The page size of an invalidation as a power of two (R45). -/
def tinvLog2 (ctl : Nat) : Nat := match fld ctl 16 2 with | 0 => 16 | 1 => 21 | _ => 30

/-- A TLB entry that an invalidation removes (R45). -/
def tinvMatches (addr ctl : Nat) (e : TlbEntry) : Bool :=
  bit ctl 18 || (e.asid == fld ctl 0 16 && (fld ctl 16 2 == 3 ||
    let lo := addr / 2 ^ tinvLog2 ctl * 2 ^ tinvLog2 ctl
    (decide (lo < (e.va + 1) * 2 ^ e.log2) && decide (e.va * 2 ^ e.log2 < lo + 2 ^ tinvLog2 ctl))))

/-- What the contexts of an address space have obtained for their current instruction, given up (R45).
DEDUCED, log entry 63. -/
def tinvCtx (ctl : Nat) (c : Ctx) : Ctx :=
  if bit ctl 18 ∨ fld c.asid.toNat 0 16 = fld ctl 0 16 then { c with xlat := [] } else c

/-- The dies that an invalidation reaches. -/
def tinvDies (die ctl : Nat) : List Nat := if bit ctl 19 then List.range 12 else [die]

/-- The removals of an invalidation on its dies (R45). -/
def tinvRemove (s : State) (ds : List Nat) (addr ctl : Nat) : State :=
  let on := fun d => ds.contains d
  { s with
    cores := s.cores.map fun p =>
      if on (p.1 / 256) then (p.1, { p.2 with tlb := p.2.tlb.filter fun e => !tinvMatches addr ctl e }) else p
    ctxs := s.ctxs.map fun p => if on (dieOf p.1) then (p.1, tinvCtx ctl p.2) else p
    dies := s.dies.map fun p =>
      if on p.1 then (p.1, { p.2 with
        walkCache := p.2.walkCache.filter fun w => !(bit ctl 18 || w.asid == fld ctl 0 16)
        images := p.2.images.map fun m => { m with ctx := tinvCtx ctl m.ctx } })
      else p }

/-- The loads that await a reply, of resident and of evicted tasks: context and instruction count (R117, R393). -/
def remoteLoads (s : State) : List (Nat × Word) :=
  ((s.ctxs ++ (s.dies.map fun p => p.2.images.map fun m => (m.cid, m.ctx)).flatten).filter fun p =>
    p.2.mid == .waiting 6).map fun p => (p.1, p.2.icount)

/-- The line that a context fetches, by its place: one that it has asked its gang's port for, or one that has arrived and may be
fetched again (R184, R206). -/
def fetching (c : Ctx) : Option Nat :=
  match c.fetchReq, c.line with
  | some r, _ => some r.pa
  | none, some l => if c.checked && !c.refetched then some l.pa else none
  | none, none => none

/-- What is under way on the dies of an invalidation when it starts (R45). -/
def tinvPending (s : State) (ds : List Nat) (ctl : Nat) (d : Die) : Die :=
  { d with
    tinvOps := s.nextOp
    tinvFifo := (s.cores.filter fun p => ds.contains (p.1 / 256) && !p.2.fifo.isEmpty).map fun p =>
      (p.1, p.2.fifoLeft + p.2.fifo.length)
    tinvLoads := (remoteLoads s).filter fun p => ds.contains (dieOf p.1)
    tinvMiss := (s.dies.map fun p => if ds.contains p.1 then
      (p.2.missq.filter fun m => bit ctl 18 || m.asid == fld ctl 0 16).map fun m => (p.1, m.asid, m.page) else []).flatten
    tinvLines := s.ctxs.filterMap fun p => if ds.contains (dieOf p.1) then (fetching p.2).map fun a => (p.1, a) else none
    tinvKeys := (s.gangs.map fun p => if ds.contains (p.1 / 20) then p.2.miss.map fun a => (p.1, a) else []).flatten }

/-- Every repeated walk has finished, and every access that was under way when an invalidation started has performed (R45). -/
def tinvPerformed (s : State) (die : Nat) : Bool :=
  let d := s.die die
  let ds := tinvDies die d.tinvCtl
  d.tinvFifo.all (fun x => decide (x.2 ≤ (s.core x.1).fifoLeft))
    && d.tinvLoads.all (fun x => !(remoteLoads s).contains x)
    && d.tinvMiss.all (fun x => !(s.die x.1).missq.any fun m => m.asid == x.2.1 && m.page == x.2.2)
    && d.tinvLines.all (fun x => fetching (s.ctx x.1) != some x.2)
    && d.tinvKeys.all (fun x => !(s.gang x.1).miss.contains x.2)
    && s.ops.all (fun p => !(decide (p.1 < d.tinvOps) && ds.contains p.2.die))
    && s.banks.all (fun p => p.2.queue.all fun o => !(decide (o.uid < d.tinvOps) && ds.contains (dieOf o.cid)))

/-- A write to TINVCTL (R45): GO while BUSY is set is refused, and starts the invalidation otherwise. -/
def writeTinvctl (s : State) (die v w1 : Nat) : State :=
  let d := s.die die
  if bit w1 32 then
    if d.tinvBusy then s.setDie die { d with tinvRefused := true }
    else
      let s1 := s.setDie die { tinvPending s (tinvDies die v) v d with tinvCtl := fld v 0 20, tinvBusy := true }
      tinvRemove s1 (tinvDies die v) d.tinvAddr v
  else s.setDie die { d with tinvCtl := fld v 0 20 }

/-- A write to the translation control block (R45). -/
def writeTrans (s : State) (die off v w1 : Nat) : State :=
  match off with
  | 0 => s.modDie die fun d => { d with tinvAddr := fld v 16 32 * 65536 }
  | 8 => writeTinvctl s die v w1
  | 16 => if bit w1 1 then s.modDie die fun d => { d with tinvRefused := false } else s
  | _ => s

/-- TLB_INVALIDATE_GO (R45): a write to TINVCTL with GO. -/
def execTlbInvalidateGo (die val : Nat) (s : State) : Host.Outcome State Fault Refusal :=
  .next (writeTinvctl s die val (2 ^ 32))

/-- TLB_INVALIDATE_DONE (R45): BUSY clears once nothing that the invalidation waits for is left. -/
def execTlbInvalidateDone (die : Nat) (s : State) : Host.Outcome State Fault Refusal :=
  .next (if tinvPerformed s die then s.modDie die fun d =>
      { d with tinvBusy := false, tinvOps := 0, tinvFifo := [], tinvLoads := [], tinvMiss := [], tinvLines := [], tinvKeys := [] }
    else s)

/-! ## Walkers -/

/-- A context that its walk has served: it keeps what the walk found, and a stalled one is ready (R43, R44). -/
def walkServed (x : Xlat) (c : Ctx) : Ctx :=
  { c with
    xlat := x :: c.xlat.filter fun y => y.page != x.page
    st := if c.st = .stalled then .ready else c.st
    prev := if c.st = .frozen ∧ c.prev = .stalled then .ready else c.prev }

/-- A miss that a walk's result serves: each waiting context and, for a leaf, its core's TLB (R42, R43). -/
def serveMiss (s : State) (w : Walked) (m : Miss) : State :=
  m.cids.foldl (fun s cid =>
    let s1 := s.modCtx cid (walkServed (xlatOf m.page w))
    match w with
    | .leaf log2 oa attrs =>
      s1.modCore (coreOf cid) fun k =>
        tlbTouch k { asid := m.asid, va := (m.page * 65536) >>> log2, log2 := log2, oa := oa, attrs := attrs }
    | _ => s1) s

/-- A queued miss of the same address space inside a leaf's page (R34, R43). -/
def insideLeaf (w : Walked) (m x : Miss) : Bool :=
  match w with
  | .leaf log2 _ _ => x.asid == m.asid && x.root == m.root && x.page * 65536 / 2 ^ log2 == m.page * 65536 / 2 ^ log2
  | .fault .. => x == m
  | .wait => false

/-- PAGE_WALK_COMPLETE (R35 to R37, R43): a walker's walk ends; walkers hold the first thirty-two misses of the queue. A
walk whose reads must wait goes on later. -/
def execPageWalkComplete (die walker : Nat) (s : State) : Host.Outcome State Fault Refusal :=
  .next (if 32 ≤ walker then s
    else match (s.die die).missq[walker]? with
      | none => s
      | some m =>
        let (w, s1) := walk s die m.asid m.root (m.page * 65536)
        let served := (s.die die).missq.filter fun x => insideLeaf w m x
        served.foldl (fun s x => serveMiss s w x)
          (s1.modDie die fun d => { d with missq := d.missq.filter fun x => !insideLeaf w m x }))

/-! ## Format windows -/

/-- A format window of a stack's controller. -/
def fmtAt (s : State) (stk w : Nat) : FmtWin := SMap.getD (s.die (stk / 2)).fw (stk % 2 * 64 + w) {}

/-- A format window replaced. -/
def setFmt (s : State) (stk w : Nat) (x : FmtWin) : State :=
  s.modDie (stk / 2) fun d => { d with fw := SMap.put d.fw (stk % 2 * 64 + w) x }

/-- The defined fields of FWBASE. -/
def fwBaseBits (v : Nat) : Word := wd (fld v 0 1 + (fld v 4 6 <<< 4) + (fld v 16 32 <<< 16))

/-- A write to a format window's registers (R49, R51). -/
def writeFmt (s : State) (stk w off v : Nat) : State :=
  let x := fmtAt s stk w
  let en := bit x.base.toNat 0
  match off with
  | 0 =>
    if !en then setFmt s stk w { x with base := fwBaseBits v }
    else if bit v 0 ∨ x.busy.isSome then s
    else setFmt s stk w { x with busy := some (fwBaseBits v) }
  | 8 => if en then s else setFmt s stk w { x with limit := wd (fld v 0 48) }
  | 16 => if en then s else setFmt s stk w { x with scale := wd (fld v 2 46 * 4) }
  | _ => s

/-- FORMAT_WINDOW_DISABLE (R51): a write to FWBASE that clears EN. -/
def execFormatWindowDisable (stack win : Nat) (s : State) : Host.Outcome State Fault Refusal :=
  .next (writeFmt s stack win 0 (setFld (fmtAt s stack win).base.toNat 0 1 0))

/-- The lines that a window tagged, in every slice. -/
def taggedLines (s : State) (stk w : Nat) : List Nat :=
  (s.l2.map fun p => (p.2.filter fun l => match l.tag with
    | some t => t.stack == stk && t.win == w
    | none => false).map fun l => l.line).flatten

/-- FORMAT_WINDOW_DISABLE_ACK (R51): the tagged lines have left every slice, where the record stores take their records (R95).
Until then FWBASE reads as before, and then it takes every field of the write that cleared EN: DESIGN CHOICE, log entry 69. -/
def execFormatWindowDisableAck (stack win : Nat) (s : State) : Host.Outcome State Fault Refusal :=
  let x := fmtAt s stack win
  .next (match x.busy with
    | none => s
    | some v => match l2RemoveAll s (taggedLines s stack win) with
      | some s1 => setFmt s1 stack win { x with base := v, busy := none }
      | none => s)

/-! ## The supervisor start block -/

/-- A supervisor context released at a start address (R176). -/
def releaseSup (d : Die) (frozen : Bool) (c : Ctx) (pc : Nat) : Ctx :=
  if pc = 0 then c
  else { ({} : Ctx) with
    incarnation := c.incarnation, pc := pc, entry := .plain, codeBase := d.svcBase, codeLim := d.svcLim
    st := if frozen then .frozen else .ready, prev := if frozen then .ready else .idle }

/-- GO of the supervisor start block (R176): accepted once since the die's reset. -/
def supervisorGo (s : State) (die : Nat) : State :=
  let d := s.die die
  if d.svRun then s
  else
    (List.range 8).foldl (fun s i =>
      let core := supCore die (i / 4)
      let pc := d.svpc.toList.getD i 0
      s.modCtx (core * 16 + i % 4) fun c => releaseSup d (s.core core).frozen c pc)
      (s.setDie die { d with svRun := true })

/-- SUPERVISOR_GO (R176, R414): IO0's firmware, which has been checked, releases a die's supervisor contexts. -/
def execSupervisorGo (die : Nat) (s : State) : Host.Outcome State Fault Refusal :=
  .next (if s.pkg.firmware.isSome then supervisorGo s die else s)

/-- A write to the start block, ignored once its contexts run (R176). -/
def writeStart (s : State) (die off v w1 : Nat) : State :=
  let d := s.die die
  if d.svRun then s
  else if h : off < 0x40 then
    s.setDie die { d with svpc := d.svpc.set (off / 8) (fld v 0 48) (by omega) }
  else if off = 0x40 then s.setDie die { d with svcBase := fld v 0 48 }
  else if off = 0x48 then s.setDie die { d with svcLim := fld v 0 48 }
  else if off = 0x50 ∧ bit w1 0 then supervisorGo s die
  else s

end Sys2Proof.Machine
end

