-- ==== Sys2Proof/Machine/Mmio.lean ====
section
/-! DEFINITION. Device registers and debug windows as they are written, and what accesses use to reach them (R5, R9, R32, R33,
R48, R49, R54, R120, R187, R307, R318, R372, R383, R385 to R387, R395, R405, R409, R418 to R421). -/

namespace Sys2Proof.Machine
open Sys2Proof

/-! ## Compute dies. Every writer takes the register's content with the written bytes in place, and the written bits alone. -/

/-- The shadow control block (R120). -/
def writeShadow (s : State) (die off v w1 : Nat) : State :=
  let free := spillUsed s die == 0
  match off with
  | 0 => if free then s.modDie die fun d => { d with eshBase := fld v 16 32 } else s
  | 8 => if free then s.modDie die fun d => { d with eshSize := fld v 0 32 } else s
  | 16 => if bit w1 40 then s.modDie die fun d => { d with eshFull := false } else s
  | _ => s

/-- The domain table (R187). -/
def writeDomain (s : State) (die off v w1 : Nat) : State :=
  if off % 16 = 0 then writeDmctl s die (off / 16) (fld v 0 41 + (fld w1 41 4 <<< 41)) else s

/-- The error records (R307). -/
def writeMatrix (s : State) (die off w1 : Nat) : State :=
  let d := s.die die
  if off < 0x200 then
    if off % 32 = 0 ∧ bit w1 0 then
      let i := off / 32 % 16
      have h : i < 16 := Nat.mod_lt _ (by decide)
      s.setDie die { d with mxrec := d.mxrec.set i (BitVec.ofNat 256 (setFld d.mxrec[i].toNat 0 1 0)) h }
    else s
  else if off = 0x200 ∧ bit w1 4 then s.setDie die { d with mxOvf := false }
  else s

/-- A breakwater's registers (R395, R396). -/
def writeBreakwater (s : State) (die b off v w1 : Nat) : State :=
  let x := bwAt s die b
  if off = 0 then (if x.st = 0 then setBw s die b { x with rect := fld v 0 16 } else s)
  else
    let s1 := if bit w1 5 then setBw s die b { x with refused := false } else s
    match fld w1 0 2 with
    | 1 => bwFence s1 die b
    | 2 => bwReset s1 die b
    | 3 => bwRelease s1 die b
    | _ => s1

/-- The fault control block (R383, R395). -/
def writeFault (s : State) (die off v w1 : Nat) : State :=
  let used := !(s.die die).images.isEmpty
  if off < 0x40 then setRing s die (off / 0x20) (writeRing s (ringAt s die (off / 0x20)) (off % 0x20) v)
  else if off = 0x40 then s.modDie die fun d => { d with froute := fld v 0 10 + (fld v 16 1 <<< 16) }
  else if off = 0x48 then (if used then s else s.modDie die fun d => { d with svBase := fld v 16 32 })
  else if off = 0x50 then
    s.modDie die fun d => { d with svSlots := if used then d.svSlots else fld v 0 16, svEvmin := fld v 16 32 }
  else if off = 0x58 then (if bit w1 16 then s.modDie die fun d => { d with svFull := false } else s)
  else if 0x100 ≤ off ∧ off < 0x180 then writeBreakwater s die ((off - 0x100) / 16) (off % 16) v w1
  else s

/-- A bank control block (R54, R56, R68). -/
def writeBank (s : State) (bk off v w1 : Nat) : State :=
  match off with
  | 0 => writeBkmode s bk (fld v 0 3 + (fld w1 5 1 <<< 5))
  | 16 => writeBkretire s bk v w1
  | _ => s

/-- A register of a compute die written (R32). -/
def writeDie (fw : Bool) (s : State) (die off v w1 : Nat) : State :=
  if off < 0x10000 then writeTrans s die off v w1
  else if off < 0x12000 then
    let o := off % 0x1000
    if o < 0x800 then writeFmt s (2 * die + (off - 0x10000) / 0x1000) (o / 32) (o % 32) v else s
  else if 0x40000 ≤ off ∧ off < 0x50000 then writeShadow s die (off - 0x40000) v w1
  else if 0x50000 ≤ off ∧ off < 0x51000 then writeDomain s die (off - 0x50000) v w1
  else if 0x60000 ≤ off ∧ off < 0x70000 then writeMatrix s die (off - 0x60000) w1
  else if 0x70000 ≤ off ∧ off < 0x71000 then writeGroup s die ((off - 0x70000) / 64) (off % 64) w1
  else if 0x80000 ≤ off ∧ off < 0x90000 then writeFault s die (off - 0x80000) v w1
  else if 0x90000 ≤ off ∧ off < 0xA0000 then writeRedundant s die (off - 0x90000) v w1
  else if 0xC0000 ≤ off ∧ off < 0xD0000 then (if fw then writeStart s die (off - 0xC0000) v w1 else s)
  else if 0x100000 ≤ off ∧ off < 0x110000 then
    let b := off % 0x8000 / 32
    if b < 768 then writeBank s (die * 1536 + (off - 0x100000) / 0x8000 * 768 + b) (off % 32) v w1 else s
  else s

/-! ## I/O dies -/

/-- A plain register word of an I/O die written. -/
def setIoReg (s : State) (io off v : Nat) : State :=
  s.modIo io fun d => { d with regs := if v = 0 then SMap.del d.regs off else SMap.put d.regs off (wd v) }

/-- The defined fields of a window's, an inbound entry's or an endpoint's register (R33, R48, R409). -/
def ioRegBits (off v : Nat) : Option Nat :=
  if 0x20000 ≤ off ∧ off < 0x20800 then
    match off % 32 with
    | 0 => some (fld v 0 5 + (fld v 16 16 <<< 16))
    | 8 => some (fld v 12 28 <<< 12)
    | 16 => some (fld v 0 64)
    | _ => some (fld v 0 32)
  else if 0x30000 ≤ off ∧ off < 0x32000 then
    match off % 32 with
    | 0 => some (fld v 0 4 + (fld v 32 32 <<< 32))
    | 8 => some (fld v 12 36 <<< 12)
    | 16 => some (fld v 12 28 <<< 12)
    | _ => none
  else if 0x40000 ≤ off ∧ off < 0x48000 then
    match off % 32 with
    | 0 => some (fld v 0 1 + (fld v 8 8 <<< 8) + (fld v 32 32 <<< 32))
    | 8 => some (fld v 0 64)
    | _ => none
  else none

/-- A register of an I/O die written (R32). -/
def writeIo (s : State) (io off v w1 : Nat) : State :=
  match ioRegBits off v with
  | some x => setIoReg s io off x
  | none =>
    if 0x50000 ≤ off ∧ off < 0x60000 then writeQueue s io ((off - 0x50000) / 64) (off % 64) v
    else if io ≠ 0 then s
    else if 0x60000 ≤ off ∧ off < 0x70000 then writePower s (off - 0x60000) v w1
    else if 0x70000 ≤ off ∧ off < 0x71000 then writeUnit s ((off - 0x70000) / 8) w1
    else if off = 0x71000 then writeCheckpoint s v w1
    else s

/-! ## The debug window -/

/-- A control register of a context set to defined bits. DEDUCED, log entry 64. -/
def setCtl (c : Ctx) (n v : Nat) : Ctx :=
  if n = 1 then { c with round := wd v }
  else if n = 2 then { c with fpflags := wd v }
  else if n = 3 then { c with fpen := wd v }
  else if n = 4 then { c with mode := wd v }
  else if 0x10 ≤ n ∧ n ≤ 0x13 then { c with doms := c.doms.set ((n - 0x10) % 4) (wd v) (Nat.mod_lt _ (by decide)) }
  else if n = 0x20 then { c with asid := wd v }
  else if n = 0x21 then { c with troot := wd v }
  else c

/-- A write to c.troot: the core's translations of the context's address space are from the old tables, and go (R34). -/
def newRoot (s : State) (cid n : Nat) : State :=
  if n = 0x21 then
    let a := fld (s.ctx cid).asid.toNat 0 16
    s.modCore (coreOf cid) fun c => { c with tlb := c.tlb.filter fun e => e.asid != a }
  else s

/-- A control register written through the window: reserved bits are ignored, and PHASE of a domain register stays (R186,
R387). -/
def windowCtl (c : Ctx) (n v : Nat) : Ctx :=
  match ctlBits n v with
  | none => c
  | some x => setCtl c n (if 0x10 ≤ n ∧ n ≤ 0x13 then x + (b2n ((c.dom (n - 0x0F)).getLsbD 63) <<< 63) else x)

/-- 64 bits of a wider value replaced at a byte offset. -/
def putWord64 (x off v : Nat) : Nat := setFld x (8 * off) 64 v

/-- A register of a context written through the window while its block is open (R386, R387). -/
def windowReg (c : Ctx) (o v : Nat) : Ctx :=
  if 0x100 ≤ o ∧ o < 0x300 then c.setS (BitVec.ofNat 6 ((o - 0x100) / 8)) (wd v)
  else if 0x800 ≤ o ∧ o < 0x1000 then windowCtl c ((o - 0x800) / 8) v
  else if 0x1000 ≤ o ∧ o < 0x1400 then
    let r : MReg := BitVec.ofNat 3 ((o - 0x1000) / 128)
    c.setM r (BitVec.ofNat 1024 (putWord64 (c.getM r).toNat (o % 128) v))
  else if 0x2000 ≤ o ∧ o < 0x2600 then
    let i := (o - 0x2000) / 512 % 3
    have h : i < 3 := Nat.mod_lt _ (by decide)
    { c with replay := c.replay.set i (BitVec.ofNat 4096 (putWord64 c.replay[i].toNat (o % 512) v)) h }
  else if 0x4000 ≤ o ∧ o < 0x8000 then
    let r : VReg := BitVec.ofNat 5 ((o - 0x4000) / 512)
    c.setV r (BitVec.ofNat 4096 (putWord64 (c.getV r).toNat (o % 512) v))
  else c

/-- DWPC (R387, R394). -/
def windowPc (s : State) (cid v : Nat) : State :=
  let bound := (s.ctx cid).st == .idle && (s.die (dieOf cid)).images.any fun m => m.cid == cid
  if blockOpen s cid || bound then writeDwpc s cid v else s

/-- DWST (R386, R389, R390): EVICT asks for a blocked context, whose core runs. -/
def windowSt (s : State) (cid w1 : Nat) : State :=
  let s1 := if bit w1 13 && blockOpen s cid then unpark s cid else s
  if bit w1 14 then evict s1 cid else s1

/-- Two words of an accumulator slice written while the core is frozen (R387). -/
def windowAcc (c : Core) (a k v : Nat) : Core :=
  have h : a % 4 < 4 := Nat.mod_lt _ (by decide)
  let x := c.acc[a % 4]
  let ws := SMap.put (SMap.put x.words k (BitVec.ofNat 32 v)) (k + 1) (BitVec.ofNat 32 (v >>> 32))
  if c.frozen then { c with acc := c.acc.set (a % 4) { x with words := ws } h } else c

/-- A word of a debug window written. -/
def writeDbg (s : State) (a v w1 : Nat) : State :=
  let core := dbgCore a
  let off := fld a 0 20
  if 0x60000 ≤ off ∧ off < 0x80000 then
    s.modCore core fun c => windowAcc c ((off - 0x60000) / 0x8000) ((off - 0x60000) % 0x8000 / 4) v
  else if 0x10000 ≤ off ∧ off < 0x50000 then
    let cid := core * 16 + (off / 0x10000 - 1)
    let o := off % 0x10000
    if o = 0 then windowPc s cid v
    else if o = 8 then windowSt s cid w1
    else if blockOpen s cid then
      (newRoot s cid (if 0x800 ≤ o then (o - 0x800) / 8 else 0)).modCtx cid fun c => windowReg c o v
    else s
  else s

/-! ## Writes -/

/-- A register word written: the content with the written bytes in place, and the written bits alone. -/
def writeWord (fw : Bool) (s : State) (a v w1 : Nat) : State :=
  if regionOf a = 3 then writeDbg s a v w1
  else
    let u := fld a 36 4
    if u < 12 then writeDie fw s u (fld a 0 36) v w1 else if u < 14 then writeIo s (u - 12) (fld a 0 36) v w1 else s

/-- Bytes written to registers, word by word: an access narrower than a register, or one that lies across two, merges its bytes
into what the words read as; the spec gives no rule for it. The fuel is the number of words. DESIGN CHOICE, log entry 70. -/
def writeRegs (fw : Bool) : Nat → State → Nat → List Byte → State
  | 0, s, _, _ => s
  | f + 1, s, a, bs =>
    if bs.isEmpty then s
    else
      let o := a % 8
      let n := min (8 - o) bs.length
      let old := regWord fw s (a - o)
      let w1 := bytesToNat (bs.take n) <<< (8 * o)
      writeRegs fw f (writeWord fw s (a - o) (setFld old (8 * o) (8 * n) (bytesToNat (bs.take n))) w1) (a + n) (bs.drop n)

/-- What reads and writes device registers and debug windows for the accesses of contexts. -/
def mmioOps : IoOps :=
  { rd := fun s a n => (regBytes false s a n, s), wr := fun s a bs => writeRegs false (bs.length + 1) s a bs }

/-- REGISTER_WRITE (R9): a write of size bytes by the firmware or the external debugger. -/
def execRegisterWrite (pa size val : Nat) (s : State) : Host.Outcome State Fault Refusal :=
  .next (if validDev pa || validDbg pa then writeRegs true (size + 1) s pa (natToBytes size val) else s)

end Sys2Proof.Machine
end

