-- ==== Sys2Proof/Machine/MemInstr.lean ====
section
/-! DEFINITION. Scalar and vector loads and stores, gather and scatter, tile instructions and cache maintenance (R240 to
R249). -/

namespace Sys2Proof.Machine
open Sys2Proof

/-! ## Scalars -/

/-- The bytes of a scalar memory operand, for the types that scalar memory instructions take (R211). -/
def scalarBytes : ElemType → Option Nat
  | .s8 | .u8 => some 1
  | .s16 | .u16 => some 2
  | .s32 | .u32 => some 4
  | .s64 | .u64 => some 8
  | .s4 | .u4 | .e4m3 | .bf16 | .fp16 | .fp32 => none

/-- LD (R242). -/
def execLd (la : BitVec 4) (ty : ElemType) (dst base : SReg) (imm : BitVec 32) (req : ReqType) (scope : Scope)
    (ord : Order) (s : State) : Host.Outcome State Fault Refusal :=
  runLong s la [.s dst] (match scalarBytes ty with
    | none => .error illegal
    | some n => do
      let (bss, s1) ← loadElems mmioOps s s.cur req [{ idx := 0, va := addrOf (s.rs base) imm, n := n }]
        (.remote dst.toNat false ty.code.toNat)
      let s2 ← if orderAcquires ord then acquire s1 scope else .ok s1
      .ok (s2, [.s dst (extendElem ty (bytesToNat bss.flatten))]))

/-- ST (R242). -/
def execSt (ty : ElemType) (base data : SReg) (imm : BitVec 32) (req : ReqType) (scope : Scope) (ord : Order)
    (s : State) : Host.Outcome State Fault Refusal :=
  run s (match scalarBytes ty with
    | none => .error illegal
    | some n =>
      let e : Elem := { idx := 0, va := addrOf (s.rs base) imm, n := n }
      do
        let s1 ← if orderReleases ord then
            releaseFirst s scope fun s => (checkStore s s.cur .store req (req != ReqType.unc) e).map fun _ => ()
          else .ok s
        storeElems mmioOps s1 s1.cur req [(e, natToBytes n (s.rs data).toNat)])

/-! ## Vectors -/

/-- The accesses of the active elements, in ascending order (R241). -/
def activeElems : Nat → List Bool → (Nat → Nat) → Nat → List Elem
  | _, [], _, _ => []
  | i, b :: bs, f, n =>
    if b then { idx := i, va := f i, n := n } :: activeElems (i + 1) bs f n else activeElems (i + 1) bs f n

/-- The results of the active elements put in the places of those elements, 0 elsewhere. -/
def spread : List Bool → List Nat → List Nat
  | [], _ => []
  | true :: bs, x :: xs => x :: spread bs xs
  | true :: bs, [] => 0 :: spread bs []
  | false :: bs, xs => 0 :: spread bs xs

/-- The address of element i of a contiguous access; 4-bit elements lie two to a byte (R152, R243). -/
def contigAddr (t : ElemType) (va i : Nat) : Nat := (va + if t.width = 4 then i / 2 else i * (t.width / 8)) % 2 ^ 64

/-- An address displaced by i strides, wrapped to 64 bits (R243). -/
def strideAddr (va : Nat) (stride : Word) (i : Nat) : Nat := (wd va + wd i * stride).toNat

/-- The bytes of an element's access. -/
def elemBytes (t : ElemType) : Nat := if t.width = 4 then 1 else t.width / 8

/-- An element's value from the bytes of its access: 4-bit elements from their half (R152). -/
def elemValue (t : ElemType) (i : Nat) (bs : List Byte) : Nat :=
  if t.width = 4 then bytesToNat bs / 16 ^ (i % 2) % 16 else bytesToNat bs

/-- A vector load: active elements loaded, the others kept or zeroed (R243). -/
def vecLoad (s : State) (la : BitVec 4) (t : ElemType) (dst : VReg) (bs : List Bool) (z : Bool) (req : ReqType)
    (ok : Bool) (addr : Nat → Nat) (pre : State → Res State) : Host.Outcome State Fault Refusal :=
  runLong s la [.v dst] (if !ok then .error illegal else do
    let s0 ← pre s
    let es := activeElems 0 bs addr (elemBytes t)
    let (bss, s1) ← loadElems mmioOps s0 s.cur req es (.remote dst.toNat true t.code.toNat)
    let xs := (es.zip bss).map fun p => elemValue t p.1.idx p.2
    .ok (s1, [.v dst (vOf t (mergeElems z bs (vElems t (s.rv dst)) (spread bs xs)))]))

/-- The alignment of LDV and STV (R243). -/
def contigOk (t : ElemType) (va : Nat) : Bool :=
  vecType t && (if t.width ≤ 8 then va % 64 == 0 else va % (t.width / 8) == 0)

/-- The alignment of LDVS and STVS (R243). -/
def stridedOk (t : ElemType) (va : Nat) (stride : Word) : Bool :=
  vecType t && t.width != 4 && va % (t.width / 8) == 0 && stride.toNat % (t.width / 8) == 0

/-- LDV (R243). -/
def execLdv (la : BitVec 4) (ty : ElemType) (dst : VReg) (base : SReg) (imm : BitVec 32) (mask : BitVec 3) (z : Bool)
    (req : ReqType) (s : State) : Host.Outcome State Fault Refusal :=
  let va := addrOf (s.rs base) imm
  vecLoad s la ty dst (actives s ty mask) z req (contigOk ty va) (contigAddr ty va) .ok

/-- LDVS (R243, R244): with a stride of zero the element is read once. -/
def execLdvs (la : BitVec 4) (ty : ElemType) (dst : VReg) (base stride : SReg) (imm : BitVec 32) (mask : BitVec 3)
    (z : Bool) (req : ReqType) (s : State) : Host.Outcome State Fault Refusal :=
  let va := addrOf (s.rs base) imm
  let d := s.rs stride
  let bs := actives s ty mask
  if d = 0#64 then
    runLong s la [.v dst] (if !stridedOk ty va d then .error illegal else do
      let es := (activeElems 0 bs (fun _ => va) (elemBytes ty)).take 1
      let (bss, s1) ← loadElems mmioOps s s.cur req es (.remote dst.toNat true ty.code.toNat)
      let x := bytesToNat bss.flatten
      .ok (s1, [.v dst (vMerge s ty dst mask z (bs.map fun _ => x))]))
  else vecLoad s la ty dst bs z req (stridedOk ty va d) (strideAddr va d) .ok

/-- A byte of two 4-bit elements to be stored: which halves are active, and their values. -/
structure Nibbles where
  lo : Bool
  hi : Bool
  x : Nat
  y : Nat

/-- The bytes of a vector of 4-bit elements that hold an active element (R152, R243). -/
def nibbleElems (va : Nat) : Nat → List Bool → List Nat → List (Elem × Nibbles)
  | i, b :: c :: bs, x :: y :: xs =>
    let r := nibbleElems va (i + 2) bs xs
    if b || c then
      ({ idx := if b then i else i + 1, va := (va + i / 2) % 2 ^ 64, n := 1 }, { lo := b, hi := c, x := x, y := y }) :: r
    else r
  | _, _, _ => []

/-- The byte that is stored for two 4-bit elements: the half that is not active keeps what its place holds, which is a free
value behind a network window (R152, R243). DEDUCED, log entry 21. -/
def nibbleByte (cid : Nat) (s : State) (z : Nibbles) (ps : List Part) : List Byte × State :=
  let (old, s1) := if z.lo && z.hi then ([], s)
    else match ps with
      | p :: _ => (match p.loc with
        | .net _ _ => drawBytes s 1
        | .dev a | .dbg a => mmioOps.rd s a 1
        | _ => (peekPart s cid p, s))
      | [] => ([], s)
  let o := bytesToNat old
  ([BitVec.ofNat 8 ((if z.lo then z.x % 16 else o % 16) + 16 * (if z.hi then z.y % 16 else o / 16))], s1)

/-- A vector store of the active elements (R243). -/
def vecStore (s : State) (t : ElemType) (data : VReg) (bs : List Bool) (req : ReqType) (ok : Bool) (va : Nat)
    (addr : Nat → Nat) (pre : State → Res State) : Host.Outcome State Fault Refusal :=
  run s (if !ok then .error illegal else do
    let s0 ← pre s
    let xs := vElems t (s.rv data)
    if t.width = 4 then storeWith mmioOps s0 s.cur req (nibbleElems va 0 bs xs) (nibbleByte s.cur)
    else
      let es := activeElems 0 bs addr (elemBytes t)
      storeElems mmioOps s0 s.cur req (es.map fun e => (e, natToBytes e.n (xs.getD e.idx 0))))

/-- STV (R243). -/
def execStv (ty : ElemType) (base : SReg) (data : VReg) (imm : BitVec 32) (mask : BitVec 3) (req : ReqType)
    (s : State) : Host.Outcome State Fault Refusal :=
  let va := addrOf (s.rs base) imm
  vecStore s ty data (actives s ty mask) req (contigOk ty va) va (contigAddr ty va) .ok

/-- STVS (R243, R244). -/
def execStvs (ty : ElemType) (base : SReg) (data : VReg) (stride : SReg) (imm : BitVec 32) (mask : BitVec 3)
    (req : ReqType) (s : State) : Host.Outcome State Fault Refusal :=
  let va := addrOf (s.rs base) imm
  vecStore s ty data (actives s ty mask) req (stridedOk ty va (s.rs stride)) va (strideAddr va (s.rs stride)) .ok

/-! ## Gather and scatter -/

/-- The operands that GATH and SCAT accept: a data type of codes 2 to 11, an extent from 1 to 2^32 − 1, an aligned address
(R245). -/
def gatherOk (t : ElemType) (va : Nat) (extent : Word) : Bool :=
  vecType t && t.width != 4 && extent != 0#64 && decide (extent.toNat < 2 ^ 32) && va % (t.width / 8) == 0

/-- The address of a lane (R245). -/
def laneAddr (t : ElemType) (va extent : Nat) (idx : List Nat) (i : Nat) : Nat :=
  (va + idx.getD i 0 % extent * (t.width / 8)) % 2 ^ 64

/-- The activity of the 128 lanes, and none for elements above them (R245). -/
def laneActives (s : State) (t : ElemType) (mask : BitVec 3) : List Bool :=
  maskBits 128 (maskOf s mask) ++ List.replicate (t.count - 128) false

/-- GATH (R245). -/
def execGath (la : BitVec 4) (ty : ElemType) (dst : VReg) (base : SReg) (idx : VReg) (extent : SReg) (imm : BitVec 32)
    (mask : BitVec 3) (z : Bool) (req : ReqType) (s : State) : Host.Outcome State Fault Refusal :=
  let va := addrOf (s.rs base) imm
  vecLoad s la ty dst (laneActives s ty mask) z req (gatherOk ty va (s.rs extent))
    (laneAddr ty va (s.rs extent).toNat (vElems .u32 (s.rv idx))) .ok

/-- SCAT (R245). -/
def execScat (ty : ElemType) (base : SReg) (idx : VReg) (data : VReg) (extent : SReg) (imm : BitVec 32) (mask : BitVec 3)
    (req : ReqType) (s : State) : Host.Outcome State Fault Refusal :=
  let va := addrOf (s.rs base) imm
  vecStore s ty data (laneActives s ty mask) req (gatherOk ty va (s.rs extent)) va
    (laneAddr ty va (s.rs extent).toNat (vElems .u32 (s.rv idx))) .ok

/-! ## Tiles -/

/-- The parts of a range, as far as they translate: a part whose translation faults names no place. -/
def rangeParts (s : State) (k : AccKind) (va n : Nat) : Res (List (Option Part) × State) :=
  (chunks va n).foldlM (fun (acc : List (Option Part) × State) c =>
    match translateElem acc.2 acc.2.cur k .own { idx := 0, va := c.1, n := c.2 } with
    | .ok (ps, s1) => .ok (acc.1 ++ ps.map some, s1)
    | .error (.stall s1) => .error (.stall s1)
    | .error _ => .ok (acc.1 ++ [none], acc.2)) ([], s)

/-- All 512 bytes of an access lie in one declared tile (R247), once its active elements have translated. The fault names the
lowest-numbered active element (R241). -/
def wholeTile (s : State) (t : ElemType) (bs : List Bool) (va : Nat) (k : AccKind) : Res State := do
  let es := activeElems 0 bs (contigAddr t va) (elemBytes t)
  let (_, s1) ← checkAll s es fun s e => translateElem s s.cur k .own e
  let i := (es.head?.map fun e => e.idx).getD 0
  let (ps, s2) ← rangeParts s1 k va 512
  match ps with
  | some { loc := .vault a, .. } :: _ =>
    let inOrder := ps.all fun p => match p with | some p => p.loc == .vault (a + (p.va - va)) | none => false
    match tilePlace s2 a 512 with
    | .inTile e => if inOrder then .ok s2 else .error (tileTrap a i e 1)
    | _ => .error (tileTrap a i ((tilesTouched s2 (vaultNo a) (vaultOff a) 512).headD 0) 1)
  | _ => .error (tileTrap va i 0 1)

/-- LDT (R247). -/
def execLdt (la : BitVec 4) (ty : ElemType) (dst : VReg) (base : SReg) (imm : BitVec 32) (mask : BitVec 3) (z : Bool)
    (s : State) : Host.Outcome State Fault Refusal :=
  let va := addrOf (s.rs base) imm
  vecLoad s la ty dst (actives s ty mask) z .own (contigOk ty va) (contigAddr ty va) fun s' => wholeTile s' ty (actives s ty mask) va .load

/-- STT (R247). -/
def execStt (ty : ElemType) (base : SReg) (data : VReg) (imm : BitVec 32) (mask : BitVec 3) (s : State) :
    Host.Outcome State Fault Refusal :=
  let va := addrOf (s.rs base) imm
  vecStore s ty data (actives s ty mask) .own (contigOk ty va) va (contigAddr ty va) fun s' => wholeTile s' ty (actives s ty mask) va .store

/-- The vault address that a management form names; any other place is illegal (R247). -/
def tileVault (s : State) (va : Nat) : Res (Nat × State) := do
  let (p, s1) ← translateAs s s.cur .load none va 1 0
  match p.loc with
  | .vault a => do
    letIn s1 s.cur .load p.loc va 0
    .ok (a, s1)
  | _ => .error illegal

/-- TDECL (R78, R247): the operand checks come first. -/
def execTdecl (base size : SReg) (mode : BitVec 2) (e : BitVec 7) (s : State) : Host.Outcome State Fault Refusal :=
  run s (if mode = 0#2 then .error illegal else do
    let va := (s.rs base).toNat
    let (a, s1) ← tileVault s va
    let v := vaultNo a
    let off := vaultOff a
    let n := (s.rs size).toNat
    illegalIf (off % 64 != 0 || n == 0 || n % 64 != 0 || decide (vaultSize < off + n))
    let t := s1.tile (v * 128 + e.toNat)
    if t.st != .free || !(tilesTouched s1 v off n).isEmpty then .error (tileTrap a 0 e.toNat 2)
    else .ok (changeTile s1 v e.toNat
      { st := .empty, w := bit mode.toNat 1, f := bit mode.toNat 0, base := off, size := n }))

/-- The entry's 128 bits written to a register pair (R247). -/
def tileResult (s : State) (dst : SReg) (k : Nat) : State :=
  let b := (s.tile k).bits
  (s.setS dst (wd b)).setS (dst + 1#6) (wd (b / 2 ^ 64))

/-- TSTATE in its read form (R247). -/
def execTstateRead (dst base : SReg) (e : BitVec 7) (s : State) : Host.Outcome State Fault Refusal :=
  run s (if dst.toNat % 2 = 1 then .error illegal else do
    let (a, s1) ← tileVault s (s.rs base).toNat
    .ok (tileResult s1 dst (vaultNo a * 128 + e.toNat)))

/-- An event that an instruction causes on a tile entry as a release at die scope (R248). -/
def tileManage (s : State) (va : Nat) (e : BitVec 7) (ev : TileEv) : Res (Nat × State) := do
  let (a, s0) ← tileVault s va
  let s1 ← releaseFirst s0 .die fun s => (tileEvent s (vaultNo a) e.toNat ev false a 0).map fun _ => ()
  let s2 ← tileEvent s1 (vaultNo a) e.toNat ev false a 0
  .ok (vaultNo a * 128 + e.toNat, s2)

/-- A form of TSTATE that changes the entry and returns it as it then stands (R247). -/
def tstateForm (s : State) (dst base : SReg) (e : BitVec 7) (ev : TileEv) : Host.Outcome State Fault Refusal :=
  run s (if dst.toNat % 2 = 1 then .error illegal else do
    let (k, s1) ← tileManage s (s.rs base).toNat e ev
    .ok (tileResult s1 dst k))

/-- TSTATE in its fill form (R247). -/
def execTstateArm (dst base n : SReg) (e : BitVec 7) (s : State) : Host.Outcome State Fault Refusal :=
  tstateForm s dst base e (.arm (s.rs n).toNat)
/-- TSTATE in its ready form (R247). -/
def execTstateReady (dst base : SReg) (e : BitVec 7) (s : State) : Host.Outcome State Fault Refusal :=
  tstateForm s dst base e .markReady
/-- TSTATE in its empty form (R247). -/
def execTstateEmpty (dst base : SReg) (e : BitVec 7) (s : State) : Host.Outcome State Fault Refusal :=
  tstateForm s dst base e .markEmpty
/-- TFREE (R247). -/
def execTfree (base : SReg) (e : BitVec 7) (s : State) : Host.Outcome State Fault Refusal :=
  run s ((tileManage s (s.rs base).toNat e .free).map fun r => r.2)

/-! ## Cache maintenance -/

/-- The DRAM that a piece of a range names, by region-form address, or none for bytes that are skipped (R249): checked by
steps 1 to 3 and 8 of R38 as a load. -/
def rangePiece (s : State) (va : Nat) : Res (Option Nat × State) :=
  let cid := s.cur
  let place := fun (pa : Nat) (s : State) =>
    match physLoc s pa with
    | none => .error (.trap { code := 7, addr := va })
    | some (.dram _) => .ok (some pa, s)
    | some _ => .ok (none, s)
  if 2 ^ 48 ≤ va then .error (.trap { code := 1, addr := va })
  else if fld va 40 8 = 0xFF then .ok (none, s)
  else if untranslated s cid then place va s
  else do
    let (x, s1) ← lookupPage s cid va
    if !x.ok then .error (.trap { code := x.code, addr := va, info := if x.code = 3 then x.ent else 0, sub := x.level })
    else do
      checkPage .load (sysEnabled cid) x.attrs va 0
      place (x.oa + va % 65536) s1

/-- The DRAM pieces of a range. -/
def rangePieces (s : State) (va n : Nat) : Res (List (Nat × Nat) × State) :=
  (pagePieces va n).foldlM (fun (acc, s) p => do
    let (r, s1) ← rangePiece s p.1
    .ok (match r with | some pa => acc ++ [(pa, p.2)] | none => acc, s1)) ([], s)

/-- Whether n bytes at a bank-local address touch one of the pieces of a range. -/
def inPieces (ps : List (Nat × Nat)) (a n : Nat) : Bool :=
  ps.any fun p => match nameIn (regionOf p.1) a with
    | some x => decide (x < p.1 + p.2) && decide (p.1 < x + n)
    | none => false

/-- The posted requests to the sectors of a range performed: an instruction of cache maintenance completes once they all are (R91,
R95, R249). -/
def rangeHome (s : State) (ps : List (Nat × Nat)) : Res State :=
  let mine := fun (s : State) => s.homeq.filter fun r => inPieces ps (r.sector * 64) 64
  let s1 := (mine s).foldl (fun s r => serveHome s r.sector) s
  if (mine s1).isEmpty then .ok s1 else .error (.stall s1)

/-- CINV (R249): the sectors are dropped, and written bytes go home first. -/
def execCinv (base len : SReg) (imm : BitVec 32) (s : State) : Host.Outcome State Fault Refusal :=
  run s (do
    let (ps, s1) ← rangePieces s (addrOf (s.rs base) imm) (s.rs len).toNat
    let core := coreOf s.cur
    let mine := (sectorsIn (s1.core core) fun x => x.st != .i).filter fun x => inPieces ps (x * 64) 64
    let s2 := mine.foldl (fun s x => modSector (flushV s core x) x fun k y => if k = core then {} else y) s1
    let s3 ← tidalSend s2 core fun t => inPieces ps (t.sector * 64) 64
    rangeHome s3 ps)

/-- CINV.I (R249): lines of the gang's instruction cache; a length of 0 names the whole cache. -/
def execCinvI (base len : SReg) (imm : BitVec 32) (s : State) : Host.Outcome State Fault Refusal :=
  run s (if (s.rs len) = 0#64 then .ok (if isSup s.cur then s else s.modGang (gangOf s.cur) fun g => { g with icache := [] })
    else do
      let (ps, s1) ← rangePieces s (addrOf (s.rs base) imm) (s.rs len).toNat
      .ok (if isSup s.cur then s1
        else s1.modGang (gangOf s.cur) fun g => { g with icache := g.icache.filter fun l => !inPieces ps l.1 64 }))

/-- CFLUSH (R249): every dirty byte of the range reaches DRAM, and the copies stay, clean. -/
def execCflush (base len : SReg) (imm : BitVec 32) (s : State) : Host.Outcome State Fault Refusal :=
  run s (do
    let (ps, s1) ← rangePieces s (addrOf (s.rs base) imm) (s.rs len).toNat
    let core := coreOf s.cur
    let mine := (sectorsIn (s1.core core) fun x => x.st != .i).filter fun x => inPieces ps (x * 64) 64
    let s2 := mine.foldl (fun s x => modSector (flushV s core x) x fun k y =>
      if k = core ∧ y.st = .m then { y with st := .e } else y) s1
    let s3 ← tidalSend s2 core fun t => inPieces ps (t.sector * 64) 64
    let s4 ← rangeHome s3 ps
    .ok { s4 with l2 := s4.l2.map fun kv =>
      (kv.1, kv.2.map fun l => if inPieces ps (l.line * 256) 256 then { l with dirty := false } else l) })

end Sys2Proof.Machine
end

