-- ==== Sys2Proof/Machine/Atomic.lean ====
section
/-! DEFINITION. Atomics at their home, absmax cells and accumulating scatters (R93, R109, R246, R250, R251). -/

namespace Sys2Proof.Machine
open Sys2Proof

/-! ## At the home -/

/-- An atomic as its home performs it: the name and operand bytes that a remote target is sent (R33, R117), and the new
bytes from the old, or none for a read alone. The minor opcode is that of major 0x40, or 0x102 for the add of SCAT.ACC. -/
structure Update where
  op : RemoteOp
  operands : List Byte
  new : List Byte → Option (List Byte)

/-- A read that is performed as an atomic at its home (R253). -/
def Update.read : Update := { op := { minor := 0, ty := .u64 }, operands := [], new := fun _ => none }

/-- A DRAM sector made ready for an atomic of a context at its home: posted and own written bytes merged, the owner
recalled, every S and W copy and the requester's own copy dropped, and the line allocated unless the request is UNC (R91,
R93). -/
def atomicHome (s : State) (cid : Nat) (req : ReqType) (sector : Nat) : Res State := do
  let s1 ← atHome s sector
  let s2 ← ownHome s1 (coreOf cid) sector
  let s3 := setCopy (dropCopies s2 none sector) (coreOf cid) sector {}
  if req = .unc then .ok (l2Refresh s3 (sector / 4)) else wantLine s3 (sector / 4) true

/-- The bytes that an atomic finds at the home of its part, read through their code (R93, R399, R400). -/
def atomicOld (s : State) (cid : Nat) (req : ReqType) (p : Part) : Res (List Byte × State) :=
  match p.loc with
  | .dram a => do
    let s1 ← atomicHome s cid req (a / 64)
    let s2 ← readPart s1 p a
    .ok (s2.mem.readN a p.len, s2)
  | .vault a => do
    let s1 ← atHome s (a / 64)
    let s2 ← readPart s1 p a
    .ok (s2.mem.readN a p.len, s2)
  | .net _ _ => .ok (drawBytes s p.len)
  | .dev _ | .dbg _ => .error illegal

/-- An atomic performed on one part: the old bytes (R93, R250). One of any type, UNC too, closes the bytes of other contexts'
records that it covers and opens none (R111, R113): for UNC, DESIGN CHOICE, log entry 23. One that writes nothing, a BARW or a CAS
that does not match, places no entry in the FIFO (R96): DESIGN CHOICE, log entry 83. -/
def atomicPart (s : State) (cid : Nat) (req : ReqType) (p : Part) (u : Update) : Res (List Byte × State) := do
  let (old, s1) ← atomicOld s cid req p
  match p.loc with
  | .net w off =>
    (fifoPush { s1 with netOut := s1.netOut ++ [.atomic (remoteOf s1 w off) u.op u.operands] } cid (2 ^ 60 + w) .unc).map
      fun s2 => (old, s2)
  | .dram a | .vault a =>
    match u.new old with
    | none => .ok (old, s1)
    | some new =>
      let m := byteMask a p.len
      let s2 := storeHome s1 (a / 64) m (sectorBytes (a % 64) new)
      (fifoPush (raceWrite s2 cid (a / 64) m false) cid (a / 64) req).map fun s3 => (old, s3)
  | .dev _ | .dbg _ => .error illegal

/-- Whether an atomic would write, which decides whether it makes its release (R250): found at its home; one through a window
is taken to write. -/
def atomicWrites (s : State) (cid : Nat) (req : ReqType) (p : Part) (u : Update) : Res (Bool × State) :=
  match p.loc with
  | .net _ _ => .ok (true, s)
  | _ => do
    let (old, s1) ← atomicOld s cid req p
    .ok ((u.new old).isSome, s1)

/-- An atomic of the current context on one aligned location: its checks, its release, its effect and its acquire (R106,
R250). The release is not made where the operation would only read (R250). -/
def atomicAt (s : State) (req : ReqType) (scope : Scope) (ord : Order) (e : Elem) (u : Update) :
    Res (List Byte × State) := do
  let (ps, s0) ← checkStore s s.cur .atomic req true e
  stallIf (fifoFull s0 s.cur || typeWaits s0 s.cur req ps) s0
  let p := ps.headD { va := e.va, len := 0, elem := 0, loc := .dev 0, tide := false }
  let s1 ← if !orderReleases ord then .ok s0
    else if s.me.mid != .none then release s0 scope
    else do
      let (w, s1) ← atomicWrites s0 s.cur req p u
      if w then release s1 scope else .ok s1
  let (_, s2) ← checkStore s1 s.cur .atomic req true e
  let (old, s3) ← retryWhole s2 (atomicPart s2 s.cur req p u)
  let s4 ← if orderAcquires ord then acquire s3 scope else .ok s3
  .ok (old, s4)

/-! ## AMO and CAS -/

/-- The bytes of an atomic's type: 4 or 8 (R250). -/
def atomicBytes : ElemType → Option Nat
  | .s32 | .u32 => some 4
  | .s64 | .u64 => some 8
  | .s4 | .u4 | .s8 | .u8 | .s16 | .u16 | .e4m3 | .bf16 | .fp16 | .fp32 => none

/-- The operations of AMO (R250). -/
inductive AmoOp where
  | add | min | max | and | or | xor | swap
  deriving DecidableEq, Repr

/-- The new value of an AMO from the old one and the operand, at the type's width (R250). -/
def amoValue (op : AmoOp) (t : ElemType) (old b : Nat) : Nat :=
  let b := b % 2 ^ t.width
  match op with
  | .add => (old + b) % 2 ^ t.width
  | .min => if intOf t old ≤ intOf t b then old else b
  | .max => if intOf t old ≤ intOf t b then b else old
  | .and => old &&& b
  | .or => old ||| b
  | .xor => old ^^^ b
  | .swap => b

/-- An atomic of AMO or CAS, whose update works on numbers of the type's width (R250). DEDUCED, log entry 20. -/
def amoInstr (s : State) (la : BitVec 4) (ty : ElemType) (dst base : SReg) (imm : BitVec 32) (req : ReqType)
    (scope : Scope) (ord : Order) (minor : Nat) (xs : List Nat) (f : Nat → Option Nat) : Host.Outcome State Fault Refusal :=
  let va := addrOf (s.rs base) imm
  runLong s la [.s dst] (match atomicBytes ty with
    | none => .error illegal
    | some n =>
      if va % n ≠ 0 then .error illegal
      else do
        let (old, s1) ← atomicAt s req scope ord { idx := 0, va := va, n := n }
          { op := { minor := minor, ty := ty }, operands := (xs.map fun x => natToBytes n x).flatten,
            new := fun bs => (f (bytesToNat bs)).map fun x => natToBytes n x }
        .ok (s1, [.s dst (extendElem ty (bytesToNat old))]))

/-- AMO.ADD (R250). -/
def execAmoAdd (la : BitVec 4) (ty : ElemType) (dst base b : SReg) (imm : BitVec 32) (req : ReqType) (scope : Scope)
    (ord : Order) (s : State) : Host.Outcome State Fault Refusal :=
  amoInstr s la ty dst base imm req scope ord 1 [(s.rs b).toNat] fun x =>
    some (amoValue .add ty x (s.rs b).toNat)
/-- AMO.MIN (R250). -/
def execAmoMin (la : BitVec 4) (ty : ElemType) (dst base b : SReg) (imm : BitVec 32) (req : ReqType) (scope : Scope)
    (ord : Order) (s : State) : Host.Outcome State Fault Refusal :=
  amoInstr s la ty dst base imm req scope ord 2 [(s.rs b).toNat] fun x =>
    some (amoValue .min ty x (s.rs b).toNat)
/-- AMO.MAX (R250). -/
def execAmoMax (la : BitVec 4) (ty : ElemType) (dst base b : SReg) (imm : BitVec 32) (req : ReqType) (scope : Scope)
    (ord : Order) (s : State) : Host.Outcome State Fault Refusal :=
  amoInstr s la ty dst base imm req scope ord 3 [(s.rs b).toNat] fun x =>
    some (amoValue .max ty x (s.rs b).toNat)
/-- AMO.AND (R250). -/
def execAmoAnd (la : BitVec 4) (ty : ElemType) (dst base b : SReg) (imm : BitVec 32) (req : ReqType) (scope : Scope)
    (ord : Order) (s : State) : Host.Outcome State Fault Refusal :=
  amoInstr s la ty dst base imm req scope ord 4 [(s.rs b).toNat] fun x =>
    some (amoValue .and ty x (s.rs b).toNat)
/-- AMO.OR (R250). -/
def execAmoOr (la : BitVec 4) (ty : ElemType) (dst base b : SReg) (imm : BitVec 32) (req : ReqType) (scope : Scope)
    (ord : Order) (s : State) : Host.Outcome State Fault Refusal :=
  amoInstr s la ty dst base imm req scope ord 5 [(s.rs b).toNat] fun x =>
    some (amoValue .or ty x (s.rs b).toNat)
/-- AMO.XOR (R250). -/
def execAmoXor (la : BitVec 4) (ty : ElemType) (dst base b : SReg) (imm : BitVec 32) (req : ReqType) (scope : Scope)
    (ord : Order) (s : State) : Host.Outcome State Fault Refusal :=
  amoInstr s la ty dst base imm req scope ord 6 [(s.rs b).toNat] fun x =>
    some (amoValue .xor ty x (s.rs b).toNat)
/-- AMO.SWAP (R250). -/
def execAmoSwap (la : BitVec 4) (ty : ElemType) (dst base b : SReg) (imm : BitVec 32) (req : ReqType) (scope : Scope)
    (ord : Order) (s : State) : Host.Outcome State Fault Refusal :=
  amoInstr s la ty dst base imm req scope ord 7 [(s.rs b).toNat] fun x =>
    some (amoValue .swap ty x (s.rs b).toNat)

/-- CAS (R250): a comparison that fails only reads. -/
def execCas (la : BitVec 4) (ty : ElemType) (dst base b c : SReg) (imm : BitVec 32) (req : ReqType) (scope : Scope)
    (ord : Order) (s : State) : Host.Outcome State Fault Refusal :=
  amoInstr s la ty dst base imm req scope ord 8 [(s.rs b).toNat, (s.rs c).toNat] fun x =>
    if x = lowElem ty (s.rs b) then some (lowElem ty (s.rs c)) else none

/-! ## Absmax cells -/

/-- An absmax cell after a contribution (R251). -/
def absmaxCell (old x : Nat) (nskip : Bool) : Nat :=
  let mx := fld old 0 32
  let seen := bit old 32
  let nan := isNan32 x
  let mag : Nat := x % 2 ^ 31
  let mx' := if nan then (if nskip then mx else 0x7FC00000)
    else if !isNan32 mx && decide (ordKey mx < (mag : Int)) then mag else mx
  mx' + (b2n (seen || (nan && nskip)) <<< 32) + (((fld old 40 24 + 1) % 2 ^ 24) <<< 40)

/-- AMAXF (R251). DEDUCED, log entry 30. -/
def execAmaxf (la : BitVec 4) (ty : ElemType) (dst base b : SReg) (imm : BitVec 32) (req : ReqType) (scope : Scope)
    (ord : Order) (nskip : Bool) (s : State) : Host.Outcome State Fault Refusal :=
  let va := addrOf (s.rs base) imm
  runLong s la [.s dst] (if ty != .fp32 || va % 8 != 0 then .error illegal else do
    let x := (s.rs b).toNat % 2 ^ 32
    let (old, s1) ← atomicAt s req scope ord { idx := 0, va := va, n := 8 }
      { op := { minor := 9, ty := .fp32 }, operands := natToBytes 8 (x + (b2n nskip <<< 32)),
        new := fun bs => some (natToBytes 8 (absmaxCell (bytesToNat bs) x nskip)) }
    .ok (s1, [.s dst (wd (bytesToNat old))]))

/-! ## Accumulating scatter -/

/-- The update of one lane, with its flags (R246). -/
def accUpdate (t : ElemType) (c : FpCtl) (old x : Nat) : Nat × Nat :=
  if t.isFloat then fpAdd t c old x else ((old + x) % 2 ^ t.width, 0)

/-- The bytes of every lane found at its home, so that one that cannot be read faults before any lane is added (R241). -/
def lanesFound (s : State) (req : ReqType) (ps : List Part) : Res State :=
  ps.foldlM (fun s p => match p.loc with
    | .net _ _ => .ok s
    | _ => (atomicOld s s.cur req p).map fun r => r.2) s

/-- The atomic adds of the lanes in turn, with the flags that they raise (R246). -/
def lanesAdded (s : State) (req : ReqType) (ty : ElemType) (c : FpCtl) (xs : List Nat) (lanes : List (Elem × List Part)) :
    Res (State × Nat) :=
  lanes.foldlM (fun (s, f) ep =>
    match ep.2 with
    | [] => .ok (s, f)
    | p :: _ => do
      let x := xs.getD ep.1.idx 0
      let (old, s1) ← atomicPart s s.cur req p
        { op := { minor := 0x102, ty := ty }, operands := natToBytes ep.1.n x,
          new := fun bs => some (natToBytes ep.1.n (accUpdate ty c (bytesToNat bs) x).1) }
      .ok (s1, f ||| (accUpdate ty c (bytesToNat old) x).2)) (s, 0)

/-- SCAT.ACC (R241, R246): relaxed atomic adds in ascending lane order, made once every lane's bytes have been read. -/
def execScatAcc (ty : ElemType) (base : SReg) (idx data : VReg) (extent : SReg) (imm : BitVec 32) (mask : BitVec 3)
    (req : ReqType) (_scope : Scope) (rnd : Rounding) (fzi fzo : Bool) (s : State) : Host.Outcome State Fault Refusal :=
  let va := addrOf (s.rs base) imm
  let c := fpCtl s rnd fzi fzo
  run s (if !gatherOk ty va (s.rs extent) || ty == .e4m3 then .error illegal else do
    let es := activeElems 0 (laneActives s ty mask)
      (laneAddr ty va (s.rs extent).toNat (vElems .u32 (s.rv idx))) (elemBytes ty)
    let xs := vElems ty (s.rv data)
    let (pss, s1) ← checkAll s es fun s e => checkStore s s.cur .atomic req true e
    stallIf (fifoFull s1 s.cur && !es.isEmpty || typeWaits s1 s.cur req pss.flatten) s1
    let s2 ← lanesFound s1 req pss.flatten
    let (s3, f) ← retryWhole s2 (lanesAdded s2 req ty c xs (es.zip pss))
    .ok (raiseFlags s3 f))

end Sys2Proof.Machine
end

