-- ==== Sys2Proof/Machine/Branch.lean ====
section
/-! DEFINITION. Branches, calls, LOOP and NOP (R209, R225 to R228). -/

namespace Sys2Proof.Machine
open Sys2Proof

/-- The target of a relative branch (R209): the line displaced, and 12 bytes for each slot. Addresses are 64-bit values. -/
def branchTarget (pc : Nat) (imm : BitVec 32) : Nat :=
  let line := wd (pc - pc % 64)
  let disp := sext32 (imm.sshiftRight 3)
  (line + 64#64 * disp + wd (12 * (imm.toNat % 8))).toNat

/-- A branch taken when a condition holds. -/
def branchIf (s : State) (taken : Bool) (imm : BitVec 32) : Host.Outcome State Fault Refusal :=
  runJump s (.ok (s, if taken then some (branchTarget s.me.pc imm) else none))

/-- BR (R225). -/
def execBr (imm : BitVec 32) (s : State) : Host.Outcome State Fault Refusal := branchIf s true imm
/-- BEQ (R225). -/
def execBeq (a b : SReg) (imm : BitVec 32) (s : State) : Host.Outcome State Fault Refusal :=
  branchIf s (s.rs a == s.rs b) imm
/-- BNE (R225). -/
def execBne (a b : SReg) (imm : BitVec 32) (s : State) : Host.Outcome State Fault Refusal :=
  branchIf s (s.rs a != s.rs b) imm
/-- BLT (R225). -/
def execBlt (a b : SReg) (imm : BitVec 32) (s : State) : Host.Outcome State Fault Refusal :=
  branchIf s ((s.rs a).slt (s.rs b)) imm
/-- BGE (R225). -/
def execBge (a b : SReg) (imm : BitVec 32) (s : State) : Host.Outcome State Fault Refusal :=
  branchIf s (!(s.rs a).slt (s.rs b)) imm
/-- BLTU (R225). -/
def execBltu (a b : SReg) (imm : BitVec 32) (s : State) : Host.Outcome State Fault Refusal :=
  branchIf s ((s.rs a).ult (s.rs b)) imm
/-- BGEU (R225). -/
def execBgeu (a b : SReg) (imm : BitVec 32) (s : State) : Host.Outcome State Fault Refusal :=
  branchIf s (!(s.rs a).ult (s.rs b)) imm
/-- BZ (R225). -/
def execBz (a : SReg) (imm : BitVec 32) (s : State) : Host.Outcome State Fault Refusal :=
  branchIf s (s.rs a == 0#64) imm
/-- BNZ (R225). -/
def execBnz (a : SReg) (imm : BitVec 32) (s : State) : Host.Outcome State Fault Refusal :=
  branchIf s (s.rs a != 0#64) imm

/-- The return address of the current instruction (R226). -/
def returnAddr (s : State) : Word := wd (nextSlot s.me.pc)

/-- JMP (R226): the target is read before the link is written. -/
def execJmp (dst a : SReg) (s : State) : Host.Outcome State Fault Refusal :=
  runJump s (.ok (s.setS dst (returnAddr s), some (s.rs a).toNat))

/-- CALL (R226). -/
def execCall (dst : SReg) (imm : BitVec 32) (s : State) : Host.Outcome State Fault Refusal :=
  runJump s (if dst = 0#6 then .error illegal
    else .ok (s.setS dst (returnAddr s), some (branchTarget s.me.pc imm)))

/-- RET (R226). -/
def execRet (a : SReg) (s : State) : Host.Outcome State Fault Refusal := runJump s (.ok (s, some (s.rs a).toNat))

/-- LOOP (R227): the counter is decremented, and the branch is taken while it is not zero. -/
def execLoop (a : SReg) (imm : BitVec 32) (s : State) : Host.Outcome State Fault Refusal :=
  runJump s (if a = 0#6 then .error illegal
    else
      let v := s.rs a - 1#64
      .ok (s.setS a v, if v = 0#64 then none else some (branchTarget s.me.pc imm)))

/-- NOP (R212, R228). -/
def execNop (s : State) : Host.Outcome State Fault Refusal := run s (.ok s)

end Sys2Proof.Machine
end

