-- ==== Sys2Proof/Machine/Fetch.lean ====
section
/-! DEFINITION. Fetch lines: the gang's port and instruction cache, the checks of an entered line, the refetch after a parity
error (R135, R184, R199 to R206). -/

namespace Sys2Proof.Machine
open Sys2Proof

/-! ## Lines -/

/-- The line of a slot's address (R199). -/
def lineAddr (pc : Nat) : Nat := pc - pc % 64

/-- Slot k of a line (R199). -/
def slotBits (bs : List Byte) (k : Nat) : Slot := BitVec.ofNat 96 (bytesToNat ((bs.drop (12 * k)).take 12))

/-- The major opcode of a slot (R208). -/
def slotMajor (w : Slot) : Nat := (w.extractLsb' 88 8).toNat

/-- The line word (R200). -/
def lineWord (bs : List Byte) : Nat := bytesToNat ((bs.drop 60).take 4)

/-- TGT of slot k (R200). -/
def lineTgt (bs : List Byte) (k : Nat) : Bool := bit (lineWord bs) (12 + k)

/-- A parity-correct line: the exclusive-or of its bytes is zero (R201). -/
def parityOk (bs : List Byte) : Bool := bs.foldl (· ^^^ ·) 0#8 == 0#8

/-- The scalar group (R202). -/
def scalarMajor (m : Nat) : Bool := decide (1 ≤ m) && decide (m ≤ 0x1F)

/-- A pair of major opcodes that may issue together (R202). -/
def pairMajorsOk (a b : Nat) : Bool :=
  decide (1 ≤ a) && decide (a ≤ 0x9F) && decide (1 ≤ b) && decide (b ≤ 0x9F) && (scalarMajor a || scalarMajor b)
    && a / 16 != 2 && (b / 16 != 2 || b == 0x20 || b == 0x21)

/-- A legal pairing template (R202). -/
def templateOk (bs : List Byte) : Bool :=
  (List.range 4).all fun k => !bit (lineWord bs) (8 + k) ||
    (pairMajorsOk (slotMajor (slotBits bs k)) (slotMajor (slotBits bs (k + 1))) && !(k < 3 && bit (lineWord bs) (9 + k)))

/-- Checks 4 and 5 of R205. -/
def lineFormatFault (bs : List Byte) : Option Nat :=
  if fld (lineWord bs) 17 15 ≠ 0 then some 0x11 else if templateOk bs then none else some 0x1B

/-! ## Where lines come from -/

/-- The place that a line's address names (see `Loc.key`). -/
def locOfKey (a : Nat) : Loc :=
  match regionOf a with
  | 0 => .dram a
  | 1 => .vault a
  | 2 => .dev a
  | 3 => .dbg a
  | _ => .net (fld a 40 7) (fld a 0 40)

/-- What reading a line at its home gives: its bytes, a fault code with the place in the line of the first failing byte (R382), or
nothing yet while its unit holds it back. -/
inductive LineRead where
  | bytes (bs : List Byte) (s : State)
  | fault (code off : Nat) (s : State)
  | waits (s : State)

/-- A line read at its home for a core of a die (R135, R377, R399, R400, R417). Fetch is no access of the memory model. -/
def readLine (s : State) (die key : Nat) : LineRead :=
  let l := locOfKey key
  if refuses s die l then .fault 0x2A 0 s
  else match windowFault s l with
  | some c => .fault c 0 s
  | none =>
    match heldAt s .fetch l with
    | some s1 => .waits s1
    | none =>
      match l with
      | .dram a | .vault a =>
        if rowGone s (a / 64) then .fault 7 0 s else
        let s0 := serveHome s (a / 64)
        if homeWaits s0 (a / 64) then .waits s
        else match readProtected (if regionOf a = 1 then s0 else l2Refresh s0 (a / 256)) a 64 with
          | (some i, s1) => .fault 0x29 i s1
          | (none, s1) => .bytes (s1.mem.readN a 64) s1
      | .dev a => let (bs, s1) := mmioOps.rd s a 64; .bytes bs s1
      | .dbg a => let (bs, s1) := mmioOps.rd s a 64; .bytes bs s1
      | .net w off =>
        let (bs, s1) := drawBytes { s with netOut := s.netOut ++ [.read (remoteOf s w off) 64] } 64
        .bytes bs s1

/-- The pieces of a line that are fetched whole: its slots and its line word (R135). -/
def linePieces : List (Nat × Nat) := [(0, 12), (12, 12), (24, 12), (36, 12), (48, 12), (60, 4)]

/-- What a fetch of a cached line returns (R135): the cached bytes; where the home's bytes have changed since, each slot
and the line word come from either by a free choice (log entry 11). -/
def mixLine (s : State) (key : Nat) (old : List Byte) : List Byte × State :=
  let new := s.mem.readN key 64
  if old = new ∨ 2 ≤ regionOf key then (old, s)
  else linePieces.foldl (fun (acc : List Byte × State) p =>
    let (c, s1) := drawChoice acc.2 2
    (acc.1 ++ ((if c = 0 then old else new).drop p.1).take p.2, s1)) ([], s)

/-! ## The gang's port -/

/-- The contexts of a gang. -/
def ctxsOfGang (g : Nat) : List Nat := ((coresOfGang g).map ctxsOf).flatten

/-- A context that stalled goes on (R182); a frozen one keeps it for its resumption. -/
def unstall (c : Ctx) : Ctx :=
  match c.st with
  | .stalled => { c with st := .ready }
  | .frozen => if c.prev = .stalled then { c with prev := .ready } else c
  | _ => c

/-- The requests that a gang's port may serve now: those whose line is not being filled (R184). -/
def portRequests (s : State) (g : Nat) : List (Nat × FetchReq) :=
  (ctxsOfGang g).filterMap fun k => match (s.ctx k).fetchReq with
    | some r => if (s.gang g).miss.contains r.pa then none else some (k, r)
    | none => none

/-- Whether a request goes before another by R184's second rule: lower line address, then lower ASID, then lower physical
address. -/
def lowerLine (s : State) (a b : Nat × FetchReq) : Bool :=
  let asid := fun k => fld (s.ctx k).asid.toNat 0 16
  decide (a.2.va < b.2.va) || (a.2.va == b.2.va && (decide (asid a.1 < asid b.1) ||
    (asid a.1 == asid b.1 && decide (a.2.pa < b.2.pa))))

/-- The least element of a list by an order. -/
def leastBy {α : Type} (lt : α → α → Bool) : List α → Option α
  | [] => none
  | x :: xs => some (xs.foldl (fun b y => if lt y b then y else b) x)

/-- The request that the port serves in a cycle (R184): among equally old ones that have waited 32 cycles, the second rule's choice.
DESIGN CHOICE, log entry 77. -/
def portChoice (s : State) (g : Nat) : Option (Nat × FetchReq) :=
  let rs := portRequests s g
  let now := cycleOf s (g / 20)
  let old := rs.filter fun r => decide (r.2.since + 32 ≤ now)
  if old.isEmpty then leastBy (lowerLine s) rs
  else leastBy (fun a b => decide (a.2.since < b.2.since) || (a.2.since == b.2.since && lowerLine s a b)) old

/-- A context takes a line that it has asked for. -/
def takeLine (key : Nat) (bs : List Byte) (c : Ctx) : Ctx :=
  match c.fetchReq with
  | some r =>
    if r.pa = key then
      unstall { c with line := some { va := r.va, pa := key, bytes := bs }, fetchReq := none, checked := true, refetched := false }
    else c
  | none => c

/-- One cycle of a gang's port: a broadcast of a cached line, or a miss (R184). -/
def portServe (s : State) (g : Nat) : State :=
  match portChoice s g with
  | none => s
  | some (_, r) =>
    match List.find? (fun l => l.1 == r.pa) (s.gang g).icache with
    | none => s.modGang g fun x => { x with miss := x.miss ++ [r.pa] }
    | some l =>
      let (bs, s1) := mixLine s r.pa l.2
      (ctxsOfGang g).foldl (fun s k => s.modCtx k (takeLine r.pa bs)) s1

/-- FETCH_PORT_SERVE (R184). -/
def execFetchPortServe (gang : Nat) (s : State) : Host.Outcome State Fault Refusal := .next (portServe s gang)

/-- A line entered in an instruction cache of 64 KiB (R16). -/
def cacheLine (s : State) (g key : Nat) (bs : List Byte) : State :=
  s.modGang g fun x => { x with icache := ((key, bs) :: x.icache.filter fun l => l.1 != key).take 1024 }

/-- What a context that waits for a line records where the line cannot be read: 256, the fault's code and 1,024 times the place of
the first failing byte. -/
def lineFault (code off : Nat) : Mid := .fault (256 + code % 256 + 1024 * off)

/-- The contexts that wait for a line learn that it cannot be read. -/
def failLine (key code off : Nat) (c : Ctx) : Ctx :=
  match c.fetchReq with
  | some r => if r.pa = key then unstall { c with fetchReq := none, mid := lineFault code off } else c
  | none => c

/-- The oldest miss of a gang's instruction cache fills from its home (R135, R184). -/
def fillMiss (s : State) (g : Nat) : State :=
  match (s.gang g).miss with
  | [] => s
  | key :: rest =>
    let s1 := s.modGang g fun x => { x with miss := rest }
    match readLine s1 (g / 20) key with
    | .bytes bs s2 => cacheLine s2 g key bs
    | .fault code off s2 => (ctxsOfGang g).foldl (fun s k => s.modCtx k (failLine key code off)) s2
    | .waits s2 => s2.modGang g fun x => { x with miss := rest ++ [key] }

/-- ICACHE_FILL (R184). -/
def execIcacheFill (gang : Nat) (s : State) : Host.Outcome State Fault Refusal := .next (fillMiss s gang)

/-- The LINEREF counter (R407). -/
def ctrLineref : Nat := 0x18

/-- A line that failed parity is fetched again, once, from its home (R206). -/
def refetchLine (s : State) (cid : Nat) : State :=
  let c := s.ctx cid
  match c.line with
  | none => s
  | some l =>
    if !c.checked || c.refetched || parityOk l.bytes then s
    else
      match readLine (countDie s (dieOf cid) ctrLineref 1) (dieOf cid) l.pa with
      | .bytes bs s1 =>
        (if isSup cid then s1 else cacheLine s1 (gangOf cid) l.pa bs).modCtx cid fun c =>
          unstall { c with line := some { l with bytes := bs }, refetched := true }
      | .fault code off s1 => s1.modCtx cid fun c => unstall { c with line := none, checked := false, mid := lineFault code off }
      | .waits s1 => { s1 with dies := s1.dies.map fun d => if d.1 = dieOf cid then (d.1, { d.2 with ctrs := (s.die d.1).ctrs }) else d }

/-- LINE_REFETCH (R206). -/
def execLineRefetch (cid : Nat) (s : State) : Host.Outcome State Fault Refusal := .next (refetchLine s cid)

/-! ## Entering a line -/

/-- The code region of a context (R176, R205). -/
def codeRegion (s : State) (cid : Nat) : Nat × Nat :=
  if isSup cid then ((s.die (dieOf cid)).svcBase, (s.die (dieOf cid)).svcLim)
  else ((s.ctx cid).codeBase, (s.ctx cid).codeLim)

/-- A line that lies within the context's code region (R205). -/
def inCode (s : State) (cid la : Nat) : Bool :=
  decide ((codeRegion s cid).1 ≤ la) && decide (la + 64 ≤ (codeRegion s cid).2)

/-- A fetch fault: after a branch it names the branch (R205, R381). -/
def fetchTrap (c : Ctx) (t : Trap) : Trap := { t with srcPc := if c.entry = .branch then c.srcPc else none }

/-- A stop of a fetch. -/
def fetchStop (c : Ctx) : Stop → Stop
  | .trap t => .trap (fetchTrap c t)
  | .trapIn t s => .trapIn (fetchTrap c t) s
  | .trapFull t d => .trapFull (fetchTrap c t) d
  | e => e

/-- The line that a context holds is given up, so that an entry fetches it anew. -/
def dropLine (c : Ctx) : Ctx := { c with line := none, checked := false, refetched := false }

/-- The checks 3 to 6 of R205 of a line that has arrived, and the entry (R205, R206). -/
def enterLine (s : State) (cid : Nat) (l : LineBuf) : Res (List Byte × State) :=
  let c := s.ctx cid
  let trap := fun (code : Nat) => Except.error (.trapIn (fetchTrap c { code := code }) (s.modCtx cid dropLine))
  if !parityOk l.bytes then (if c.refetched then trap 0x1A else .error (.stall s))
  else
    match lineFormatFault l.bytes with
    | some code => trap code
    | none =>
      if c.entry = .branch ∧ !lineTgt l.bytes (c.pc % 64 / 12) then trap 0x1C
      else .ok (l.bytes, s.modCtx cid fun c => { c with entry := .seq, checked := false, refetched := false })

/-- A line asked for (R175, R184, R205): checks 1 and 2, then the gang's port, or the home for a supervisor core. -/
def askLine (s : State) (cid : Nat) : Res (List Byte × State) :=
  let c := s.ctx cid
  let la := lineAddr c.pc
  if !(c.pc % 64 % 12 == 0 && decide (c.pc % 64 ≤ 48)) then .error (.trap (fetchTrap c { code := 0x18 }))
  else if !inCode s cid la then .error (.trap (fetchTrap c { code := 0x19 }))
  else
    match translate s cid .fetch .own la 64 0 with
    | .error e => .error (fetchStop c e)
    | .ok (p, s1) =>
      let key := p.loc.key
      if isSup cid then
        match readLine s1 (dieOf cid) key with
        | .bytes bs s2 =>
          let l : LineBuf := { va := la, pa := key, bytes := bs }
          enterLine (s2.modCtx cid fun c => { c with line := some l, checked := true, refetched := false }) cid l
        | .fault code off s2 => .error (.trapIn (fetchTrap c { code := code, addr := la + off }) s2)
        | .waits s2 => .error (.stall s2)
      else
        .error (.stall (s1.modCtx cid fun c =>
          { dropLine c with fetchReq := some { va := la, pa := key, since := cycleOf s1 (dieOf cid) } }))

/-- The line that a context issues from: the one it has entered, or an entry (R205). DEDUCED, log entry 53. -/
def fetchLine (s : State) (cid : Nat) : Res (List Byte × State) :=
  let c := s.ctx cid
  let la := lineAddr c.pc
  let held := match c.line with | some l => if l.va = la then some l else none | none => none
  match held with
  | some l =>
    if c.checked then enterLine s cid l
    else if c.entry = .seq then .ok (l.bytes, s)
    else askLine s cid
  | none =>
    let ask := match c.fetchReq with
      | some r => if r.va = la then .error (.stall s) else askLine s cid
      | none => askLine s cid
    match c.mid with
    | .fault x => if 256 ≤ x then .error (.trap (fetchTrap c { code := x % 256, addr := la + x / 1024 })) else ask
    | _ => ask

end Sys2Proof.Machine
end

