-- ==== Sys2Proof/Machine/Control.lean ====
section
/-! DEFINITION. ALIGN and RETIRE (R123, R179, R185, R228, R294, R368). -/

namespace Sys2Proof.Machine
open Sys2Proof

/-! ## ALIGN -/

/-- A context that has arrived for one at ALIGN whose line is la (R185). -/
def hasArrived (la : Nat) (c : Ctx) : Bool :=
  match c.st with
  | .blocked | .parked | .frozen => true
  | .stalled => c.mid == .waiting 185 || lineAddr c.pc == la
  | _ => lineAddr c.pc == la

/-- A context of the gang that another at ALIGN waits for: resident, with the same ASID (R180, R185). -/
def awaitedBy (s : State) (cid k : Nat) : Bool :=
  let c := s.ctx k
  k != cid && c.st != .idle && c.st != .evicted && c.asid == (s.ctx cid).asid

/-- The condition of R185 for a context at ALIGN; a supervisor core has no gang, so nothing holds its contexts. -/
def alignHolds (s : State) (cid : Nat) : Bool :=
  isSup cid || (ctxsOfGang (gangOf cid)).all fun k => !awaitedBy s cid k || hasArrived (lineAddr (s.ctx cid).pc) (s.ctx k)

/-- A context that waits at ALIGN. -/
def atAlign (s : State) (cid : Nat) : Bool := (s.ctx cid).mid == .waiting 185

/-- A context at ALIGN whose wait has ended. -/
def alignGo (c : Ctx) : Ctx := unstall { c with mid := .released }

/-- The condition evaluated for every context of a context's gang that waits at ALIGN, at once (R185).
DEDUCED, log entry 57. -/
def alignSweep (s : State) (cid : Nat) : State :=
  let go := (if isSup cid then [cid] else ctxsOfGang (gangOf cid)).filter fun k => atAlign s k && alignHolds s k
  go.foldl (fun s k => s.modCtx k alignGo) s

/-- ALIGN (R185, R228). -/
def execAlign (imm : BitVec 32) (s : State) : Host.Outcome State Fault Refusal :=
  let bound := imm.toNat
  run s (match s.me.mid with
    | .released => .ok s
    | m => do
      illegalIf (decide (bound = 0) || decide (65535 < bound))
      let s1 := if m = .waiting 185 then s else s.modMe fun c =>
        { c with mid := .waiting 185, deadline := cycleOf s (dieOf s.cur) + bound, st := .stalled }
      let s2 := alignSweep s1 s.cur
      if s2.me.mid = .released then .ok s2 else .error (.stall s2))

/-- ALIGN_RELEASE (R185): in some core cycle the condition is evaluated for the gang of a context. -/
def execAlignRelease (cid : Nat) (s : State) : Host.Outcome State Fault Refusal := .next (alignSweep s cid)

/-- ALIGN_BOUND_EXPIRY (R185). -/
def execAlignBoundExpiry (cid : Nat) (s : State) : Host.Outcome State Fault Refusal :=
  .next (if atAlign s cid ∧ (s.ctx cid).deadline ≤ cycleOf s (dieOf cid) then s.modCtx cid alignGo else s)

/-! ## RETIRE -/

/-- A sector of the tidal stores of a context's task that are not yet published, with its mask (R123). -/
def unpublished (s : State) (cid : Nat) : Option (Nat × Nat) :=
  let inc := (s.ctx cid).incarnation
  match (s.core (coreOf cid)).tidal.find? fun t => t.ctx == cid && t.inc == inc with
  | some t => some (t.sector, t.mask)
  | none => (s.pend.find? fun p => match p.owner with | .tidal c i _ _ => c == cid && i == inc | _ => false).map fun p =>
      (p.sector, p.mask)

/-- A handle of a context is pending. -/
def handlePending (c : Ctx) : Bool := c.hregs.toList.any fun h => match h with | .pending _ => true | _ => false

/-- RETIRE's own checks (R123, R179, R228): it waits for the passes, the handles and the long-latency instructions before
it. DEDUCED, log entry 58. -/
def retireCheck (s : State) : Res Unit := do
  illegalIf (isSup s.cur)
  if !s.me.rep.body.isEmpty || handlePending s.me || s.me.windows.any (fun w => !w.finished) then .error (.stall s)
  match unpublished s s.cur with
  | some (sec, m) => .error (.trap { code := 0x20, addr := sec * 64, info := m, sub := 3 })
  | none => .ok ()

/-- Another member of the current context's GANGTASK waits at GANG (R294). -/
def holdsGang (s : State) : Bool :=
  let ms := boundMembers (s.gang (gangOf s.cur))
  ms.contains s.cur && ms.any fun m => m != s.cur && (s.ctx m).atGang

/-- The task has ended: the context is idle and its node learns it (R179, R182, R368). -/
def endTask (s : State) (cid : Nat) : State :=
  let s1 := idleAt s cid
  match (s.ctx cid).node with
  | some n => leaveNode s1 cid n false
  | none => s1

/-- RETIRE (R179, R294, R368). -/
def execRetire (s : State) : Host.Outcome State Fault Refusal :=
  .next (match retireCheck s with
    | .error e => stopNow s e
    | .ok () =>
      if holdsGang s then gangFault s (gangOf s.cur) (some s.cur)
      else match release s (retireScope s s.cur) with
        | .error e => stopNow s e
        | .ok s1 => endTask s1 s.cur)

end Sys2Proof.Machine
end

