-- ==== Sys2Proof/Machine/RankInstr.lean ====
section
/-! DEFINITION. The rank instructions (R316 to R325). -/

namespace Sys2Proof.Machine
open Sys2Proof

/-- The reserved-field fault (R5, R377). -/
def reservedFault : Stop := .trap { code := 0x11 }

/-- Consecutive 8-byte loads of the current context, checked for races (R320): the bytes in order. -/
def loadWords (s : State) (va n : Nat) : Res (List Byte × State) :=
  (loadElems mmioOps s s.cur .own ((List.range n).map fun i => { idx := 0, va := (va + 8 * i) % 2 ^ 64, n := 8 }) .none).map
    fun p => (p.1.flatten, p.2)

/-- The entry of a group that an instruction names, or the illegal-operand fault (R317). -/
def groupOperand (s : State) (w : Word) : Res Nat :=
  match namedGroup s (dieOf s.cur) w.toNat with
  | some e => .ok e
  | none => .error illegal

/-- A spec of RGRP that R321 refuses. -/
def specIllegal (w : Nat) : Bool :=
  let f := fld w 0 11
  let k := fld w 16 4
  fld w 11 5 != 0 || fld w 20 44 != 0 || decide (9 < k) || f % 2 ^ k != 0 || decide (1536 < f + 2 ^ k)

/-- RGRP (R321). -/
def execRgrp (dst spec : SReg) (s : State) : Host.Outcome State Fault Refusal :=
  let die := dieOf s.cur
  let w := (s.rs spec).toNat
  run s (do
    illegalIf (specIllegal w)
    match (List.range 64).find? fun e => !(groupAt s die e).en with
    | none => .ok (s.setS dst (-1#64))
    | some e =>
      let g : Group := { groupAt s die e with
        en := true, first := fld w 0 11, log2 := fld w 16 4, valid := false, serial := 0
        fail0 := 0#64, fail1 := 0#64, fail2 := 0#64, steps := [] }
      .ok ((setGroup s die e g).setS dst (wd (groupNumber die e g))))

/-- RGRP.FREE (R321): the failure report stays. -/
def execRgrpFree (dst g : SReg) (s : State) : Host.Outcome State Fault Refusal :=
  let die := dieOf s.cur
  run s (do
    let e ← groupOperand s (s.rs g)
    let x := groupAt s die e
    if !x.steps.isEmpty then .ok (s.setS dst 1#64)
    else .ok ((setGroup s die e { x with en := false, gen := (x.gen + 1) % 16 }).setS dst 0#64))

/-- NLOAD (R322): the program is read, the context stalls while its words are copied, and the copy's status ends it.
DEDUCED, log entry 52. -/
def execNload (dst g a n : SReg) (s : State) : Host.Outcome State Fault Refusal :=
  let die := dieOf s.cur
  let va := (s.rs a).toNat
  let k := (s.rs n).toNat
  run s (match s.me.mid with
    | .result st => .ok (s.setS dst (wd st))
    | .waiting _ => .error (.stall s)
    | _ => do
      let e ← groupOperand s (s.rs g)
      illegalIf (k == 0 || decide (256 < k) || va % 8 != 0)
      let x := groupAt s die e
      if !x.steps.isEmpty then .ok (s.setS dst 1#64)
      else do
        let (bs, s1) ← loadWords s va k
        let job : NLoadJob := {
          cid := s.cur, group := (s.rs g).toNat, first := x.first, size := x.size
          words := (List.range k).map fun i => BitVec.ofNat 64 (bytesToNat (sliceBytes bs (8 * i) 8)) }
        let s2 := s1.modDie die fun d => { d with nloads := d.nloads ++ [job] }
        .error (.stall (s2.modMe fun c => { c with mid := .waiting 322 })))

/-- A program copied into one member (R322): words beyond it stay; a fenced bank takes nothing. -/
def loadProgram (job : NLoadJob) (b : Bank) : Bank :=
  if b.fenced then b
  else { b with prog := job.words.zipIdx.foldl (fun m p => SMap.put m p.2 p.1) b.prog, progTag := some job.group }

/-- The status of a context's NLOAD, once its copy has ended. -/
def nloadReply (st : Nat) (c : Ctx) : Ctx :=
  if c.mid = .waiting 322 then
    { c with mid := .result st, st := if c.st = .stalled then .ready else c.st
             prev := if c.st = .frozen ∧ c.prev = .stalled then .ready else c.prev }
  else c

/-- NLOAD_COPY_DONE (R317, R322): the copy of a context's NLOAD ends. One whose group has been freed meanwhile bears an old
generation: it is dropped and counted, and the status that it then gives is a free value. DEDUCED, log entry 52. -/
def execNloadCopyDone (cid : Nat) (s : State) : Host.Outcome State Fault Refusal :=
  let die := dieOf cid
  .next (match (s.die die).nloads.find? fun j => j.cid == cid with
    | none => s
    | some job =>
      let s0 := s.modDie die fun d => { d with nloads := d.nloads.erase job }
      if (namedGroup s die job.group).isNone then
        let (st, s1) := drawChoice (countDie s0 die ctrStale 1) 3
        s1.modCtx cid (nloadReply st)
      else
        let banks := (List.range job.size).map fun i => die * 1536 + job.first + i
        let st := if banks.any fun k => (s.bank k).fenced then 2 else 0
        (banks.foldl (fun s k => s.modBank k (loadProgram job)) s0).modCtx cid (nloadReply st))

/-- A configuration that R323 refuses. -/
def treeIllegal (w : Nat) : Bool :=
  let op := fld w 2 4
  let width := fld w 6 7 + 1
  fld w 13 51 != 0 || fld w 0 2 == 3 || decide (9 ≤ op) || (op == 5 && width % 2 != 0) || (decide (6 ≤ op) && width != 128)

/-- A result address in a member bank of a group (R323). -/
def inMembers (die : Nat) (g : Group) (l : Loc) : Bool :=
  match l with
  | .dram a => (groupBanks die g).contains (bankKey a)
  | _ => false

/-- REDCFG (R323). -/
def execRedcfg (dst g c a : SReg) (s : State) : Host.Outcome State Fault Refusal :=
  let die := dieOf s.cur
  let w := (s.rs c).toNat
  let va := (s.rs a).toNat
  run s (do
    let e ← groupOperand s (s.rs g)
    illegalIf (treeIllegal w || va % 64 != 0)
    let (p, s1) ← translate s s.cur .store .own va 64 0
    trapIf p.tide (.trap { code := 6, addr := va })
    let x := groupAt s1 die e
    illegalIf (p.loc.mem?.isNone || inMembers die x p.loc)
    .ok ((setGroup s1 die e { x with
      valid := true, shape := fld w 0 2, oper := fld w 2 4, words := fld w 6 7, tres := p.pa }).setS dst 0#64))

/-- A handle that an operation may start on (R190). -/
def handleFree (s : State) (h : HReg) : Res Unit :=
  match s.rh h with
  | .pending _ => .error illegal
  | _ => .ok ()

/-- The place of a completion word, translated as a store of the current context (R324, R356, R440). -/
def cwOperand (s : State) (b : Bool) (va : Nat) : Res (Option Nat × State) :=
  if b then do
    let (p, s1) ← translate s s.cur .store .own va 8 0
    .ok (some p.loc.key, s1)
  else .ok (none, s)

/-- The checks of RSTEP, in order (R324): the group, the descriptor and its completion word's place. -/
def rstepCheck (s : State) (h : HReg) (gw : Word) (va : Nat) : Res (Nat × BitVec 512 × Option Nat × State) := do
  let e ← groupOperand s gw
  handleFree s h
  illegalIf (va % 64 != 0)
  let (bs, s1) ← loadWords s va 8
  let b := BitVec.ofNat 512 (bytesToNat bs)
  trapIf (stepReserved b) reservedFault
  illegalIf (stepIllegal (groupAt s1 (dieOf s.cur) e) b)
  let (cw, s2) ← cwOperand s1 (stepCw b) (stepCwaddr b)
  .ok (e, b, cw, s2)

/-- RSTEP (R130, R324): a release at die scope; a ninth step of a group stalls. -/
def execRstep (h : HReg) (g a : SReg) (s : State) : Host.Outcome State Fault Refusal :=
  let die := dieOf s.cur
  let va := (s.rs a).toNat
  run s (do
    runIllegal s s.cur true
    let s1 ← releaseFirst s .die fun s => (rstepCheck s h (s.rs g) va).map fun _ => ()
    let (e, b, cw, s2) ← rstepCheck s1 h (s.rs g) va
    if 8 ≤ (groupAt s2 die e).steps.length then .error (.stall s2)
    else
      let (op, s3) := newOp s2
      .ok ((acceptStep s3 die e op b cw none).setH h (.pending op)))

/-- RSTAT (R325). -/
def execRstat (dst g : SReg) (sel : BitVec 32) (s : State) : Host.Outcome State Fault Refusal :=
  run s (do
    let e ← groupOperand s (s.rs g)
    illegalIf (decide (3 < sel.toNat))
    let x := groupAt s (dieOf s.cur) e
    .ok (s.setS dst (match sel.toNat with
      | 0 => wd (gctlBits x)
      | 1 => x.fail0
      | 2 => x.fail1
      | _ => x.fail2)))

end Sys2Proof.Machine
end

