-- ==== Sys2Proof/Machine/Dispatcher.lean ====
section
/-! DEFINITION. The dispatcher of a die: candidates and their order, placement of tasks, gangs and crews, step and copy nodes,
automatic eviction (R178, R195, R198, R361 to R367, R390). -/

namespace Sys2Proof.Machine
open Sys2Proof

/-! ## Candidates -/

/-- What competes for executors (R361, R367): one node, or a crew with its members in rising node number; with its priority,
its ready time and its lowest node number. -/
structure Cand where
  nodes : List Nat
  prio : Nat
  since : Nat
  crew : Bool
  deriving DecidableEq, Repr

/-- The levels of priority that a ready node has gained by a cycle (R362). -/
def levelsGained (now : Nat) (x : Node) : Nat := max x.aged ((now - x.readyAt) / 65536)

/-- A node's priority now: aging never takes it above 6 (R362). -/
def prioNow (now : Nat) (x : Node) : Nat :=
  let p := nodePrio x.bits
  if 6 ≤ p then p else min 6 (p + levelsGained now x)

/-- PRIORITY_AGING (R362): a ready node's gained levels are recorded. -/
def execPriorityAging (die entry : Nat) (s : State) : Host.Outcome State Fault Refusal :=
  let now := cycleOf s die
  .next (match SMap.find? (s.die die).pool entry with
    | some x =>
      if x.st = .ready then
        s.modDie die fun d => { d with pool := SMap.put d.pool entry { x with aged := levelsGained now x } }
      else s
    | none => s)

/-- A node as a candidate. -/
def candOf (now n : Nat) (x : Node) : Cand := { nodes := [n], prio := prioNow now x, since := x.readyAt, crew := false }

/-- The ready nodes of a die, with their numbers. -/
def readyNodes (s : State) (die : Nat) : List (Nat × Node) :=
  ((s.die die).pool.filter fun p => p.2.st == .ready).map fun p => (nodeNumber die p.1, p.2)

/-- A crew as a candidate, when all its members are entered and ready (R367). -/
def crewCand (s : State) (die k : Nat) (c : Crew) : Option Cand :=
  let now := cycleOf s die
  let ms := (readyNodes s die).filter fun p => nodeCrew p.2.bits == k
  if c.entered = c.size ∧ ms.length = c.size ∧ 0 < c.size then
    some { nodes := ms.map (·.1), prio := (ms.map fun p => prioNow now p.2).foldl max 0
           since := (ms.map fun p => p.2.readyAt).foldl max 0, crew := true }
  else none

/-- Whether a candidate goes before another (R361). -/
def candBefore (a b : Cand) : Bool :=
  decide (b.prio < a.prio) || (a.prio == b.prio && (decide (a.since < b.since) ||
    (a.since == b.since && decide (a.nodes.headD 0 < b.nodes.headD 0))))

/-- A candidate put into its place in an ordered list. -/
def insertCand (c : Cand) : List Cand → List Cand
  | [] => [c]
  | x :: xs => if candBefore c x then c :: x :: xs else x :: insertCand c xs

/-- Candidates in the order of R361. -/
def sortCands (cs : List Cand) : List Cand := cs.foldr insertCand []

/-- The candidates of the context class of a die, in order: tasks, gang tasks and crews (R361). -/
def contextCands (s : State) (die : Nat) : List Cand :=
  let now := cycleOf s die
  let ones := ((readyNodes s die).filter fun p => decide (nodeKind p.2.bits < 2) && nodeCrew p.2.bits == 0).map fun p =>
    candOf now p.1 p.2
  sortCands (ones ++ (s.die die).crews.filterMap fun p => crewCand s die p.1 p.2)

/-- The candidate of the class of one kind of node, 2 STEP or 3 COPY (R361). -/
def kindCand (s : State) (die kind : Nat) : Option Nat :=
  let now := cycleOf s die
  (sortCands (((readyNodes s die).filter fun p => nodeKind p.2.bits == kind).map fun p => candOf now p.1 p.2)).head?.bind
    fun c => c.nodes.head?

/-! ## Placement -/

/-- The idle contexts of a core that may take a task: those that no due image waits for, and none already chosen (R366). -/
def idleOf (s : State) (used : List Nat) (core : Nat) : List Nat :=
  (ctxsOf core).filter fun k => contextFree s k && (dueImage s k).isNone && !used.contains k

/-- Hops between two cores of a die (R363). -/
def hops (a b : Nat) : Nat :=
  let d := fun x y : Nat => (x - y) + (y - x)
  d (a / 16 % 16) (b / 16 % 16) + d (a % 16) (b % 16)

/-- The core beneath a node's first tile's vault (R355, R363). -/
def firstTileCore (die : Nat) (b : BitVec 512) : Option Nat :=
  ((List.range 4).find? fun t => nodeFld b (256 + 32 * t + 16) 2 != 0).map fun t => die * 256 + nodeFld b (256 + 32 * t) 8

/-- The context on which a TASK is placed (R363). -/
def placeTask (s : State) (die : Nat) (used : List Nat) (b : BitVec 512) : Option Nat :=
  let cores := (coresOfDie die).filter fun k => !(idleOf s used k).isEmpty
  let core := match firstTileCore die b with
    | some c => leastBy (fun x y => decide (hops x c < hops y c)) cores
    | none => leastBy (fun x y => decide ((idleOf s used y).length < (idleOf s used x).length)) cores
  core.bind fun k => (idleOf s used k).head?

/-- The contexts on which a GANGTASK is placed: one on each core of the gang, in member order (R195, R364). -/
def placeGang (s : State) (die : Nat) (used gangs : List Nat) (b : BitVec 512) : Option (List Nat) :=
  let gs := ((List.range 20).map fun i => die * 20 + i).filter fun g =>
    (s.gang g).task.isNone && !gangs.contains g && (coresOfGang g).all fun k => !(idleOf s used k).isEmpty
  let first := fun g => (coresOfGang g).headD 0
  let g := match firstTileCore die b with
    | none => gs.head?
    | some c => match gs.find? fun g => (coresOfGang g).contains c with
      | some g => some g
      | none => leastBy (fun x y => decide (hops (first x) c < hops (first y) c)) gs
  g.map fun g => (coresOfGang g).map fun k => (idleOf s used k).headD 0

/-- A node and the contexts chosen for it. -/
abbrev Placed := Nat × List Nat

/-- The members of a candidate placed one after another in rising node number, beside contexts and gangs already chosen (R363,
R364, R367). -/
def placeAll (s : State) (die : Nat) : List Nat → List Nat → List Nat → Option (List Placed)
  | [], _, _ => some []
  | n :: ns, used, gangs =>
    match nodeAt s n with
    | none => none
    | some x =>
      if nodeKind x.bits = 1 then
        (placeGang s die used gangs x.bits).bind fun ks =>
          (placeAll s die ns (ks ++ used) (gangOf (ks.headD 0) :: gangs)).map fun ps => (n, ks) :: ps
      else
        (placeTask s die used x.bits).bind fun k => (placeAll s die ns (k :: used) gangs).map fun ps => (n, [k]) :: ps

/-! ## Binding -/

/-- The state of a task's context at dispatch (R178, R204). -/
def taskCtx (old : Ctx) (n : Nat) (x : Node) (g : Graph) : Ctx :=
  let b := x.bits
  let regs := [nodeFld b 192 16, nodeFld b 208 16, nodeFld b 224 16, nodeOpb b, n].zipIdx.foldl (fun (c : Ctx) p =>
    c.setS (BitVec.ofNat 6 (p.2 + 1)) (wd p.1)) {}
  { regs with st := .ready, pc := nodeOpa b, entry := .branch, asid := wd g.asid, troot := wd (g.troot * 4096)
              node := some n, graph := x.graph, codeBase := g.codeBase, codeLim := g.codeLim, incarnation := old.incarnation
              inGang := nodeKind b == 1 }

/-- A dispatched context's core acquires (R110, R368). -/
def acquireCore (s : State) (core : Nat) : State :=
  let s1 := dropV s core
  match tidalSend s1 core fun _ => true with
  | .ok s2 => s2
  | .error _ => s1

/-- A gang taken by a GANGTASK: every latch is empty, no load into one is under way, and the accumulators stay (R195, R291).
DEDUCED, log entry 62. -/
def takeGang (s : State) (n : Nat) (ks : List Nat) : State :=
  let g := gangOf (ks.headD 0)
  let s1 := s.modGang g fun x => { x with task := some n, members := ks, retired := []
                                          bpub := Vector.replicate 2 {}, bshadow := Vector.replicate 2 {} }
  (coresOfGang g).foldl (fun s k => s.modCore k fun c =>
    { c with alatch := Vector.replicate 2 {}, mloads := [], halted := none }) s1

/-- A node bound to its contexts (R178, R354, R364). -/
def bindNode (s : State) (p : Placed) : State :=
  match nodeAt s p.1 with
  | none => s
  | some x =>
    match SMap.find? s.graphs x.graph with
    | none => s
    | some g =>
      let s1 := s.modDie (p.1 / 4096) fun d => { d with pool := SMap.put d.pool (p.1 % 4096) { x with st := .running } }
      let s2 := if nodeKind x.bits = 1 then takeGang s1 p.1 p.2 else s1
      p.2.foldl (fun s k => (acquireCore s (coreOf k)).modCtx k fun c => taskCtx c p.1 x g) s2

/-! ## The context class -/

/-- The dispatcher of a die works: the die is in service and not parked, programs run, and no checkpoint is being taken
(R417, R420, R421). -/
def dispatchRuns (s : State) (die : Nat) : Bool :=
  decide (die < 12) && programsRun s && !ckBusy s && !dieOut s die && (s.die die).pstate != 2 && !s.pkg.p3

/-- The clocks of a die's candidates for contexts (R366): each keeps, at its lowest node, the core cycle since which it could not be
placed. It is brought up to date before time passes. -/
def markStuck (s : State) (die : Nat) : State :=
  let now := cycleOf s die
  let stuck := ((contextCands s die).filter fun c => (placeAll s die c.nodes [] []).isNone).map fun c => c.nodes.headD 0
  s.modDie die fun d => { d with pool := d.pool.map fun p =>
    (p.1, { p.2 with stuck := if stuck.contains (nodeNumber die p.1) then some (p.2.stuck.getD now) else none }) }

/-- The clocks of every die that holds nodes. -/
def markAllStuck (s : State) : State := ((s.dies.filter fun p => !p.2.pool.isEmpty).map (·.1)).foldl markStuck s

/-- A candidate that could not be placed for 4,096 core cycles on end (R366, R390). -/
def longStuck (s : State) (die : Nat) (c : Cand) : Bool :=
  match (nodeAt s (c.nodes.headD 0)).bind (·.stuck) with
  | some t => decide (t + 4096 ≤ cycleOf s die)
  | none => false

/-- What the context class dispatches (R361, R366): its candidate, or, while that has been unplaceable for fewer than 4,096
cycles, the next that can be placed. -/
def contextPick (s : State) (die : Nat) : Option (Cand × List Placed) :=
  let place := fun (c : Cand) => (placeAll s die c.nodes [] []).map fun ps => (c, ps)
  match contextCands s die with
  | [] => none
  | c :: cs =>
    match place c with
    | some p => some p
    | none => if longStuck s die c then none else cs.findSome? place

/-- The executor classes of R361: 0 contexts, 1 rank groups, 2 copy engines. A class that has dispatched in this core cycle does
not do so again. -/
def classFree (s : State) (die : Nat) (cls : Fin 3) : Bool := (s.die die).lastDisp[cls] != some (cycleOf s die)

/-- A dispatch of a class, noted (R361). -/
def noteDispatch (s : State) (die : Nat) (cls : Fin 3) : State :=
  let now := cycleOf s die
  s.modDie die fun d => { d with lastDisp := d.lastDisp.set cls (some now) }

/-- A dispatch of the context class, if what it dispatches is of the kind that the event names (R361, R366). -/
def dispatchContexts (s : State) (die : Nat) (kind : State → Cand → Bool) : State :=
  if !dispatchRuns s die || !classFree s die 0 then s
  else match contextPick s die with
    | some (c, ps) => if kind s c then noteDispatch (ps.foldl bindNode s) die 0 else s
    | none => s

/-- A candidate that is one node of a kind (R355). -/
def candKind (k : Nat) (s : State) (c : Cand) : Bool :=
  !c.crew && (match nodeAt s (c.nodes.headD 0) with | some x => nodeKind x.bits == k | none => false)

/-- DISPATCH_TASK (R178, R363). -/
def execDispatchTask (die : Nat) (s : State) : Host.Outcome State Fault Refusal := .next (dispatchContexts s die (candKind 0))

/-- DISPATCH_GANGTASK (R195, R364). -/
def execDispatchGangtask (die : Nat) (s : State) : Host.Outcome State Fault Refusal :=
  .next (dispatchContexts s die (candKind 1))

/-- DISPATCH_CREW (R198, R367). -/
def execDispatchCrew (die : Nat) (s : State) : Host.Outcome State Fault Refusal :=
  .next (dispatchContexts s die fun _ c => c.crew)

/-! ## Step and copy nodes -/

/-- A node set running. -/
def runNode (s : State) (n : Nat) (x : Node) : State :=
  s.modDie (n / 4096) fun d => { d with pool := SMap.put d.pool (n % 4096) { x with st := .running } }

/-- The checks of RSTEP for a STEP node, in its graph's address space (R324, R365): a fault, or the group's entry, the
descriptor and its completion word's place. -/
def stepNodeCheck (s : State) (die : Nat) (x : Node) (g : Graph) : URes (Nat × BitVec 512 × Option Nat × State) :=
  let sp := spaceOfGraph die g.asid g.troot
  let va := nodeOpb x.bits
  match if g.run.isSome then none else namedGroup s die (nodeFld x.bits 64 16) with
  | none => .error ({ code := 0x12 }, s)
  | some e =>
    if va % 64 ≠ 0 then .error ({ code := 0x12 }, s)
    else do
      let (b, s1) ← readRecord s sp g.run va
      if stepReserved b then .error ({ code := 0x11 }, s1)
      else if stepIllegal (groupAt s1 die e) b then .error ({ code := 0x12 }, s1)
      else if !stepCw b then .ok (e, b, none, s1)
      else if stepCwaddr b % 8 ≠ 0 ∨ bit (stepCwseq b) 63 then .error ({ code := 0x12 }, s1)
      else do
        let (a, s2) ← cwPlace s1 sp (stepCwaddr b)
        .ok (e, b, some a, s2)

/-- A STEP node performed (R365); it stays ready while the reading of its descriptor must wait. -/
def performStep (s : State) (die n : Nat) (x : Node) : State :=
  match SMap.find? s.graphs x.graph with
  | none => s
  | some g =>
    match stepNodeCheck s die x g with
    | .error (t, s1) =>
      if t.code = 0 then withWakes s s1 else finishNode (runNode (noteDispatch s1 die 1) n x) n (0x100 + t.code)
    | .ok (e, b, cw, s1) =>
      let (op, s2) := newOp (runNode (noteDispatch s1 die 1) n x)
      acceptStep s2 die e op b cw (some (n, x.uid))

/-- A STEP node's group has room for one more step (R365); a number that names no group is found out when it is performed. -/
def stepRoom (s : State) (die : Nat) (x : Node) : Bool :=
  match namedGroup s die (nodeFld x.bits 64 16) with
  | some e => decide ((groupAt s die e).steps.length < 8)
  | none => true

/-- DISPATCH_STEP (R324, R365). -/
def execDispatchStep (die : Nat) (s : State) : Host.Outcome State Fault Refusal :=
  .next (if !dispatchRuns s die || !classFree s die 1 then s
    else match (kindCand s die 2).bind fun n => (nodeAt s n).map fun x => (n, x) with
      | some (n, x) => if stepRoom s die x then performStep s die n x else s
      | none => s)

/-- A COPY node performed on an engine (R259, R261, R365); it stays ready while its translation must wait. -/
def performCopy (s : State) (die n engine : Nat) (x : Node) : State :=
  match SMap.find? s.graphs x.graph with
  | none => s
  | some g =>
    let sp := spaceOfGraph die g.asid g.troot
    let len := nodeFld x.bits 192 33
    let s1 := runNode (noteDispatch s die 2) n x
    if 2 ^ 32 < len ∨ destIllegal s sp (nodeOpa x.bits) len then finishNode s1 n 0x112
    else
      let (op, s2) := newOp s1
      match startCopy mmioOps s2 op engine
          { die := die, sp := some sp, cid := die * 4096, scope := Scope.ofCode (BitVec.ofNat 3 (nodeCscope x.bits))
            req := .own, drain := false, rows := [(nodeOpa x.bits, nodeOpb x.bits, len)], run := g.run }
          (.node die (n % 4096)) with
      | .ok s3 => s3
      | .error s3 => withWakes s s3

/-- DISPATCH_COPY (R261, R365). -/
def execDispatchCopy (die : Nat) (s : State) : Host.Outcome State Fault Refusal :=
  .next (if !dispatchRuns s die || !classFree s die 2 then s
    else match (kindCand s die 3).bind fun n => (nodeAt s n).map fun x => (n, x), freeEngine s die with
      | some (n, x), some k => performCopy s die n k x
      | _, _ => s)

/-! ## Automatic eviction -/

/-- The evictable context of a die that has been blocked longest, for at least a number of cycles (R390). -/
def longestBlocked (s : State) (die evmin : Nat) : Option Nat :=
  let now := cycleOf s die
  leastBy (fun a b => decide ((s.ctx a).blockedAt < (s.ctx b).blockedAt))
    (((coresOfDie die).map ctxsOf).flatten.filter fun k => evictable s k && decide ((s.ctx k).blockedAt + evmin ≤ now))

/-- The context class's candidate could not be placed for 4,096 core cycles, and cannot now (R366, R390). -/
def evictionDue (s : State) (die : Nat) : Bool :=
  match (contextCands s die).head? with
  | some c => longStuck s die c && (placeAll s die c.nodes [] []).isNone
  | none => false

/-- AUTOMATIC_EVICTION (R390). -/
def execAutomaticEviction (die : Nat) (s : State) : Host.Outcome State Fault Refusal :=
  let now := cycleOf s die
  let d := s.die die
  let rested := match d.lastEvict with | some t => decide (t + 64 ≤ now) | none => true
  .next (if !dispatchRuns s die || d.svEvmin == 0 || !rested || !evictionDue s die then s
    else match longestBlocked s die d.svEvmin with
      | none => s
      | some k => (evict s k).modDie die fun x =>
          { x with lastEvict := if (freeSlot s die).isSome then some now else x.lastEvict })

end Sys2Proof.Machine
end

