-- ==== Sys2Proof/Machine/EngineInstr.lean ====
section
/-! DEFINITION. Engine instructions, handles and tokens, and the engines' own events (R190, R191, R259 to R265). -/

namespace Sys2Proof.Machine
open Sys2Proof

/-! ## Starting operations -/

/-- The source request type that an engine uses (R259): codes 1 and 2 are read as 0. -/
def engineReq : ReqType → ReqType
  | .unc => .unc
  | _ => .own

/-- An engine operation started from the current context once its operands are legal (R190, R259): the handle is free, the
release is made, and the handle becomes pending. -/
def startOp (s : State) (h : HReg) (scope : Scope) (legal : Res Unit) (go : State → Nat → Res State) :
    Host.Outcome State Fault Refusal :=
  run s (do
    legal
    handleFree s h
    let s1 ← release s scope
    let (op, s2) := newOp s1
    let s3 ← go (s2.setH h (.pending op)) op
    .ok s3)

/-- The start of an operation, or a stall of the issuing context that keeps nothing of it but its release, where the start must
wait for its translation (R40, R56): s0 is the state after the release. -/
def startOr (s0 : State) : Except State State → Res State
  | .ok s1 => .ok s1
  | .error s1 => .error (.stall ((withWakes s0 s1).modMe fun c => { c with mid := .released }))

/-- A copy that holds the lowest-numbered free engine; without one the context stalls (R261). -/
def copyNow (s0 s : State) (op : Nat) (r : CopyReq) : Res State :=
  match freeEngine s r.die with
  | some k => startOr s0 (startCopy readOps s op k r .none)
  | none => startOr s0 (.error s0)

/-- What a copy of the current context asks for. -/
def copyReq (s : State) (scope : Scope) (req : ReqType) (drain : Bool) (rows : List (Nat × Nat × Nat)) : CopyReq :=
  { die := dieOf s.cur, sp := some (spaceOf s s.cur), cid := s.cur, scope := scope, req := engineReq req, drain := drain,
    rows := rows, run := runOf s s.cur }

/-- The state to which an instruction that stalls for an engine returns: its release is made, nothing else. -/
def afterRelease (s : State) (scope : Scope) : State := match release s scope with | .ok s1 => s1 | .error _ => s

/-- COPY (R261). -/
def execCopy (h : HReg) (d src len : SReg) (req : ReqType) (scope : Scope) (drain : Bool) (s : State) :
    Host.Outcome State Fault Refusal :=
  let n := (s.rs len).toNat
  let dst := (s.rs d).toNat
  startOp s h scope (illegalIf (decide (2 ^ 32 < n) || destIllegal s (spaceOf s s.cur) dst n)) fun s1 op =>
    copyNow (afterRelease s scope) s1 op (copyReq s1 scope req drain [(dst, (s.rs src).toNat, n)])

/-- A shape that COPY2D refuses (R261): its two words. -/
def shapeIllegal (w0 : Nat) : Bool :=
  fld w0 0 32 == 0 || decide (2 ^ 24 < fld w0 0 32) || fld w0 32 16 == 0 || fld w0 48 16 != 0

/-- The rows of COPY2D: destination, source and length of each (R261). -/
def shapeRows (dst src w0 w1 : Nat) : List (Nat × Nat × Nat) :=
  (List.range (fld w0 32 16)).map fun (r : Nat) =>
    (wrapN 64 (dst + r * signedOf 32 (fld w1 0 32)), wrapN 64 (src + r * signedOf 32 (fld w1 32 32)), fld w0 0 32)

/-- The second register of an even pair. -/
def pairReg (p : SReg) : SReg := p + 1#6

/-- COPY2D (R261). -/
def execCopy2d (h : HReg) (d src p : SReg) (req : ReqType) (scope : Scope) (drain : Bool) (s : State) :
    Host.Outcome State Fault Refusal :=
  let w0 := (s.rs p).toNat
  let w1 := (s.rs (pairReg p)).toNat
  let rows := shapeRows (s.rs d).toNat (s.rs src).toNat w0 w1
  startOp s h scope (do
      illegalIf (p.toNat % 2 != 0 || decide (62 ≤ p.toNat) || shapeIllegal w0)
      illegalIf (rows.any fun r => destIllegal s (spaceOf s s.cur) r.1 r.2.2)) fun s1 op =>
    copyNow (afterRelease s scope) s1 op (copyReq s1 scope req drain rows)

/-- DET of the current context (R233). -/
def detMode (s : State) : Bool := s.me.mode.getLsbD 0

/-- PUT (R262). -/
def execPut (h : HReg) (r l n : SReg) (req : ReqType) (scope : Scope) (sig : Bool) (ep : BitVec 16) (s : State) :
    Host.Outcome State Fault Refusal :=
  let k := (s.rs n).toNat
  startOp s h scope (do
      runIllegal s s.cur true
      illegalIf (decide (2 ^ 32 < k) || (sig && n.toNat % 2 != 0))) fun s1 op =>
    startOr (afterRelease s scope) (startPeer readOps s1 op .put (dieOf s.cur) s.cur (spaceOf s s.cur) scope (engineReq req) (detMode s) ep.toNat
      (s.rs r).toNat (s.rs l).toNat k (if sig then some (s.rs (pairReg n)).toNat else none) [] .none)

/-- GET (R262). -/
def execGet (h : HReg) (l r n : SReg) (req : ReqType) (scope : Scope) (ep : BitVec 16) (s : State) :
    Host.Outcome State Fault Refusal :=
  let k := (s.rs n).toNat
  startOp s h scope (do
      runIllegal s s.cur true
      illegalIf (decide (2 ^ 32 < k) || destIllegal s (spaceOf s s.cur) (s.rs l).toNat k)) fun s1 op =>
    startOr (afterRelease s scope) (startPeer readOps s1 op .get (dieOf s.cur) s.cur (spaceOf s s.cur) scope (engineReq req) (detMode s) ep.toNat
      (s.rs r).toNat (s.rs l).toNat k none [] .none)

/-- The bytes that RADD adds: types 6 and 12 (R262). -/
def raddBytes : ElemType → Option Nat
  | .s32 => some 4
  | .s64 => some 8
  | _ => none

/-- RADD (R259, R262): it reads no source, so that its source request type has no effect. -/
def execRadd (ty : ElemType) (h : HReg) (r b : SReg) (acc : Access) (ep : BitVec 16) (s : State) :
    Host.Outcome State Fault Refusal :=
  let k := (raddBytes ty).getD 0
  startOp s h acc.scope (do
      runIllegal s s.cur true
      illegalIf (raddBytes ty).isNone) fun s1 op =>
    startOr (afterRelease s acc.scope) (startPeer readOps s1 op .radd (dieOf s.cur) s.cur (spaceOf s s.cur) acc.scope (engineReq acc.req) (detMode s) ep.toNat (s.rs r).toNat 0 k
      none (natToBytes k (s.rs b).toNat) .none)

/-- A trigger record that TRIG refuses (R264). -/
def trigReserved (b : BitVec 512) : Bool :=
  trigFld b 0 8 == 0 || decide (5 < trigFld b 0 8) || decide (5 < trigFld b 25 3) || trigFld b 28 4 != 0
    || trigFld b 48 16 != 0 || trigFld b 448 64 != 0

/-- The checks of TRIG and its record. -/
def trigCheck (s : State) (h : HReg) (va : Nat) : Res (BitVec 512 × State) := do
  runIllegal s s.cur true
  illegalIf (va % 64 != 0)
  handleFree s h
  let (bs, s1) ← loadWords s va 8
  let b := BitVec.ofNat 512 (bytesToNat bs)
  trapIf (trigReserved b) reservedFault
  .ok (b, s1)

/-- TRIG (R264): the record is armed, and fires at once where its condition holds; a full table completes the handle with
status 10. -/
def execTrig (h : HReg) (a : SReg) (acc : Access) (s : State) : Host.Outcome State Fault Refusal :=
  let scope := acc.scope
  let die := dieOf s.cur
  let va := (s.rs a).toNat
  run s (do
    let s1 ← releaseFirst s scope fun s => (trigCheck s h va).map fun _ => ()
    let (b, s2) ← trigCheck s1 h va
    if 1024 ≤ (s2.die die).triggers.length then .ok (s2.setH h (.complete 10#64 scope))
    else
      let (op, s3) := newOp s2
      let t : Trigger := { bits := b, cid := s.cur, sp := spaceOf s s.cur, op := op, req := engineReq acc.req, det := detMode s }
      let s4 := (s3.setH h (.pending op)).modDie die fun d =>
        { d with triggers := d.triggers ++ [(d.trigNext, t)], trigNext := d.trigNext + 1 }
      .ok (fireAll readOps 1024 s4 die))

/-- CNTI (R263): a release, then the counter changes and the triggers that it satisfies fire. -/
def execCnti (c : BitVec 8) (b : SReg) (scope : Scope) (set : Bool) (s : State) : Host.Outcome State Fault Refusal :=
  let die := dieOf s.cur
  run s (do
    let s1 ← release s scope
    .ok (changeCounter readOps s1 die c.toNat (if set then s.rs b else counterOf s1 die c.toNat + s.rs b)))

/-- CNTR (R263). -/
def execCntr (dst : SReg) (c : BitVec 8) (s : State) : Host.Outcome State Fault Refusal :=
  putS s dst (counterOf s (dieOf s.cur) c.toNat)

/-! ## Handles and tokens -/

/-- HTEST (R190, R265). -/
def execHtest (dst : SReg) (h : HReg) (s : State) : Host.Outcome State Fault Refusal :=
  run s (match s.rh h with
    | .complete st sc => do
      let s1 ← acquire s sc
      .ok (s1.setS dst st)
    | .pending _ => .ok (s.setS dst (-1#64))
    | .idle => .ok (s.setS dst (-2#64)))

/-- HCANCEL (R190, R264, R326, R370). -/
def execHcancel (h : HReg) (s : State) : Host.Outcome State Fault Refusal :=
  run s (.ok (match s.rh h with
    | .pending op => cancelAny s op
    | _ => s))

/-- HWAIT (R190). -/
def execHwait (dst : SReg) (h : HReg) (s : State) : Host.Outcome State Fault Refusal :=
  run s (match s.rh h with
    | .idle => .error illegal
    | .pending _ => .error (.block (.handle h.toNat) 0 s)
    | .complete st sc => do
      let s1 ← acquire s sc
      .ok ((s1.setH h .idle).setS dst st))

/-- HWAIT.T (R191): the entry keeps its status. -/
def execHwaitToken (dst k : SReg) (s : State) : Host.Outcome State Fault Refusal :=
  let t := (s.rs k).toNat
  let (d, e, g) := tokenFields t
  run s (do
    illegalIf (fld t 20 44 != 0 || d != dieOf s.cur)
    let x := SMap.getD (s.die d).tokens e {}
    if x.gen ≠ g then .ok (s.setS dst 7#64)
    else match x.h with
      | .idle => .ok (s.setS dst 7#64)
      | .pending _ => .error (.block (.token t) 0 s)
      | .complete st sc => do
        let s1 ← acquire s sc
        .ok (s1.setS dst st))

/-- HMOV (R190). -/
def execHmov (dst h : HReg) (s : State) : Host.Outcome State Fault Refusal :=
  run s (do
    illegalIf (s.rh dst != .idle)
    .ok ((s.setH dst (s.rh h)).setH h .idle))

/-- HTOK (R191): it stalls while the next entry of the ring is pending. -/
def execHtok (dst : SReg) (h : HReg) (s : State) : Host.Outcome State Fault Refusal :=
  let die := dieOf s.cur
  let d := s.die die
  let e := d.tokNext % 4096
  let x := SMap.getD d.tokens e {}
  run s (do
    illegalIf (s.rh h == .idle)
    match x.h with
    | .pending _ => .error (.stall s)
    | _ =>
      let g := (x.gen + 1) % 16
      let s1 := s.setDie die { d with tokens := SMap.put d.tokens e { gen := g, h := s.rh h }, tokNext := (e + 1) % 4096 }
      .ok ((s1.setH h .idle).setS dst (wd (e + (g <<< 12) + (die <<< 16)))))

/-! ## The engines' events -/

/-- TILE_ARRIVAL (R80, R81): the next bytes of an operation arrive at its tile; one that waits for its tiles tries them. -/
def execTileArrival (op : Nat) (s : State) : Host.Outcome State Fault Refusal :=
  .next (match SMap.find? s.ops op with
    | none => s
    | some o =>
      if o.stage < 2 then advanceOp readOps s op o
      else match o.tileDst with
        | some (v, e) => if o.stage = 2 ∧ o.done < o.total then arriveOp readOps s op o v e else s
        | none => s)

/-- ENGINE_OPERATION_COMPLETE (R121, R129): an operation that has moved everything, or whose status is known, ends. -/
def execEngineOperationComplete (op : Nat) (s : State) : Host.Outcome State Fault Refusal :=
  .next (match SMap.find? s.ops op with
    | none => s
    | some o => if o.stage < 2 then advanceOp readOps s op o else completeOp readOps s op o)

/-- COPY_ENGINE_START (R261, R264): a copy that waited for an engine starts on one that is free, and the triggers whose start
had to wait are tried again. -/
def execCopyEngineStart (die : Nat) (s : State) : Host.Outcome State Fault Refusal :=
  .next (fireAll readOps 1024 (startWaiting readOps s die) die)

end Sys2Proof.Machine
end

