-- ==== Sys2Proof/Machine/GraphInstr.lean ====
section
/-! DEFINITION. The graph instructions (R230, R231, R355 to R359, R367). -/

namespace Sys2Proof.Machine
open Sys2Proof

/-- A 64-byte record at an address: after the checks of R38 it must be aligned and in DRAM (R230). -/
def loadRecord (s : State) (va : Nat) : Res (BitVec 512 × State) := do
  let (ps, s1) ← translateElem s s.cur .load .own { idx := 0, va := va, n := 64 }
  illegalIf (va % 64 != 0 || ps.any fun p => match p.loc with | .dram _ => false | _ => true)
  let (bs, s2) ← loadWords s1 va 8
  .ok (BitVec.ofNat 512 (bytesToNat bs), s2)

/-- The node of the current context's task, with its number (R230). -/
def myNode (s : State) : Res (Nat × Node) :=
  match s.me.node.bind fun n => (nodeAt s n).map fun x => (n, x) with
  | some p => .ok p
  | none => .error illegal

/-- What GNODE has found when its checks pass. -/
structure NewNode where
  die : Nat
  bits : BitVec 512
  succ : List (Nat × Nat)
  cwpa : Option Nat

/-- The checks of GNODE (R355, R356): a GANGTASK is one member of its crew. -/
def gnodeCheck (s : State) (va : Nat) : Res (NewNode × State) := do
  let _ ← myNode s
  let (b0, s1) ← loadRecord s va
  let b := if (runOf s s.cur).isSome then homeRecord b0 else b0
  let die := nodeDie b (dieOf s.cur)
  trapIf (nodeReserved b0) reservedFault
  illegalIf (nodeIllegal b0 (sysEnabled s.cur) || (nodeSucc b).any (fun n => (nodeAt s1 n).isNone)
    || (nodeCrew b != 0 && !crewHasRoom s1 die (nodeCrew b) 1))
  let (cw, s2) ← cwOperand s1 (nodeCw b) (nodeCwaddr b)
  .ok ({ die := die, bits := b, cwpa := cw,
         succ := (nodeSucc b).map fun n => (n, ((nodeAt s1 n).map fun x => x.uid).getD 0) }, s2)

/-- A node of the current task's graph entered (R359): its successors' counts rise, and its own count is a hold of the
issuing task. In a graph that has halted it retires at once (R354, R370). -/
def gnodeEnter (s : State) (m : Nat) (x : Node) (w : NewNode) (e : Nat) : State :=
  let n := nodeNumber w.die e
  let (uid, s1) := newOp s
  let s2 := w.succ.foldl (fun s t => addCount s t.1) s1
  let s3 := enterNode s2 n w.bits x.graph (nodeDcnt w.bits) w.succ w.cwpa uid
  if graphHalted s3 x.graph then removeNode s3 n
  else match nodeAt s3 m with
    | some y => putNode s3 m { y with holds := y.holds ++ [(n, uid, nodeDcnt w.bits)] }
    | none => s3

/-- GNODE (R230, R231, R356). -/
def execGnode (dst a : SReg) (s : State) : Host.Outcome State Fault Refusal :=
  let va := (s.rs a).toNat
  run s (do
    let s1 ← releaseFirst s .die fun s => (gnodeCheck s va).map fun _ => ()
    let (w, s2) ← gnodeCheck s1 va
    let (m, x) ← myNode s2
    match if dieRefusesNodes s2 w.die then none else freeEntry s2 w.die with
    | none => .ok (s2.setS dst (-1#64))
    | some e => .ok ((gnodeEnter s2 m x w e).setS dst (wd (nodeNumber w.die e))))

/-- A node number's standing in a graph: held, retired or unknown (R230). -/
inductive Standing where
  | held (x : Node)
  | gone
  | unknown

/-- The standing of a register's node number in a graph. -/
def standing (s : State) (g : Nat) (w : Word) : Standing :=
  let n := w.toNat
  let was := match SMap.find? s.graphs g with | some y => y.gone.contains n | none => false
  match nodeAt s n with
  | some x => if x.graph = g then .held x else if was then .gone else .unknown
  | none => if was then .gone else .unknown

/-- The status of GDEP and its edge (R230, R359). A predecessor that has released its successors and awaits its completion store
counts as retired (R368). -/
def addEdge (s : State) (g : Nat) (a b : Word) : Nat × State :=
  match standing s g a, standing s g b with
  | .held x, .held y =>
    if x.finished then (1, s)
    else if 8 ≤ x.succ.length then (2, s)
    else (0, addCount (putNode s a.toNat { x with succ := x.succ ++ [(b.toNat, y.uid)] }) b.toNat)
  | .gone, .held _ => (1, s)
  | _, _ => (3, s)

/-- GDEP (R230, R231, R359). -/
def execGdep (dst a b : SReg) (s : State) : Host.Outcome State Fault Refusal :=
  run s (do
    let _ ← myNode s
    let s1 ← release s .die
    let (_, x) ← myNode s1
    let (st, s2) := addEdge s1 x.graph (s.rs a) (s.rs b)
    .ok (s2.setS dst (wd st)))

/-- The checks of GSUB in the issuing context (R190, R230, R357). -/
def gsubCheck (s : State) (h : HReg) (va : Nat) : Res (BitVec 512 × State) := do
  handleFree s h
  loadRecord s va

/-- GSUB (R230, R231, R358): a refusal's status is in the handle at once; where the reading of the graph must wait, the context
stalls. -/
def execGsub (h : HReg) (a : SReg) (s : State) : Host.Outcome State Fault Refusal :=
  let va := (s.rs a).toNat
  run s (do
    let s1 ← releaseFirst s .die fun s => (gsubCheck s h va).map fun _ => ()
    let (b, s2) ← gsubCheck s1 h va
    let (op, s3) := newOp s2
    let by_ : Submitter := { die := dieOf s.cur, sys := sysEnabled s.cur, asid := fld s.me.asid.toNat 0 16
                             troot := fld s.me.troot.toNat 12 36, run := runOf s s.cur }
    let (st, s4) := submitGraph s3 by_ b op .none
    if st = 0x100 then startOr s1 (.error s4)
    else .ok (s4.setH h (if st = 0 then .pending op else .complete (wd st) .die)))

/-- CREW (R230, R367): the lowest free number of the die. DESIGN CHOICE, log entry 86. -/
def execCrew (dst : SReg) (imm : BitVec 32) (s : State) : Host.Outcome State Fault Refusal :=
  let die := dieOf s.cur
  run s (do
    illegalIf (imm == 0#32 || decide (640 < imm.toNat))
    match ((List.range 4095).map (· + 1)).find? fun k => (SMap.find? (s.die die).crews k).isNone with
    | none => .ok (s.setS dst 0#64)
    | some k => .ok ((s.modDie die fun d => { d with crews := SMap.put d.crews k { size := imm.toNat } }).setS dst (wd k)))

/-- YIELD (R230): a stall of n ungated core cycles. -/
def execYield (imm : BitVec 32) (s : State) : Host.Outcome State Fault Refusal :=
  let now := ungatedFor s s.cur
  run s (match s.me.mid with
    | .released => .ok s
    | .waiting _ => if s.me.deadline ≤ now then .ok s else .error (.stall s)
    | _ => do
      illegalIf (imm == 0#32 || decide (65535 < imm.toNat))
      .error (.stall (s.modMe fun c => { c with mid := .waiting 230, deadline := now + imm.toNat })))

/-- YIELD_EXPIRY (R230): the count has run out. -/
def execYieldExpiry (cid : Nat) (s : State) : Host.Outcome State Fault Refusal :=
  .next (s.modCtx cid fun c =>
    if c.mid = .waiting 230 ∧ c.deadline ≤ ungatedFor s cid then
      { c with mid := .released, st := if c.st = .stalled then .ready else c.st
               prev := if c.st = .frozen ∧ c.prev = .stalled then .ready else c.prev }
    else c)

end Sys2Proof.Machine
end

