-- ==== Sys2Proof/Machine/HomeEvents.lean ====
section
/-! DEFINITION. What homes and links do between instructions: posted requests, acknowledgements, the ends of releases and the
replies of remote loads (R91, R97, R98, R117, R393, R397). -/

namespace Sys2Proof.Machine
open Sys2Proof

/-- The first posted request to a sector taken from the list and performed, unless it must wait (R91, R95). -/
def serveFirst (s : State) (sector : Nat) : State :=
  match s.homeq.find? fun r => r.sector == sector with
  | none => s
  | some r => (performWriteBack { s with homeq := s.homeq.erase r } r).getD s

/-- HOME_REQUEST (R91): the home of a posted request serves the first request that its sector holds. -/
def execHomeRequest (idx : Nat) (s : State) : Host.Outcome State Fault Refusal :=
  .next (match s.homeq[idx]? with
    | none => s
    | some r => serveFirst s r.sector)

/-- DIRTY_FIFO_ACK (R97): the entry at the head of a core's FIFO is acknowledged. -/
def execDirtyFifoAck (core : Nat) (s : State) : Host.Outcome State Fault Refusal := .next (fifoAck s core)

/-- RELEASE_COMPLETE (R98): the marker at the head of a core's FIFO completes its release. -/
def execReleaseComplete (core : Nat) (s : State) : Host.Outcome State Fault Refusal := .next (markerAck s core)

/-- A context that waits for the reply of a remote load. -/
def awaitsReply (c : Ctx) : Bool := c.wake.kind == 6 && c.mid == .waiting 6

/-- The number of bytes that a context awaits. -/
def awaitSize (c : Ctx) : Nat := (c.awaits.map fun a => a.2.2).sum

/-- An element of a type with bytes of a reply put in their places; of two 4-bit elements in a byte it takes its own (R152). -/
def replyElem (t : ElemType) (i off old : Nat) (bs : List Byte) : Nat :=
  if t.width = 4 then elemValue t i bs else setFld old (8 * off) (8 * bs.length) (bytesToNat bs)

/-- A vector register with a reply written into the elements that await it (R393). -/
def replyVec (t : ElemType) : List (Nat × Nat × Nat) → List Byte → List Nat → List Nat
  | [], _, xs => xs
  | (i, off, n) :: aw, bs, xs => replyVec t aw (bs.drop n) (xs.set i (replyElem t i off (xs.getD i 0) (bs.take n)))

/-- A scalar register with a reply written into it (R393). -/
def replyScalar (t : ElemType) (aw : List (Nat × Nat × Nat)) (bs : List Byte) (old : Word) : Word :=
  extendElem t ((replyVec t aw bs [lowElem t old]).headD 0)

/-- A reply written into the saved register of an image (R391, R393). -/
def replyImage (s : State) (die : Nat) (m : Image) (bs : List Byte) : State :=
  match m.ctx.wake with
  | .remote d vec ty =>
    let t := (ElemType.ofCode (BitVec.ofNat 4 ty))
    let put := fun off n (f : Nat → Nat) (old : Nat) =>
      (List.range ((n + 63) / 64)).foldl (fun s k =>
        match dramLoc s (slotAddr s die m.slot (off + 64 * k)) with
        | none => s
        | some a =>
          deviceWrite s (a / 64) (byteMask a (min 64 n))
            (sectorBytes (a % 64) (((natToBytes n (f old)).drop (64 * k)).take 64))) s
    if vec then
      let off := 0x1000 + 512 * (d % 32)
      put off 512 (fun old => (vOf t (replyVec t m.ctx.awaits bs (vElems t (BitVec.ofNat 4096 old)))).toNat)
        ((slotWide s die m.slot off 8).getD (m.ctx.getV (BitVec.ofNat 5 d)).toNat)
    else if d % 64 = 0 then s
    else
      let off := 0x100 + 8 * (d % 64)
      put off 8 (fun old => (replyScalar t m.ctx.awaits bs (wd old)).toNat)
        ((slotRead s die m.slot off 8).getD (m.ctx.getS (BitVec.ofNat 6 d)).toNat)
  | _ => s

/-- A reply that reaches a resident task: the load issues again with it (R117, R182). -/
def replyResident (s : State) (cid : Nat) : State :=
  if awaitsReply (s.ctx cid) then
    let (bs, s1) := drawBytes s (awaitSize (s.ctx cid))
    s1.modCtx cid fun c => wakeOne (.result 0) { c with reply := bs }
  else s

/-- A reply that reaches an evicted task (R393): it is written into the saved register, and it meets the condition. -/
def replyEvicted (s : State) (die : Nat) (m : Image) : State :=
  if m.ctx.met || !awaitsReply m.ctx then s
  else
    let (bs, s1) := drawBytes s (awaitSize m.ctx)
    (replyImage s1 die m bs).modDie die fun d =>
      { d with dueCount := d.dueCount + 1, images := d.images.map fun x =>
          if x.slot = m.slot then
            { x with due := some d.dueCount, ctx := { x.ctx with met := true, mid := .result 0, reply := bs } }
          else x }

/-- REMOTE_LOAD_REPLY (R117, R393, R397): the bytes that a remote load awaits have arrived for its task. The reply of a task that has
ended is dropped and counted. -/
def execRemoteLoadReply (cid : Nat) (s : State) : Host.Outcome State Fault Refusal :=
  let die := dieOf cid
  .next (match (s.die die).remotes.find? fun x => x.1 == cid with
    | none => s
    | some (k, inc) =>
      let s1 := s.modDie die fun d => { d with remotes := d.remotes.erase (k, inc) }
      match (s.die die).images.find? fun m => m.cid == cid && m.ctx.incarnation == inc with
      | some m => replyEvicted s1 die m
      | none =>
        if (s.ctx cid).incarnation = inc ∧ (s.ctx cid).st ≠ .idle then replyResident s1 cid else countDie s1 die ctrStale 1)

end Sys2Proof.Machine
end

