-- ==== Sys2Proof/Machine/MatrixArith.lean ====
section
/-! DEFINITION. The arithmetic of the joint matrix array: blocks of 64 products, expansion and compression by keep masks,
drained elements (R166 to R171, R301, R302, R304, R305). -/

namespace Sys2Proof.Machine
open Sys2Proof

/-- Products of two lists of values, element by element. -/
def products : List Fp → List Fp → List (Fp × Bool)
  | a :: as, b :: bs => mulFp a b :: products as bs
  | _, _ => []

/-- A finite product as a multiple of 2^−18 (R166). -/
def fixed18 : Fp × Bool → Int
  | (.fin n m e, _) => scaleTo n m e (-18)
  | _ => 0

/-- A finite value. -/
def Fp.isFin : Fp → Bool
  | .fin .. => true
  | _ => false

/-- The contribution p × sa × sb of a block, exact, for p in units of 2^−18: a zero one is +0 (R164 to R166, R170).
DEDUCED, log entry 33. -/
def scaledPartial (p : Int) (sa sb : Fp) : Fp :=
  let x := (mulFp (mulFp (.fin (decide (p < 0)) p.natAbs (-18)) sa).1 sb).1
  if x.isZero then .fin false 0 0 else x

/-- A K block with E4M3 operands (R166, R171): the accumulator's encoding and the flags. -/
def blockE4M3 (c : FpCtl) (zskip : Bool) (acc : Nat) (as bs : List Nat) (sa sb : Nat) : Nat × Nat :=
  let av := as.map (fpIn .e4m3 c)
  let bv := bs.map (fpIn .e4m3 c)
  if av.any Fp.isNan || bv.any Fp.isNan then ((fmtOf .fp32).nan, flagNV)
  else
    let p := ((products av bv).map fixed18).foldl (· + ·) 0
    if zskip && p == 0 then (acc, 0)
    else
      let fa := fp32Of sa
      let fb := fp32Of sb
      if !fa.isFin || !fb.isFin then ((fmtOf .fp32).nan, flagNV)
      else roundOut .fp32 { c with nov := false } (addFp c.mode (fp32Of acc) (scaledPartial p fa fb))

/-- A K block with integer operands (R167). -/
def blockInt (ta tb : ElemType) (sat : Bool) (acc : Nat) (as bs : List Nat) : Nat :=
  let p := ((as.zip bs).map fun x => intOf ta x.1 * intOf tb x.2).foldl (· + ·) 0
  fitInt .s32 sat (intOf .s32 acc + p)

/-- The exact sums of level 1 of the tree, all zero (R168, R171). -/
def pairsCancel (mode : Rounding) : List (Fp × Bool) → Bool
  | (a, _) :: (b, _) :: r => (addFp mode a b).1.isZero && pairsCancel mode r
  | _ => true

/-- A K block with BF16 operands (R168). -/
def blockBf16 (c : FpCtl) (zskip : Bool) (acc : Nat) (as bs : List Nat) : Nat × Nat :=
  let q := products (as.map (fpIn .bf16 c)) (bs.map (fpIn .bf16 c))
  if zskip && pairsCancel c.mode q then (acc, 0)
  else
    let inv := flagIf (q.any fun x => x.2) flagNV
    let (r, f) := treeLevels { c with nov := false } q.length (q.map fun x => some x.1)
    let (v, g) := roundOut .fp32 { c with nov := false } (addFp c.mode (fp32Of acc) (r.getD (.fin false 0 0)))
    (v, inv ||| f ||| g)

/-- A class of matrix operands (R169). -/
inductive MClass where
  | fp8 | int | bf16 | other
  deriving DecidableEq, Repr

/-- The class of an operand type (R169). -/
def mclass : ElemType → MClass
  | .e4m3 => .fp8
  | .s4 | .u4 | .s8 | .u8 => .int
  | .bf16 => .bf16
  | .s16 | .u16 | .s32 | .u32 | .fp16 | .fp32 | .s64 | .u64 => .other

/-- A K block by its class (R166 to R168). -/
def blockStep (c : FpCtl) (sat zskip : Bool) (ta tb : ElemType) (acc : Nat) (as bs : List Nat) (sa sb : Nat) : Nat × Nat :=
  match mclass ta with
  | .fp8 => blockE4M3 c zskip acc as bs sa sb
  | .int => (blockInt ta tb sat acc as bs, 0)
  | .bf16 => blockBf16 c zskip acc as bs
  | .other => (acc, 0)

/-! ## Keep masks -/

/-- The number of set bits of a mask. -/
def popBits : Nat → Nat → Nat
  | 0, _ => 0
  | n + 1, m => m % 2 + popBits n (m / 2)

/-- Every group of g bits of a 64-bit mask has g/2 bits set (R301). -/
def maskLegal (g m : Nat) : Bool := (List.range (64 / g)).all fun i => popBits g (fld m (g * i) g) == g / 2

/-- A compressed column expanded by its mask (R301). -/
def expandCol : Nat → Nat → List Nat → List Nat
  | 0, _, _ => []
  | k + 1, m, xs =>
    if m % 2 = 1 then xs.headD 0 :: expandCol k (m / 2) xs.tail else 0 :: expandCol k (m / 2) xs

/-- The magnitude by which MCOMP orders elements: a NaN above every number (R302). -/
def compMag (t : ElemType) (x : Nat) : Nat :=
  if t.isFloat then
    if (fpValue (fmtOf t) false x).isNan then 2 ^ t.width else x % 2 ^ (t.width - 1)
  else (intOf t x).natAbs

/-- Whether element i of a group is among the kept half: fewer than half precede it in the order of R302. -/
def keptIn (mags : List Nat) (i : Nat) : Bool :=
  let x := mags.getD i 0
  let before := mags.zipIdx.filter fun p => decide (x < p.1) || (p.1 == x && decide (p.2 < i))
  decide (before.length < mags.length / 2)

/-- The keep mask of a column of 64 elements (R302). -/
def keepMask (t : ElemType) (g : Nat) (col : List Nat) : Nat :=
  (List.range 64).foldl (fun m k =>
    let mags := (sliceList col (k / g * g) g).map (compMag t)
    if keptIn mags (k % g) then m ||| (1 <<< k) else m) 0
where
  /-- Part of a list. -/
  sliceList (xs : List Nat) (p n : Nat) : List Nat := (xs.drop p).take n

/-- The kept elements of a column in ascending order of K (R302). -/
def keptOf : Nat → List Nat → List Nat
  | _, [] => []
  | m, x :: xs => if m % 2 = 1 then x :: keptOf (m / 2) xs else keptOf (m / 2) xs

/-! ## Draining -/

/-- A drained element and its flags (R304). -/
def drainElem (cls t : ElemType) (c : FpCtl) (sat : Bool) (scale x : Nat) : Nat × Nat :=
  match cls with
  | .fp32 =>
    let p := mulFp (fp32Of x) (fp32Of scale)
    let (r, f) := roundFp (fmtOf t) c.mode c.fzo c.nov p.1
    (r, f ||| flagIf p.2 flagNV)
  | _ => (fitInt t sat (intOf .s32 x), 0)

/-- The output types that a slice of a class drains to (R304). -/
def drainOk (cls t : ElemType) : Bool :=
  match cls, t with
  | .fp32, .e4m3 | .fp32, .bf16 | .fp32, .fp16 | .fp32, .fp32 => true
  | .s32, .s8 | .s32, .s16 | .s32, .s32 => true
  | _, _ => false

/-- The magnitude of an element as FP32: S32 values convert with rounding up (R305). -/
def drainMag (cls : ElemType) (x : Nat) : Nat :=
  match cls with
  | .fp32 => if (fp32Of x).isNan then (fmtOf .fp32).nan else x % 2 ^ 31
  | _ => (roundFin (fmtOf .fp32) .rup false false false (intOf .s32 x).natAbs 0).1

/-- The tile maximum (R305): a NaN when any element is one. The encodings of non-negative numbers rise with them.
DEDUCED, log entry 36. -/
def tileMax (cls : ElemType) (xs : List Nat) : Nat :=
  let ms := xs.map (drainMag cls)
  if ms.any fun m => (fp32Of m).isNan then (fmtOf .fp32).nan else ms.foldl max 0

end Sys2Proof.Machine
end

