-- ==== Sys2Proof/Machine/Matrix.lean ====
section
/-! DEFINITION. Matrix and sparse instructions: the joint array's latches and slices, loads with format checks, products,
draining, GANG and the gang fault (spec chapter 13). -/

namespace Sys2Proof.Machine
open Sys2Proof

/-! ## Members -/

/-- A context of the GANGTASK that holds its gang (R291): a member that has not retired. -/
def isMember (s : State) (cid : Nat) : Bool :=
  let g := s.gang (gangOf cid)
  !isSup cid && g.task.isSome && (boundMembers g).contains cid

/-- The member index of a context (R290). -/
def memberIndex (cid : Nat) : Nat := colOf cid % 8

/-- A width N that R290 allows. -/
def widthOk (n : Nat) : Bool := n % 16 == 0 && decide (16 ≤ n) && decide (n ≤ 512)

/-- The operand types of matrix loads (R295): codes 0 to 3, 8 and 9. -/
def operandType (t : ElemType) : Bool := mclass t != .other

/-- The pair a bit names. -/
def pairIx (p : BitVec 1) : Fin 2 := p.toFin

/-! ## Loads with format checks -/

/-- A row as loaded: its bits, and of each of its parts the length and, for one in DRAM, its place and the tag of its line. -/
structure MRow where
  val : Nat
  parts : List (Nat × Option (Nat × Option L2Tag))

/-- One part of a matrix operand read: at its home slice as an OWN load, without an L1 copy, or at the vault (R297). -/
def matrixPart (s : State) (cid : Nat) (p : Part) : Res (List Byte × Option (Nat × Option L2Tag) × State) :=
  match p.loc with
  | .dram a => do
    let sector := a / 64
    let s1 ← atHome s sector
    let s2 ← readPart s1 p a
    let s3 ← ownHome s2 (coreOf cid) sector
    let s4 ← wantLine (recallOwner s3 (coreOf cid) sector) (sector / 4) false
    let bs := ownView s4 cid sector (s4.mem.readN (sector * 64) 64)
    .ok (sliceBytes bs (a % 64) p.len, some (a, (l2Find s4 (sector / 4)).bind (·.tag)), s4)
  | .vault a => do
    let s1 ← readPart s p a
    let bs := ownView s1 cid (a / 64) (s1.mem.readN (a / 64 * 64) 64)
    .ok (sliceBytes bs (a % 64) p.len, none, s1)
  | _ => .error illegal

/-- One row read. -/
def matrixRow (s : State) (cid : Nat) (ps : List Part) : Res (MRow × State) := do
  let (bs, ts, s1) ← ps.foldlM (fun (bs, ts, s) p => do
    let (b, t, s1) ← matrixPart s cid p
    .ok (bs ++ b, ts ++ [(p.len, t)], s1)) (([] : List Byte), ([] : List (Nat × Option (Nat × Option L2Tag))), s)
  .ok ({ val := bytesToNat bs, parts := ts }, s1)

/-- The checks of a matrix row: those of a load, with the records at its home (R112, R297). -/
def matrixCheck (s : State) (cid : Nat) (e : Elem) : Res (List Part × State) := do
  let (ps, s1) ← translateElem s cid .load .own e
  letInAll s1 cid .load ps
  let s2 ← tileCheck s1 ps .load
  raceCheck s2 cid .atomic .own ps
  .ok (ps, s2)

/-- The rows of a matrix load: every row checked before any is read (R241, R295). -/
def matrixRows (s : State) (cid : Nat) (es : List Elem) : Res (List MRow × State) := do
  let (pss, s1) ← checkAll s es fun s e => matrixCheck s cid e
  stallIf (typeWaits s1 cid .own pss.flatten) s1
  let (rs, s2) ← pss.foldlM (fun (acc, s) ps => do
    let (r, s1) ← matrixRow s cid ps
    .ok (acc ++ [r], s1)) (([] : List MRow), s1)
  if pss.flatten.any (inTile s2) then do
    let s3 ← acquire s2 .die
    .ok (rs, s3)
  else .ok (rs, s2)

/-- The format error of a line for an operand type, by its tag (R298). -/
def formatError (t : ElemType) (bside : Bool) (tag : L2Tag) : Option Nat :=
  if tag.ill then some 0
  else if bside && t == .e4m3 && tag.scl == 1 then some 2
  else if tag.fmt ≠ t.code.toNat then some 1
  else none

/-- The first format error of a load's rows: cause, stack, window and line (R298, R307). -/
def rowsError (t : ElemType) (bside : Bool) (rs : List MRow) : Option (Nat × Nat × Nat × Nat) :=
  (rs.map (·.parts)).flatten.findSome? fun x => x.2.bind fun p => p.2.bind fun tag =>
    (formatError t bside tag).map fun c => (c, tag.stack, tag.win, p.1 / 256)

/-- FP32 1.0. -/
def one32 : Nat := 0x3F800000

/-- A scale word read at its home by a load of an element (R164, R377, R399). Its fault names the word by its bank-local place:
DESIGN CHOICE, log entry 88. -/
def scaleWord (s : State) (cid elem k : Nat) : Res (Nat × State) := do
  letIn s cid .load (.dram k) k elem
  let s1 ← atHome s (k / 64)
  let s2 ← readPart s1 { va := k, len := 4, elem := elem, loc := .dram k, tide := false } k
  .ok (bytesToNat (s2.mem.readN k 4), l2Refresh s2 (k / 256))

/-- The scale index and the scale of the element at a place of DRAM whose line has a tag, by R50 in the window that tagged
the line, and the scale word read (R164, R298): free bits where its address names no DRAM. -/
def scaleAt (s : State) (cid elem a : Nat) (tag : L2Tag) : Res (Option Nat × Nat × State) :=
  if tag.scl = 0 then .ok (none, one32, s)
  else
    let w := SMap.getD (s.die (tag.stack / 2)).fw (tag.stack % 2 * 64 + tag.win) {}
    let i := match winOffset w (a / 256) with
      | some o => scaleIndex w (o + a % 256)
      | none => tag.index
    match dramLoc s (fld w.scale.toNat 2 46 * 4 + 4 * i) with
    | some k => (scaleWord s cid elem k).map fun x => (some i, x.1, x.2)
    | none => let (f, s1) := drawBits s 32; .ok (some i, f.toNat, s1)

/-- The place and tag of a byte of parts in order: none in a vault or an untagged line (R298). -/
def tagIn : List (Nat × Option (Nat × Option L2Tag)) → Nat → Option (Nat × L2Tag)
  | [], _ => none
  | (n, x) :: ps, off => if off < n then x.bind fun p => p.2.map fun t => (p.1 + off, t) else tagIn ps (off - n)

/-- The place and tag of a byte of a row. -/
def tagAt (r : MRow) (off : Nat) : Option (Nat × L2Tag) := tagIn r.parts off

/-- The scale of an A row: of its first element (R298). -/
def rowScale (t : ElemType) (s : State) (cid elem : Nat) (r : MRow) : Res (Nat × State) :=
  match t, tagAt r 0 with
  | .e4m3, some (a, tag) => (scaleAt s cid elem a tag).map fun x => (x.2.1, x.2.2)
  | _, _ => .ok (one32, s)

/-- The scales of the A rows in turn (R298). -/
def rowScales (t : ElemType) (s : State) (cid : Nat) (rs : List MRow) : Res (List Nat × State) :=
  rs.zipIdx.foldlM (fun (sc, s) r => do
    let (x, s1) ← rowScale t s cid r.2 r.1
    .ok (sc ++ [x], s1)) (([] : List Nat), s)

/-- What the column groups of an eighth have brought: scale indices, scales, and stack, window and line of the first. -/
structure GroupScales where
  idx : List (Option Nat) := []
  scales : List Nat := []
  src : Option (Nat × Nat × Nat) := none

/-- The scale indices and scales of an eighth's column groups, from its first row (R298), with the stack, window and line
of the first. DEDUCED, log entry 34. -/
def groupScales (t : ElemType) (s : State) (cid : Nat) (rs : List MRow) (n : Nat) : Res (GroupScales × State) :=
  match t, rs with
  | .e4m3, r :: _ => do
    let (x, s1) ← (List.range ((n + 127) / 128)).foldlM (fun (x, s) g =>
      match tagAt r (128 * g) with
      | none => .ok ({ x with idx := x.idx ++ [none], scales := x.scales ++ [one32] }, s)
      | some (a, tag) => (scaleAt s cid 0 a tag).map fun (i, v, s1) =>
        ({ idx := x.idx ++ [i], scales := x.scales ++ [v],
           src := x.src.orElse fun _ => i.map fun _ => (tag.stack, tag.win, a / 256) }, s1)) (({} : GroupScales), s)
    .ok ({ x with scales := (x.scales ++ List.replicate 4 one32).take 4 }, s1)
  | _, _ => .ok ({ scales := List.replicate 4 one32 }, s)

/-- The end of a matrix operand load: with lookahead its latch is written when it completes (R214, R297). -/
def finishMload (s : State) (la : BitVec 4) (l : MLoad) : State :=
  if la = 0#4 then finish (applyMload s l)
  else (finish (s.modCore (coreOf s.cur) fun c => { c with mloads := c.mloads ++ [l] })).modMe fun c =>
    { c with windows := c.windows ++ [{ left := la.toNat, dests := [], writes := [], mload := true }] }

/-- The outcome of a matrix operand load. -/
def runMload (s : State) (la : BitVec 4) (r : Res (State × MLoad)) : Host.Outcome State Fault Refusal :=
  .next (match r with | .ok (s', l) => finishMload s' la l | .error e => stopNow s e)

/-- A load of a latch that is about to fault (R379) is outstanding in the current context: by its side, and its pair where one is
named (R297). -/
def lateLoad (s : State) (bside : Bool) (pair : Option Nat) : Bool :=
  s.me.windows.any fun w => match w.late.bind (·.latch) with
    | some (b, k) => b == bside && pair.all (· == k)
    | none => false

/-- An earlier load of an A latch is outstanding (R297). -/
def aLoading (s : State) (p : BitVec 1) : Bool :=
  ((s.core (coreOf s.cur)).mloads.any fun l => !l.bside && l.pair == p.toNat) || lateLoad s false (some p.toNat)

/-- MGATH (R295, R297, R298). -/
def execMgath (la : BitVec 4) (ty : ElemType) (base : SReg) (idx : VReg) (extent : SReg) (pair : BitVec 1)
    (imm : BitVec 32) (s : State) : Host.Outcome State Fault Refusal :=
  let size := 8 * ty.width
  let ix := vElems .u32 (s.rv idx)
  let ext := (s.rs extent).toNat
  let addr := fun i => (s.rs base + wd (ix.getD i 0 % ext) * sext32 imm).toNat
  let es := (List.range 16).map fun i => ({ idx := i, va := addr i, n := size } : Elem)
  runMload s la (if !isMember s s.cur || !operandType ty || ext == 0 || decide (2 ^ 32 ≤ ext) then .error illegal
    else if es.any fun e => e.va % size != 0 then .error illegal
    else if lateLoad s false (some pair.toNat) then .error (.stall s)
    else do
      let (rs, s1) ← matrixRows s s.cur es
      match rowsError ty false rs with
      | some e => .ok (s1, { cid := s.cur, bside := false, pair := pair.toNat, interval := s.me.interval, err := some e,
                             a := { ty := ty }, b := {} })
      | none => do
        let (sc, s2) ← rowScales ty s1 s.cur rs
        .ok (s2, { cid := s.cur, bside := false, pair := pair.toNat, interval := s.me.interval,
                   a := { ty := ty, rows := rs.map (·.val), scales := sc }, b := {} }))

/-- MLDB (R296, R297, R298). -/
def execMldb (la : BitVec 4) (ty : ElemType) (base n stride : SReg) (pair : BitVec 1) (sp : Bool) (s : State) :
    Host.Outcome State Fault Refusal :=
  let w := (s.rs n).toNat
  let k := if sp then 4 else 8
  let p := memberIndex s.cur
  let addr := fun r => (s.rs base + wd (k * p + r) * s.rs stride).toNat
  let es := (List.range k).map fun r => ({ idx := r, va := addr r, n := w * ty.width / 8 } : Elem)
  let eighth : BEighth := { ty := ty, sp := sp, n := w }
  let load : MLoad := { cid := s.cur, bside := true, pair := pair.toNat, interval := s.me.interval, a := {}, b := eighth }
  runMload s la (if !isMember s s.cur || !operandType ty || !widthOk w then .error illegal
    else if es.any fun e => e.va % (2 * ty.width) != 0 then .error illegal
    else if lateLoad s true (some pair.toNat) then .error (.stall s)
    else do
      let (rs, s1) ← matrixRows s s.cur es
      match rowsError ty true rs with
      | some e => .ok (s1, { load with err := some e })
      | none => do
        let (x, s2) ← groupScales ty s1 s.cur rs w
        .ok (s2, { load with b := { eighth with rows := rs.map (·.val), idx := x.idx, scales := x.scales, src := x.src } }))

/-- The oldest outstanding long-latency instruction of a context marked complete and its results written (R214). -/
def completeFirst (p : Window → Bool) : List Window → Option (Window × List Window)
  | [] => none
  | w :: ws =>
    if !w.finished && p w then
      some (w, if w.left = 0 then ws else { w with finished := true, writes := [] } :: ws)
    else (completeFirst p ws).map fun r => (r.1, w :: r.2)

/-- A core's oldest operand load completes (R292, R298). -/
def operandLoadDone (s : State) (core : Nat) : State :=
  match (s.core core).mloads with
  | [] => s
  | l :: rest =>
    let s1 := applyMload (s.modCore core fun c => { c with mloads := rest }) l
    s1.modCtx l.cid fun c => match completeFirst (·.mload) c.windows with
      | some (_, ws) => { c with windows := ws }
      | none => c

/-- MATRIX_OPERAND_LOAD_DONE (R292, R298). -/
def execMatrixOperandLoadDone (core : Nat) (s : State) : Host.Outcome State Fault Refusal :=
  .next (operandLoadDone s core)

/-- A long-latency instruction that is to fault does so, once those that wait at a bank have been served; in a frozen core it waits
for the resumption (R378, R379). -/
def lateFault (s : State) (cid : Nat) (l : Late) : State :=
  if (s.ctx cid).st = .frozen ∨ (s.ctx cid).windows.any fun w => w.bank.isSome then s else takeFault s cid l.trap

/-- The oldest outstanding long-latency instruction of a context that no bank holds completes: its results are written, and an
enabled floating-point condition parks the context (R214, R389), or it faults (R379). -/
def completeLong (s : State) (cid : Nat) : State :=
  match completeFirst (fun w => w.bank.isNone) (s.ctx cid).windows with
  | none => s
  | some (w, ws) =>
    match w.late with
    | some l => lateFault s cid l
    | none =>
      if w.mload then
        let s1 := s.modCtx cid fun c => { c with windows := ws }
        match (s.core (coreOf cid)).mloads.find? fun l => l.cid == cid with
        | none => s1
        | some l => applyMload (s1.modCore (coreOf cid) fun c => { c with mloads := c.mloads.erase l }) l
      else parkIfEvent (s.modCtx cid fun c => applyWrites { c with windows := ws } w.writes) cid

/-- LONG_LATENCY_INSTRUCTION_COMPLETE (R214, R379, R389). -/
def execLongLatencyInstructionComplete (cid : Nat) (s : State) : Host.Outcome State Fault Refusal :=
  .next (completeLong s cid)

/-! ## Scales and zero -/

/-- A slice of the current context's core. -/
def sliceOf (s : State) (a : AReg) : AccSlice := (s.core (coreOf s.cur)).acc[a.toNat]'a.isLt

/-- A slice replaced. -/
def setSlice (s : State) (a : AReg) (x : AccSlice) : State :=
  s.modCore (coreOf s.cur) fun c => { c with acc := c.acc.set a.toNat x a.isLt }

/-- The words of a slice in the columns from n on, which its width leaves out: they keep what was written last (R9). -/
def wordsFrom (x : AccSlice) (n : Nat) : SMap Half := x.words.filter fun p => decide (n ≤ p.1 % 512)

/-- MZERO (R303). -/
def execMzero (ty : ElemType) (dst : AReg) (n : SReg) (s : State) : Host.Outcome State Fault Refusal :=
  let w := (s.rs n).toNat
  run s (if !isMember s s.cur || !widthOk w || !(ty == .fp32 || ty == .s32) then .error illegal
    else .ok ((setSlice s dst { valid := true, cls := ty, n := w, words := wordsFrom (sliceOf s dst) w }).modCore (coreOf s.cur) fun c =>
      { c with halted := none }))

/-- A B pair is empty: nothing published and nothing in its shadow (R292). -/
def bEmpty (g : Gang) (k : Fin 2) : Bool :=
  g.bpub[k].eighths.toList.all (·.st == .empty) && g.bshadow[k].eighths.isEmpty

/-- An earlier load of the current context into its eighth of a B pair is outstanding (R297). -/
def bLoading (s : State) (p : BitVec 1) : Bool :=
  ((s.core (coreOf s.cur)).mloads.any fun l => l.bside && l.cid == s.cur && l.pair == p.toNat) || lateLoad s true (some p.toNat)

/-- MSCALE (R151, R299): the one type is FP32. It waits for the earlier loads of its latch (R297, R308). -/
def execMscale (ty : ElemType) (a : VReg) (pair : BitVec 1) (bside : Bool) (s : State) :
    Host.Outcome State Fault Refusal :=
  let k := pairIx pair
  let xs := vElems .fp32 (s.rv a)
  run s (if !isMember s s.cur || ty != .fp32 then .error illegal
    else if bside && bLoading s pair then .error (.stall s)
    else if bside then
      let p := memberIndex s.cur
      if bEmpty (s.gang (gangOf s.cur)) k then .error illegal
      else .ok (s.modGang (gangOf s.cur) fun g =>
        let sh := g.bshadow[k]
        let x := { sh with scales := (sh.scales.filter fun e => e.1 != p) ++ [(p, s.me.interval, xs.take 4)] }
        { g with bshadow := g.bshadow.set k x })
    else if aLoading s pair then .error (.stall s)
    else
      let l := (s.core (coreOf s.cur)).alatch[k]
      match l.st with
      | .empty => .error illegal
      | .poisoned _ => .ok s
      | .loaded => .ok (s.modCore (coreOf s.cur) fun c => { c with alatch := c.alatch.set k { l with scales := xs.take 16 } }))

/-! ## Products -/

/-- The record that keeps an MMA from computing: of a poisoned latch, or of the halt (R306). -/
def discRecord (c : Core) (a : ALatch) (b : BLatch) : Option Nat :=
  match a.st with
  | .poisoned r => some r
  | _ => ((b.eighths.toList.findSome? fun e => match e.st with | .poisoned r => some r | _ => none).orElse
      fun _ => b.poison).orElse fun _ => c.halted

/-- One more operation discarded, in an error record (R307); the count saturates. DEDUCED, log entry 35. -/
def bumpDisc (s : State) (die r : Nat) : State :=
  s.modDie die fun d =>
    let i := r % 16
    have h : i < 16 := Nat.mod_lt _ (by decide)
    let x := d.mxrec[i].toNat
    { d with mxrec := d.mxrec.set i (BitVec.ofNat 256 (setFld x 128 24 (min (fld x 128 24 + 1) (2 ^ 24 - 1)))) h }

/-- The checks of R300 in order, with whether the B pair must be compressed. -/
def mmaOk (s : State) (cls : ElemType) (n : Nat) (x : AccSlice) (a : ALatch) (b : BLatch) (sp : Bool) : Bool :=
  let es := b.eighths.toList
  let tb := (b.eighths[0]).ty
  isMember s s.cur && s.me.interval != 0 && x.valid && x.n == n && x.cls == cls
    && a.st != .empty && es.all (fun e => e.st != .empty && e.sp == sp && e.ty == tb && decide (n ≤ e.n))
    && mclass a.ty == mclass tb && mclass tb != .other
    && (cls == if mclass tb == .int then ElemType.s32 else ElemType.fp32)

/-- The rows of a published pair as lists of elements: 64 dense or 32 compressed. -/
def bRows (b : BLatch) : List (List Nat) :=
  (b.eighths.toList.map fun e => e.rows.map fun r => unpackElems e.ty.width e.n r).flatten

/-- Column n of rows. -/
def columnOf (rows : List (List Nat)) (n : Nat) : List Nat := rows.map fun r => r.getD n 0

/-- The slice after a product, with the flags: every element of the columns below N by its own block (R300). -/
def mmaSlice (c : FpCtl) (sat zs : Bool) (n : Nat) (x : AccSlice) (a : ALatch) (tb : ElemType) (cols : List (List Nat))
    (bscales : List Nat) : AccSlice × Nat :=
  let (ws, f) := a.rows.zipIdx.foldl (fun (acc : SMap Half × Nat) ri =>
    let av := unpackElems a.ty.width 64 ri.1
    let sa := a.scales.getD ri.2 one32
    let (row, g) := cols.zipIdx.foldl (fun (acc : SMap Half × Nat) cn =>
      let key := 512 * ri.2 + cn.2
      let old := (SMap.getD x.words key 0#32).toNat
      let (v, g) := blockStep c sat zs a.ty tb old av cn.1 sa (bscales.getD (cn.2 / 128) one32)
      (acc.1 ++ [(key, BitVec.ofNat 32 v)], acc.2 ||| g)) acc
    (row ++ (wordsFrom x n).filter fun p => p.1 / 512 == ri.2, g)) ([], 0)
  ({ x with words := ws, n := n }, f)

/-- MMA and MMAS: checks, the outcome of a poisoned latch or a halted queue, or the product (R300, R301, R306). -/
def mmaInstr (s : State) (la : BitVec 4) (cls : ElemType) (dst : AReg) (n : SReg) (c : FpCtl) (sat zs : Bool)
    (pair : BitVec 1) (sp : Bool) (more : Bool) (col : List (List Nat) → Nat → List Nat) :
    Host.Outcome State Fault Refusal :=
  let k := pairIx pair
  let w := (s.rs n).toNat
  let core := s.core (coreOf s.cur)
  let a := core.alatch[k]
  let b := (s.gang (gangOf s.cur)).bpub[k]
  let x := sliceOf s dst
  let tb := (b.eighths[0]).ty
  let fp := if cls = .fp32 then [RegName.fpflags] else []
  if isMember s s.cur && aLoading s pair then .next (stallNow s)
  else runLong s la (.a dst :: fp) (if !mmaOk s cls w x a b sp || !more then .error illegal
    else match discRecord core a b with
      | some r => .ok (bumpDisc (setSlice s dst { x with valid := false }) (dieOf s.cur) r, [])
      | none =>
        let rows := bRows b
        let (x', f) := mmaSlice c sat zs w x a tb ((List.range w).map (col rows)) b.scales
        .ok (setSlice s dst x', if cls = .fp32 then [.fpflags f] else []))

/-- MMA (R300). -/
def execMma (la : BitVec 4) (ty : ElemType) (dst : AReg) (n : SReg) (rnd : Rounding) (fzi fzo sat zs : Bool)
    (pair : BitVec 1) (s : State) : Host.Outcome State Fault Refusal :=
  mmaInstr s la ty dst n (fpCtl s rnd fzi fzo) sat zs pair false true columnOf

/-- The keep mask of column n as MMAS reads it from vm onward (R301). -/
def colMask (s : State) (vm : VReg) (n : Nat) : Nat := elemOf 64 (s.rv (vPlus vm (n / 64))).toNat (n % 64)

/-- The registers that the keep masks of N columns take exist (R301, R302). -/
def masksFit (vm : VReg) (n : Nat) : Bool := decide (vm.toNat + (n + 63) / 64 ≤ 32)

/-- The group size of a compression mode (R301). -/
def groupSize (s48 : Bool) : Nat := if s48 then 8 else 4

/-- MMAS (R301). -/
def execMmas (la : BitVec 4) (ty : ElemType) (dst : AReg) (n : SReg) (vm : VReg) (rnd : Rounding) (fzi fzo sat zs : Bool)
    (pair : BitVec 1) (s48 : Bool) (s : State) : Host.Outcome State Fault Refusal :=
  let w := (s.rs n).toNat
  let legal := masksFit vm w && (List.range w).all fun n => maskLegal (groupSize s48) (colMask s vm n)
  mmaInstr s la ty dst n (fpCtl s rnd fzi fzo) sat zs pair true legal fun rows n =>
    expandCol 64 (colMask s vm n) (columnOf rows n)

/-! ## Compression -/

/-- MCOMP (R302). -/
def execMcomp (la : BitVec 4) (ty : ElemType) (dst : VReg) (a b p : SReg) (s48 : Bool) (s : State) :
    Host.Outcome State Fault Refusal :=
  let shape := (s.rs p).toNat
  let strides := s.rs (p + 1#6)
  let n := shape
  let sst : Word := (strides.extractLsb' 0 32).signExtend 64
  let dstr : Word := (strides.extractLsb' 32 32).signExtend 64
  let size := n * ty.width / 8
  let rows := (List.range 64).map fun k => ({ idx := k, va := (s.rs a + wd k * sst).toNat, n := size } : Elem)
  let outs := (List.range 32).map fun r => ({ idx := r, va := (s.rs b + wd r * dstr).toNat, n := size } : Elem)
  let regs := (List.range (min 32 ((n + 63) / 64))).map fun i => vPlus dst i
  let typeOk := ty == .s8 || ty == .u8 || ty == .e4m3 || ty == .bf16
  let aligned := (rows ++ outs).all fun e => e.va % (ty.width / 8) == 0
  runLong s la (regs.map .v) (if !typeOk || p.toNat % 2 == 1 || decide (62 ≤ p.toNat) || !widthOk n || !masksFit dst n
      || !aligned then .error illegal
    else do
      let _ ← checkAll s outs fun s e => checkStore s s.cur .store .wt true e
      let (rs, s1) ← matrixRows s s.cur rows
      let elems := rs.map fun r => unpackElems ty.width n r.val
      let cols := (List.range n).map (columnOf elems)
      let masks := cols.map (keepMask ty (groupSize s48))
      let kept := (cols.zip masks).map fun cm => keptOf cm.2 cm.1
      let data := outs.map fun e => (e, natToBytes size (packElems ty.width (kept.map fun c => c.getD e.idx 0)))
      let s2 ← storeElems mmioOps s1 s.cur .wt data
      let ws := (List.range regs.length).map fun i =>
        RegWrite.v (vPlus dst i) (BitVec.ofNat 4096 (packElems 64 ((masks.drop (64 * i)).take 64)))
      .ok (s2, ws))

/-! ## Draining -/

/-- The elements of a slice's row in the columns below N, in order. -/
def sliceRow (x : AccSlice) (r : Nat) : List Nat :=
  (List.range x.n).map fun n => (SMap.getD x.words (512 * r + n) 0#32).toNat

/-- The absmax cell of MDRAIN checked as an atomic, when it names one, and read so that an uncorrectable word is found before
anything is written (R305). -/
def cellCheck (s : State) (cell : Nat) : Res (Option Part × State) :=
  if cell = 0 then .ok (none, s)
  else do
    illegalIf (cell % 8 != 0)
    let (ps, s1) ← checkStore s s.cur .atomic .own true { idx := 0, va := cell, n := 8 }
    stallIf (fifoFull s1 s.cur || typeWaits s1 s.cur .own ps) s1
    match ps with
    | [] => .ok (none, s1)
    | p :: _ => if p.isNet then .ok (some p, s1) else (atomicOld s1 s.cur .own p).map fun r => (some p, r.2)

/-- The tile maximum merged into its cell, as AMAXF does (R251, R305). -/
def cellMerge (s : State) (cell : Option Part) (cls : ElemType) (xs : List Nat) (nskip : Bool) : Res State :=
  match cell with
  | none => .ok s
  | some p =>
    let m := tileMax cls xs
    (atomicPart s s.cur .own p
      { op := { minor := 9, ty := .fp32 }, operands := natToBytes 8 (m + (b2n nskip <<< 32)),
        new := fun bs => some (natToBytes 8 (absmaxCell (bytesToNat bs) m nskip)) }).map fun r => r.2

/-- The output scale of MDRAIN (R304). -/
def drainScale (s : State) (scale : SReg) : Nat := if scale = 0#6 then one32 else (s.rs scale).toNat % 2 ^ 32

/-- MDRAIN in its register form (R304, R305). -/
def execMdrain (la : BitVec 4) (ty : ElemType) (dst : VReg) (cell scale : SReg) (rnd : Rounding)
    (fzo sat nov nskip : Bool) (_scope : Scope) (acc : BitVec 2) (row blk : BitVec 4) (s : State) :
    Host.Outcome State Fault Refusal :=
  let x := sliceOf s acc
  let c := { fpCtl s rnd false fzo with nov := nov }
  let first := blk.toNat * ty.count
  let xs := ((sliceRow x row.toNat).drop first).take ty.count
  let ys := xs.map (drainElem x.cls ty c sat (drainScale s scale))
  let flags := ys.foldl (fun f y => f ||| y.2) 0
  let fp := if ty.isFloat then [RegName.fpflags] else []
  runLong s la (.v dst :: fp) (if !isMember s s.cur || !x.valid || !drainOk x.cls ty || decide (x.n ≤ first) then
      .error illegal
    else do
      let (p, s1) ← cellCheck s (s.rs cell).toNat
      let s2 ← retryWhole s1 (cellMerge s1 p x.cls xs nskip)
      .ok (s2, .v dst (vOf ty (ys.map (·.1))) :: if ty.isFloat then [.fpflags flags] else []))

/-- Where the vault form of MDRAIN writes: the parts, all in vaults and in one run of bytes or not. -/
def drainParts (s : State) (va n : Nat) : Res (List Part × State) := do
  illegalIf (va % 64 != 0)
  let (ps, s1) ← translateElem s s.cur .store .wt { idx := 0, va := va, n := n }
  illegalIf (ps.any fun p => match p.loc with | .vault _ => false | _ => true)
  letInAll s1 s.cur .store ps
  .ok (ps, s1)

/-- The tile that a vault range lies in, for an engine's or a drain's destination or source: none for undeclared bytes, and
an error for bytes that touch two tiles or a tile and undeclared bytes (R76, R81). -/
def partsTile (s : State) (ps : List (Nat × Nat)) : Except Unit (Option (Nat × Nat)) :=
  let touched := ps.map fun p => (vaultNo p.1, tilePlace s p.1 p.2)
  if touched.all fun t => t.2 == .plain then .ok none
  else match touched with
    | (v, .inTile e) :: _ => if touched.all fun t => t == (v, .inTile e) then .ok (some (v, e)) else .error ()
    | _ => .error ()

/-- Bytes put at the places of one arrival, in order: a copy of a redundant run holds them back (R406). -/
def arriveAt (s : State) (r : Option (Nat × Nat)) (places : List (Nat × Nat)) (bs : List Byte) : State :=
  (places.foldl (fun (acc : State × List Byte) c =>
    (arriveBytes acc.1 r (c.1 / 64) (byteMask c.1 c.2) (sectorBytes (c.1 % 64) (acc.2.take c.2)), acc.2.drop c.2)) (s, bs)).1

/-- Arrivals of up to 256 bytes at a tile until one is refused: the status (R80, R81, R304). Each part lies in one sector. -/
def drainArrivals (r : Option (Nat × Nat)) (v e : Nat) : Nat → List (Nat × Nat) → List Byte → State → Nat × State
  | 0, _, _, s => (0, s)
  | f + 1, places, bs, s =>
    if bs.isEmpty then (0, s)
    else
      let k := min 256 bs.length
      match tileStep (s.tile (v * 128 + e)) (.arrival k) with
      | .ok t =>
        let s1 := arriveAt s r (places.take 4) (bs.take k)
        drainArrivals r v e f (places.drop 4) (bs.drop k) (changeTile s1 v e t)
      | .refused t => (4, s.setTile (v * 128 + e) t)
      | _ => (5, s)

/-- The writes of the vault form: into a tile as a destination start and arrivals, else as WT stores. The status (R304). -/
def drainWrite (s : State) (ps : List Part) (bytes : List Byte) : Res (Nat × State) :=
  let places := ps.map fun p => (p.loc.mem?.getD 0, p.len)
  match partsTile s places with
  | .error () => .ok (5, s)
  | .ok (some (v, e)) =>
    match tileStep (s.tile (v * 128 + e)) (.destStart bytes.length) with
    | .ok t =>
      let (st, s1) := drainArrivals (runOf s s.cur) v e bytes.length places bytes (changeTile s v e t)
      if st = 0 then .ok (0, s1)
      else match tileStep (s1.tile (v * 128 + e)) .fillAbort with
        | .ok t => .ok (st, changeTile s1 v e t)
        | _ => .ok (st, s1)
    | .waits => .error (.stall s)
    | _ => .ok (5, s)
  | .ok none => do
    storeCauses s ps
    raceCheck s s.cur .store .wt ps
    stallIf (fifoFull s s.cur || typeWaits s s.cur .wt ps) s
    (storeParts mmioOps s s.cur .wt true ps bytes).map fun s1 => (0, s1)

/-- MDRAIN in its vault form (R304, R305). -/
def execMdrainVault (la : BitVec 4) (ty : ElemType) (dst base cell scale : SReg) (rnd : Rounding)
    (fzo sat nov nskip : Bool) (_scope : Scope) (acc : BitVec 2) (s : State) : Host.Outcome State Fault Refusal :=
  let x := sliceOf s acc
  let c := { fpCtl s rnd false fzo with nov := nov }
  let xs := ((List.range 16).map (sliceRow x)).flatten
  let ys := xs.map (drainElem x.cls ty c sat (drainScale s scale))
  let flags := ys.foldl (fun f y => f ||| y.2) 0
  let fp := if ty.isFloat then [RegName.fpflags] else []
  let size := x.n * ty.width / 8
  let bytes := natToBytes (16 * size) (packElems ty.width (ys.map (·.1)))
  runLong s la (.s dst :: fp) (if !isMember s s.cur || !x.valid || !drainOk x.cls ty then .error illegal
    else do
      let (ps, s1) ← drainParts s (s.rs base).toNat (16 * size)
      let (p, s2) ← cellCheck s1 (s.rs cell).toNat
      let (st, s3) ← retryWhole s2 (drainWrite s2 ps bytes)
      let s4 ← retryWhole s2 (cellMerge s3 p x.cls xs nskip)
      .ok (s4, .s dst (wd st) :: if ty.isFloat then [.fpflags flags] else []))

/-! ## GANG -/

/-- GANG (R293, R294). -/
def execGang (s : State) : Host.Outcome State Fault Refusal :=
  let g := gangOf s.cur
  .next (if !isMember s s.cur then stopNow s illegal
    else match s.me.mid with
      | .released => finish s
      | _ =>
        if !(s.gang g).retired.isEmpty then gangFault s g (some s.cur)
        else if ((s.core (coreOf s.cur)).mloads.any fun l => l.bside && l.cid == s.cur) || lateLoad s true none then stallNow s
        else stallNow (s.modMe fun c => { c with atGang := true, mid := .waiting 293 }))

/-- Two scale indices of one column group that do not differ: an eighth that brings none differs from none (R298).
DEDUCED, log entry 34. -/
def sameIndex : Option Nat → Option Nat → Bool
  | some i, some j => i == j
  | _, _ => true

/-- The scale indices of eighths, equal in every column group that two of them bring one for (R298). -/
def indicesAgree : List (List (Option Nat)) → Bool
  | [] => true
  | x :: xs => xs.all (fun y => (x.zip y).all fun p => sameIndex p.1 p.2) && indicesAgree xs

/-- One pair published (R293, R298): the eighths written replace the published ones, and so do the scales, of which those
set by MSCALE of the highest member go before those of the loads. -/
def publishPair (s : State) (g : Nat) (k : Fin 2) : State :=
  let x := s.gang g
  let sh := x.bshadow[k]
  let old := x.bpub[k]
  if sh.eighths.isEmpty && sh.scales.isEmpty then s
  else
    let es := sh.eighths.foldl (fun (v : Vector BEighth 8) e =>
      v.set (e.1 % 8) e.2.2 (Nat.mod_lt _ (by decide))) old.eighths
    let loaded := if sh.eighths.isEmpty then old.scales
      else (List.range 4).map fun j => ((List.range 8).findSome? fun p =>
        match sh.eighths.find? fun e => e.1 == p with
        | some e => (e.2.2.idx.getD j none).map fun _ => e.2.2.scales.getD j one32
        | none => none).getD one32
    let top := (List.range 8).reverse.findSome? fun p => (sh.scales.find? fun e => e.1 == p).map fun e => e.2.2
    let scales := top.getD loaded
    let differ := es.toList.all (fun e => e.st == .loaded && e.ty == .e4m3)
      && !indicesAgree (es.toList.map (·.idx))
    let (poison, s1) :=
      if sh.eighths.isEmpty then (old.poison, s)
      else if differ then
        let (stack, win, line) := (es[0]).src.getD (0, 0, 0)
        let first := ((coresOfGang g).headD 0) * 16
        let (r, s1) := mxWrite s (g / 20) (mxRecord first k.val true (2, stack, win, line))
        (some r, s1)
      else (none, s)
    s1.modGang g fun x => { x with bpub := x.bpub.set k { eighths := es, scales := scales, poison := poison },
                                   bshadow := x.bshadow.set k {} }

/-- GANG_BARRIER_COMPLETE (R293): with all eight members at their GANG, the shadows are published and the members go on. -/
def execGangBarrierComplete (gang : Nat) (s : State) : Host.Outcome State Fault Refusal :=
  let g := s.gang gang
  .next (if g.task.isSome && g.members.length == 8 && g.members.all fun m => (s.ctx m).atGang then
      let s1 := publishPair (publishPair s gang 0) gang 1
      g.members.foldl (fun s m => s.modCtx m fun c =>
        { c with atGang := false, interval := c.interval + 1, mid := .released,
                 st := if c.st = .stalled then .ready else c.st }) s1
    else s)

end Sys2Proof.Machine
end

