-- ==== Sys2Proof/Machine/RegSets.lean ====
section
/-! DEFINITION. The registers that each instruction reads and writes, and the checks that issue makes with them: lookahead
windows and register codes (R180, R192, R214, R398, R400). -/

namespace Sys2Proof.Machine
open Sys2Proof

/-! ## Registers used -/

/-- The mask register of a mask field (R210). -/
def maskUse (mask : BitVec 3) : List RegName := if mask = 0#3 then [] else [.m mask]
/-- The destination as an operand, where inactive elements keep its old values (R267). -/
def keepUse (mask : BitVec 3) (z : Bool) (dst : VReg) : List RegName := if mask = 0#3 ∨ z then [] else [.v dst]
/-- c.round, for the dynamic mode (R158, R159). -/
def dynUse (rnd : Rounding) : List RegName := if rnd = .dyn then [.ctl 1] else []
/-- c.fpflags, for an instruction that can set a flag (R214). -/
def flagUse (b : Bool) : List RegName := if b then [.fpflags] else []
/-- The shift amounts of a vector shift: none in the immediate form (R275). -/
def shiftUse (immk : Bool) (b : VReg) : List RegName := if immk then [] else [.v b]
/-- The scale of MDRAIN: none for an S32 slice (R304). -/
def scaleUse (ty : ElemType) (r : SReg) : List RegName := if ty.isFloat then [.s r] else []
/-- A control register by its number (R232). -/
def ctlUse (n : Nat) : List RegName := if n = 2 then [.fpflags] else [.ctl n]
/-- A scalar register and the next (R247, R261, R262, R302). -/
def sPair (r : SReg) : List RegName := [.s r, .s (r + 1#6)]
/-- A run of vector registers (R268, R301). -/
def vGroup (r : VReg) (k : Nat) : List RegName := (List.range k).map fun i => .v (vPlus r i)
/-- The registers that the keep masks of N columns take (R301). -/
def maskRegs (n : Word) : Nat := min 32 ((n.toNat + 63) / 64)

/-- The registers that an instruction reads, and those that it writes. Events use none. -/
def regUse (s : State) : Instr → List RegName × List RegName
  | .add dst a b _ => ([.s a, .s b], [.s dst])
  | .sub dst a b _ => ([.s a, .s b], [.s dst])
  | .mul dst a b _ => ([.s a, .s b], [.s dst])
  | .mulh dst a b => ([.s a, .s b], [.s dst])
  | .mulhu dst a b => ([.s a, .s b], [.s dst])
  | .div _ dst a b => ([.s a, .s b], [.s dst])
  | .divu _ dst a b => ([.s a, .s b], [.s dst])
  | .rem _ dst a b => ([.s a, .s b], [.s dst])
  | .remu _ dst a b => ([.s a, .s b], [.s dst])
  | .andR dst a b => ([.s a, .s b], [.s dst])
  | .orR dst a b => ([.s a, .s b], [.s dst])
  | .xorR dst a b => ([.s a, .s b], [.s dst])
  | .andn dst a b => ([.s a, .s b], [.s dst])
  | .shl dst a b => ([.s a, .s b], [.s dst])
  | .shr dst a b => ([.s a, .s b], [.s dst])
  | .sar dst a b => ([.s a, .s b], [.s dst])
  | .rot dst a b => ([.s a, .s b], [.s dst])
  | .minS dst a b => ([.s a, .s b], [.s dst])
  | .maxS dst a b => ([.s a, .s b], [.s dst])
  | .minu dst a b => ([.s a, .s b], [.s dst])
  | .maxu dst a b => ([.s a, .s b], [.s dst])
  | .seq dst a b => ([.s a, .s b], [.s dst])
  | .slt dst a b => ([.s a, .s b], [.s dst])
  | .sltu dst a b => ([.s a, .s b], [.s dst])
  | .addi dst a _ => ([.s a], [.s dst])
  | .subImm dst a _ => ([.s a], [.s dst])
  | .mulImm dst a _ => ([.s a], [.s dst])
  | .mulhImm dst a _ => ([.s a], [.s dst])
  | .mulhuImm dst a _ => ([.s a], [.s dst])
  | .divImm _ dst a _ => ([.s a], [.s dst])
  | .divuImm _ dst a _ => ([.s a], [.s dst])
  | .remImm _ dst a _ => ([.s a], [.s dst])
  | .remuImm _ dst a _ => ([.s a], [.s dst])
  | .andImm dst a _ => ([.s a], [.s dst])
  | .orImm dst a _ => ([.s a], [.s dst])
  | .xorImm dst a _ => ([.s a], [.s dst])
  | .andnImm dst a _ => ([.s a], [.s dst])
  | .shlImm dst a _ => ([.s a], [.s dst])
  | .shrImm dst a _ => ([.s a], [.s dst])
  | .sarImm dst a _ => ([.s a], [.s dst])
  | .rotImm dst a _ => ([.s a], [.s dst])
  | .minImm dst a _ => ([.s a], [.s dst])
  | .maxImm dst a _ => ([.s a], [.s dst])
  | .minuImm dst a _ => ([.s a], [.s dst])
  | .maxuImm dst a _ => ([.s a], [.s dst])
  | .seqImm dst a _ => ([.s a], [.s dst])
  | .sltImm dst a _ => ([.s a], [.s dst])
  | .sltuImm dst a _ => ([.s a], [.s dst])
  | .mad dst a b c _ => ([.s a, .s b, .s c], [.s dst])
  | .clz dst a => ([.s a], [.s dst])
  | .popc dst a => ([.s a], [.s dst])
  | .brev dst a => ([.s a], [.s dst])
  | .exts dst a _ _ => ([.s a], [.s dst])
  | .extu dst a _ _ => ([.s a], [.s dst])
  | .ins dst a _ _ => ([.s a, .s dst], [.s dst])
  | .sel dst a b c => ([.s a, .s b, .s c], [.s dst])
  | .li dst _ => ([], [.s dst])
  | .lih dst _ => ([.s dst], [.s dst])
  | .addr dst _ => ([], [.s dst])
  | .fadd dst a b _ rnd _ _ => ([.s a, .s b] ++ dynUse rnd, [.s dst, .fpflags])
  | .fsub dst a b _ rnd _ _ => ([.s a, .s b] ++ dynUse rnd, [.s dst, .fpflags])
  | .fmul dst a b _ rnd _ _ => ([.s a, .s b] ++ dynUse rnd, [.s dst, .fpflags])
  | .ffma dst a b c _ rnd _ _ => ([.s a, .s b, .s c] ++ dynUse rnd, [.s dst, .fpflags])
  | .fmin dst a b _ rnd _ _ => ([.s a, .s b] ++ dynUse rnd, [.s dst, .fpflags])
  | .fmax dst a b _ rnd _ _ => ([.s a, .s b] ++ dynUse rnd, [.s dst, .fpflags])
  | .fcmp dst a b _ _ _ _ => ([.s a, .s b], [.s dst, .fpflags])
  | .fcvt dst a ty src rnd _ _ _ _ => ([.s a] ++ dynUse rnd, [.s dst] ++ flagUse (ty.isFloat || src.isFloat))
  | .br _ => ([], [])
  | .beq a b _ => ([.s a, .s b], [])
  | .bne a b _ => ([.s a, .s b], [])
  | .blt a b _ => ([.s a, .s b], [])
  | .bge a b _ => ([.s a, .s b], [])
  | .bltu a b _ => ([.s a, .s b], [])
  | .bgeu a b _ => ([.s a, .s b], [])
  | .bz a _ => ([.s a], [])
  | .bnz a _ => ([.s a], [])
  | .jmp dst a => ([.s a], [.s dst])
  | .call dst _ => ([], [.s dst])
  | .ret a => ([.s a], [])
  | .loop a _ => ([.s a], [.s a])
  | .align _ => ([], [])
  | .rep a _ => ([.s a], [])
  | .nop => ([], [])
  | .retire => ([], [])
  | .ld _ _ dst base _ _ _ _ => ([.s base], [.s dst])
  | .st _ base data _ _ _ _ => ([.s base, .s data], [])
  | .ldv _ _ dst base _ mask z _ => ([.s base] ++ maskUse mask ++ keepUse mask z dst, [.v dst])
  | .stv _ base data _ mask _ => ([.s base, .v data] ++ maskUse mask, [])
  | .ldvs _ _ dst base stride _ mask z _ => ([.s base, .s stride] ++ maskUse mask ++ keepUse mask z dst, [.v dst])
  | .stvs _ base data stride _ mask _ => ([.s base, .v data, .s stride] ++ maskUse mask, [])
  | .gath _ _ dst base idx extent _ mask z _ =>
    ([.s base, .v idx, .s extent] ++ maskUse mask ++ keepUse mask z dst, [.v dst])
  | .scat _ base idx data extent _ mask _ => ([.s base, .v idx, .v data, .s extent] ++ maskUse mask, [])
  | .scatAcc ty base idx data extent _ mask _ _ rnd _ _ =>
    ([.s base, .v idx, .v data, .s extent] ++ maskUse mask ++ dynUse rnd, flagUse ty.isFloat)
  | .ldt _ _ dst base _ mask z => ([.s base] ++ maskUse mask ++ keepUse mask z dst, [.v dst])
  | .stt _ base data _ mask => ([.s base, .v data] ++ maskUse mask, [])
  | .tdecl base size _ _ => ([.s base, .s size], [])
  | .tstateRead dst base _ => ([.s base], sPair dst)
  | .tstateArm dst base n _ => ([.s base, .s n], sPair dst)
  | .tstateReady dst base _ => ([.s base], sPair dst)
  | .tstateEmpty dst base _ => ([.s base], sPair dst)
  | .tfree base _ => ([.s base], [])
  | .cinv base len _ => ([.s base, .s len], [])
  | .cinvI base len _ => ([.s base, .s len], [])
  | .cflush base len _ => ([.s base, .s len], [])
  | .promote _ dst base _ => ([.s base], [.s dst])
  | .shpin _ dst base _ => ([.s base], [.s dst])
  | .shunpin _ dst base _ _ => ([.s base], [.s dst])
  | .bcastw _ base data _ => ([.s base, .v data], [])
  | .amoAdd _ _ dst base b _ _ _ _ => ([.s base, .s b], [.s dst])
  | .amoMin _ _ dst base b _ _ _ _ => ([.s base, .s b], [.s dst])
  | .amoMax _ _ dst base b _ _ _ _ => ([.s base, .s b], [.s dst])
  | .amoAnd _ _ dst base b _ _ _ _ => ([.s base, .s b], [.s dst])
  | .amoOr _ _ dst base b _ _ _ _ => ([.s base, .s b], [.s dst])
  | .amoXor _ _ dst base b _ _ _ _ => ([.s base, .s b], [.s dst])
  | .amoSwap _ _ dst base b _ _ _ _ => ([.s base, .s b], [.s dst])
  | .cas _ _ dst base b c _ _ _ _ => ([.s base, .s b, .s c], [.s dst])
  | .amaxf _ _ dst base b _ _ _ _ _ => ([.s base, .s b], [.s dst])
  | .fence _ _ => ([], [])
  | .publ _ _ => ([], [])
  | .tide level => ([.ctl (0x0F + level.toNat % 8)], [])
  | .bari base b _ _ _ => ([.s base, .s b], [])
  | .bara dst base n _ _ _ => ([.s base, .s n], [.s dst])
  | .barw dst base p _ _ _ => ([.s base, .s p], [.s dst])
  | .wbar dst base n _ _ _ => ([.s base, .s n], [.s dst])
  | .cmpl base v _ _ => ([.s base, .s v], [])
  | .waitw dst base v bound _ _ _ _ _ => ([.s base, .s v, .s bound], [.s dst])
  | .vadd ty dst a b mask z rnd _ _ _ =>
    ([.v a, .v b] ++ maskUse mask ++ keepUse mask z dst ++ dynUse rnd, [.v dst] ++ flagUse ty.isFloat)
  | .vsub ty dst a b mask z rnd _ _ _ =>
    ([.v a, .v b] ++ maskUse mask ++ keepUse mask z dst ++ dynUse rnd, [.v dst] ++ flagUse ty.isFloat)
  | .vmul ty dst a b mask z rnd _ _ _ =>
    ([.v a, .v b] ++ maskUse mask ++ keepUse mask z dst ++ dynUse rnd, [.v dst] ++ flagUse ty.isFloat)
  | .vfma ty dst a b c mask z rnd _ _ _ =>
    ([.v a, .v b, .v c] ++ maskUse mask ++ keepUse mask z dst ++ dynUse rnd, [.v dst] ++ flagUse ty.isFloat)
  | .vmin ty dst a b mask z rnd _ _ _ =>
    ([.v a, .v b] ++ maskUse mask ++ keepUse mask z dst ++ dynUse rnd, [.v dst] ++ flagUse ty.isFloat)
  | .vmax ty dst a b mask z rnd _ _ _ =>
    ([.v a, .v b] ++ maskUse mask ++ keepUse mask z dst ++ dynUse rnd, [.v dst] ++ flagUse ty.isFloat)
  | .vabs ty dst a mask z rnd _ _ _ =>
    ([.v a] ++ maskUse mask ++ keepUse mask z dst ++ dynUse rnd, [.v dst] ++ flagUse ty.isFloat)
  | .vneg ty dst a mask z rnd _ _ _ =>
    ([.v a] ++ maskUse mask ++ keepUse mask z dst ++ dynUse rnd, [.v dst] ++ flagUse ty.isFloat)
  | .vand _ dst a b mask z => ([.v a, .v b] ++ maskUse mask ++ keepUse mask z dst, [.v dst])
  | .vor _ dst a b mask z => ([.v a, .v b] ++ maskUse mask ++ keepUse mask z dst, [.v dst])
  | .vxor _ dst a b mask z => ([.v a, .v b] ++ maskUse mask ++ keepUse mask z dst, [.v dst])
  | .vshl _ dst a b mask z immk _ => ([.v a] ++ shiftUse immk b ++ maskUse mask ++ keepUse mask z dst, [.v dst])
  | .vshr _ dst a b mask z immk _ => ([.v a] ++ shiftUse immk b ++ maskUse mask ++ keepUse mask z dst, [.v dst])
  | .vsar _ dst a b mask z immk _ => ([.v a] ++ shiftUse immk b ++ maskUse mask ++ keepUse mask z dst, [.v dst])
  | .vcmp ty dst a b _ mask z =>
    ([.v a, .v b] ++ maskUse mask ++ (if mask = 0#3 ∨ z then [] else [.m dst]), [.m dst] ++ flagUse ty.isFloat)
  | .vsel _ dst a b mc mask z => ([.v a, .v b, .m mc] ++ maskUse mask ++ keepUse mask z dst, [.v dst])
  | .vmov _ dst a mask z => ([.v a] ++ maskUse mask ++ keepUse mask z dst, [.v dst])
  | .vmovToMask dst a => ([.v a], [.m dst])
  | .vmovFromMask dst a => ([.m a], [.v dst])
  | .vmovsToScalar _ dst a k => ([.v a, .s k], [.s dst])
  | .vmovsToVector _ dst a k => ([.s a, .s k, .v dst], [.v dst])
  | .vbcast _ dst a mask z => ([.s a] ++ maskUse mask ++ keepUse mask z dst, [.v dst])
  | .viota _ dst a mask z => ([.s a] ++ maskUse mask ++ keepUse mask z dst, [.v dst])
  | .vcvt ty dst a src mask z rnd _ _ _ _ =>
    (maskUse mask ++ keepUse mask z dst ++ vGroup a (regsFor (max ty.count src.count) src.width) ++ dynUse rnd, vGroup dst (regsFor (max ty.count src.count) ty.width) ++ flagUse (ty.isFloat || src.isFloat))
  | .vwmul ty dst a b mask z rnd _ _ =>
    ([.v a, .v b] ++ maskUse mask ++ keepUse mask z dst ++ dynUse rnd, vGroup dst 2 ++ flagUse ty.isFloat)
  | .vwadd ty dst a b mask z rnd _ _ =>
    ([.v a, .v b] ++ maskUse mask ++ keepUse mask z dst ++ dynUse rnd, vGroup dst 2 ++ flagUse ty.isFloat)
  | .vnarrow ty dst a _ _ mask z _ => (maskUse mask ++ keepUse mask z dst ++ vGroup a 2, [.v dst] ++ flagUse ty.isFloat)
  | .vdot _ ty dst a b len rnd _ _ _ => ([.v a, .v b, .s len] ++ dynUse rnd, [.s dst] ++ flagUse ty.isFloat)
  | .vred _ ty dst a _ mask rnd _ _ _ => ([.v a] ++ maskUse mask ++ dynUse rnd, [.s dst] ++ flagUse ty.isFloat)
  | .vscan _ ty dst a init _ mask z rnd _ _ _ _ =>
    ([.v a, .s init] ++ maskUse mask ++ keepUse mask z dst ++ dynUse rnd, [.v dst] ++ flagUse ty.isFloat)
  | .vperm ty dst a b mask z =>
    ([.v a] ++ maskUse mask ++ keepUse mask z dst ++ vGroup b (if ty.width = 8 then 2 else 1), [.v dst])
  | .vrot _ dst a k mask z => ([.v a, .s k] ++ maskUse mask ++ keepUse mask z dst, [.v dst])
  | .vcompr _ dst a mask z => ([.v a] ++ maskUse mask ++ keepUse mask z dst, [.v dst])
  | .vexpand _ dst a mask z => ([.v a] ++ maskUse mask ++ keepUse mask z dst, [.v dst])
  | .vexp2 _ ty dst a mask z _ _ => ([.v a] ++ maskUse mask ++ keepUse mask z dst, [.v dst] ++ flagUse ty.isFloat)
  | .vexp _ ty dst a mask z _ _ => ([.v a] ++ maskUse mask ++ keepUse mask z dst, [.v dst] ++ flagUse ty.isFloat)
  | .vlog2 _ ty dst a mask z _ _ => ([.v a] ++ maskUse mask ++ keepUse mask z dst, [.v dst] ++ flagUse ty.isFloat)
  | .vlog _ ty dst a mask z _ _ => ([.v a] ++ maskUse mask ++ keepUse mask z dst, [.v dst] ++ flagUse ty.isFloat)
  | .vrcp _ ty dst a mask z _ _ => ([.v a] ++ maskUse mask ++ keepUse mask z dst, [.v dst] ++ flagUse ty.isFloat)
  | .vrsq _ ty dst a mask z _ _ => ([.v a] ++ maskUse mask ++ keepUse mask z dst, [.v dst] ++ flagUse ty.isFloat)
  | .vsqrt _ ty dst a mask z _ _ => ([.v a] ++ maskUse mask ++ keepUse mask z dst, [.v dst] ++ flagUse ty.isFloat)
  | .vtanh _ ty dst a mask z _ _ => ([.v a] ++ maskUse mask ++ keepUse mask z dst, [.v dst] ++ flagUse ty.isFloat)
  | .gang => ([], [])
  | .mzero _ dst n => ([.s n], [.a dst])
  | .mldb _ _ base n stride _ _ => ([.s base, .s n, .s stride], [])
  | .mgath _ _ base idx extent _ _ => ([.s base, .v idx, .s extent], [])
  | .mma _ ty dst n rnd _ _ _ _ _ => ([.s n, .a dst] ++ dynUse rnd, [.a dst] ++ flagUse (ty == .fp32))
  | .mmas _ ty dst n vm rnd _ _ _ _ _ _ =>
    ([.s n, .a dst] ++ vGroup vm (maskRegs (s.rs n)) ++ dynUse rnd, [.a dst] ++ flagUse (ty == .fp32))
  | .mcomp _ _ dst a b p _ => ([.s a, .s b] ++ sPair p, vGroup dst (maskRegs (s.rs p)))
  | .mscale _ a _ _ => ([.v a], [])
  | .mdrain _ ty dst cell scale rnd _ _ _ _ _ acc _ _ =>
    ([.s cell] ++ scaleUse ty scale ++ [.a acc] ++ dynUse rnd, [.v dst] ++ flagUse ty.isFloat)
  | .mdrainVault _ ty dst base cell scale rnd _ _ _ _ _ acc =>
    ([.s base, .s cell] ++ scaleUse ty scale ++ [.a acc] ++ dynUse rnd, [.s dst] ++ flagUse ty.isFloat)
  | .copy h d src len _ _ _ => ([.s d, .s src, .s len], [.h h])
  | .copy2d h d src p _ _ _ => ([.s d, .s src] ++ sPair p, [.h h])
  | .put h r l n _ _ sig _ => ([.s r, .s l] ++ (if sig then sPair n else [.s n]), [.h h])
  | .get h l r n _ _ _ => ([.s l, .s r, .s n], [.h h])
  | .radd _ h r b _ _ => ([.s r, .s b], [.h h])
  | .trig h a _ => ([.s a], [.h h])
  | .cnti _ b _ _ => ([.s b], [])
  | .cntr dst _ => ([], [.s dst])
  | .htest dst h => ([.h h], [.s dst])
  | .hcancel h => ([.h h], [])
  | .hwait dst h => ([.h h], [.s dst, .h h])
  | .hwaitToken dst k => ([.s k], [.s dst])
  | .hmov dst h => ([.h h], [.h dst, .h h])
  | .htok dst h => ([.h h], [.s dst, .h h])
  | .rgrp dst spec => ([.s spec], [.s dst])
  | .rgrpFree dst g => ([.s g], [.s dst])
  | .nload dst g a n => ([.s g, .s a, .s n], [.s dst])
  | .redcfg dst g c a => ([.s g, .s c, .s a], [.s dst])
  | .rstep h g a => ([.s g, .s a], [.h h])
  | .rstat dst g _ => ([.s g], [.s dst])
  | .sqins _ dst a mask => ([.v a] ++ maskUse mask ++ [.v dst], [.v dst, .fpflags])
  | .shins _ dst a mask => ([.v a] ++ maskUse mask ++ [.v dst], [.v dst])
  | .sdins _ dst a mask => ([.v a] ++ maskUse mask ++ [.v dst], [.v dst])
  | .smerge _ dst a b _ => ([.v a, .v b], [.v dst])
  | .sqq _ dst a q => ([.v a, .s q], [.s dst, .fpflags])
  | .sqrank _ dst a x => ([.v a, .s x], [.s dst, .fpflags])
  | .shtop dst a j => ([.v a, .s j], [.s dst])
  | .sdest dst a => ([.v a], [.s dst])
  | .scoin dst a init => ([.s a] ++ (if init then [] else [.v dst]), [.v dst])
  | .gnode dst a => ([.s a], [.s dst])
  | .gdep dst a b => ([.s a, .s b], [.s dst])
  | .gsub h a => ([.s a], [.h h])
  | .crew dst _ => ([], [.s dst])
  | .yield _ => ([], [])
  | .rdc dst num => (ctlUse num.toNat, [.s dst])
  | .wrc num a => ([.s a], ctlUse num.toNat)
  | .trap _ => ([], [])
  | .pair dst _ => ([], [.s dst])
  | .unpair dst => ([], [.s dst])
  | .idle dst _ => ([], [.s dst])
  | .svres dst a _ _ => ([.s a], [.s dst])
  | _ => ([], [])

/-! ## Lookahead windows -/

/-- A register whose writes are discarded, so that no instruction writes it (R218). -/
def RegName.discards : RegName → Bool
  | .s r => r == 0#6
  | _ => false

/-- A window whose destination set holds a register that an instruction reads or writes (R214). -/
def windowHit (us : List RegName) (w : Window) : Bool :=
  decide (0 < w.left) && us.any fun u => !u.discards && w.dests.contains u

/-- A summary instruction (R348). -/
def isSummary : Instr → Bool
  | .sqins .. | .shins .. | .sdins .. | .smerge .. | .sqq .. | .sqrank .. | .shtop .. | .sdest .. | .scoin .. => true
  | _ => false

/-- A core's vector unit still runs a summary instruction (R351). -/
def summaryBusy (s : State) (core : Nat) : Bool :=
  (ctxsOf core).any fun k => (s.ctx k).windows.any fun w => w.summary && !w.finished

/-- What lookahead windows do to an instruction (R214, R351): past a window it waits for the owner, as RETIRE and a summary
instruction while one of its core is unfinished do; within one it may not touch the owner's destination set.
DEDUCED, log entry 56. -/
def windowCheck (s : State) (i : Instr) : Res Unit :=
  let ws := s.me.windows
  let u := regUse s i
  let last := match i with | .retire => true | _ => false
  if ws.any fun w => (w.left == 0 || last) && !w.finished then .error (.stall s)
  else if isSummary i && summaryBusy s (coreOf s.cur) then .error (.stall s)
  else trapIf (ws.any (windowHit (u.1 ++ u.2))) (.trap { code := 0x14 })

/-! ## Register codes -/

/-- The file and number of a register as fault 0x28 reports them (R398). -/
def RegName.code : RegName → Option (Nat × Nat)
  | .s r => some (0, r.toNat)
  | .v r => some (1, r.toNat)
  | .m r => some (2, r.toNat)
  | .h _ => none
  | .a r => some (4, r.toNat)
  | .fpflags => some (3, 2)
  | .ctl n => some (3, n)

/-- A 32-bit word of a register replaced. -/
def patchWord (w : Nat) (x k : Nat) (v : Half) : BitVec w := BitVec.ofNat w (setFld x (32 * k) 32 v.toNat)

/-- A 32-bit word of a register of the current context, or of an accumulator slice of its core, replaced. -/
def patchReg (s : State) (u : RegName) (k : Nat) (v : Half) : State :=
  match u with
  | .s r => s.setS r (patchWord 64 (s.rs r).toNat (k % 2) v)
  | .v r => s.setV r (patchWord 4096 (s.rv r).toNat (k % 128) v)
  | .m r => s.setM r (patchWord 1024 (s.rm r).toNat (k % 32) v)
  | .h _ => s
  | .a r => s.modCore (coreOf s.cur) fun c =>
      { c with acc := c.acc.set r.toNat { c.acc[r.toNat] with words := SMap.put c.acc[r.toNat].words k v } }
  | .fpflags => s.modMe fun c => setCtl c 2 (patchWord 64 c.fpflags.toNat (k % 2) v).toNat
  | .ctl n => s.modMe fun c => match ctlRead s s.cur n with
      | some x => setCtl c n (patchWord 64 x (k % 2) v).toNat
      | none => c

/-- The REGCORR counter (R407). -/
def ctrRegcorr : Nat := 0x08

/-- An instruction whose operands name memory, so that the context's address space is read (R34, R42, R259). -/
def namesMemory : Instr → Bool
  | .ld .. | .st .. | .ldv .. | .stv .. | .ldvs .. | .stvs .. | .gath .. | .scat .. | .scatAcc .. | .ldt .. | .stt .. => true
  | .tdecl .. | .tstateRead .. | .tstateArm .. | .tstateReady .. | .tstateEmpty .. | .tfree .. => true
  | .cinv .. | .cinvI .. | .cflush .. | .promote .. | .shpin .. | .shunpin .. | .bcastw .. => true
  | .amoAdd .. | .amoMin .. | .amoMax .. | .amoAnd .. | .amoOr .. | .amoXor .. | .amoSwap .. | .cas .. | .amaxf .. => true
  | .bari .. | .bara .. | .barw .. | .wbar .. | .cmpl .. | .waitw .. | .mldb .. | .mgath .. => true
  | .mcomp .. | .mdrain .. | .mdrainVault .. => true
  | .copy .. | .copy2d .. | .put .. | .get .. | .trig .. | .nload .. | .redcfg .. | .rstep .. | .gnode .. | .gsub .. => true
  | _ => false

/-- The control registers that an instruction reads beside its operands (R398): the enables and the flags that it adds to, the
mode of one-sided operations and of summaries, the domain registers, and the address space. DESIGN CHOICE, log entry 3. -/
def controlUse (s : State) (i : Instr) : List RegName :=
  (if (regUse s i).2.contains .fpflags then [.fpflags, .ctl 3] else [])
    ++ (match i with
      | .put .. | .get .. | .radd .. | .trig .. | .sqins .. | .smerge .. => [.ctl 4]
      | .publ .. => [.ctl 0x10, .ctl 0x11, .ctl 0x12, .ctl 0x13]
      | _ => [])
    ++ (if namesMemory i then [.ctl 0x20, .ctl 0x21] else [])

/-- An upset word is (file, 8192 · register + word, bits); its register. -/
def upsetOf (u : RegName) (x : Nat × Nat × Nat) : Bool := u.code == some (x.1, x.2.1 / 8192)

/-- The register-uncorrectable fault (R398): a slice of an accumulator is invalid after it. -/
def regFault (s : State) (u : RegName) : Stop :=
  let s1 := match u with
    | .a r => s.modCore (coreOf s.cur) fun c => { c with acc := c.acc.set r.toNat { c.acc[r.toNat] with valid := false } }
    | _ => s
  .trapIn { code := 0x28, aux := match u.code with | some (f, r) => f * 256 + r % 256 | none => 0 } s1

/-- An upset word as it is read (R398, R400): one bit is corrected and counted, two are uncorrectable, and for more the
outcome is a free choice of detection, or a word of free bits (log entry 3). -/
def readUpset (s : State) (u : RegName) (x : Nat × Nat × Nat) : Res State :=
  let clear := match u with
    | .a _ => s.modCore (coreOf s.cur) fun c => { c with accUpsets := c.accUpsets.erase x }
    | _ => s.modMe fun c => { c with upsets := c.upsets.erase x }
  if x.2.2 ≤ 1 then .ok (countDie clear (dieOf s.cur) ctrRegcorr 1)
  else if x.2.2 = 2 then .error (regFault s u)
  else
    let (c, s1) := drawChoice clear 3
    if c = 0 then .error (regFault { s with free := s1.free } u)
    else
      let (v, s2) := drawBits s1 32
      .ok (patchReg s2 u (x.2.1 % 8192) v)

/-- The upset words of a register: of an accumulator they belong to the core, of any other to the current context. -/
def upsetsOf (s : State) (u : RegName) : List (Nat × Nat × Nat) :=
  (match u with | .a _ => (s.core (coreOf s.cur)).accUpsets | _ => s.me.upsets).filter (upsetOf u)

/-- The registers that an instruction reads checked by their codes (R398). -/
def codeCheck (s : State) (us : List RegName) : Res State :=
  us.foldlM (fun s u => (upsetsOf s u).foldlM (fun s x => readUpset s u x) s) s

/-- Registers that an instruction of a context writes carry no earlier upset. -/
def clearUpsets (s : State) (cid : Nat) (us : List RegName) : State :=
  let keep := fun (xs : List (Nat × Nat × Nat)) => xs.filter fun x => !us.any fun u => upsetOf u x
  let s1 := if (s.ctx cid).upsets.isEmpty then s else s.modCtx cid fun c => { c with upsets := keep c.upsets }
  if (s.core (coreOf cid)).accUpsets.isEmpty then s1 else s1.modCore (coreOf cid) fun c => { c with accUpsets := keep c.accUpsets }

/-- A dynamic rounding mode that R158 does not assign, which only an edit can have left (R159, R387). -/
def badRound (s : State) (us : List RegName) : Bool := us.contains (.ctl 1) && decide (4 < fld s.me.round.toNat 0 3)

/-- What issue checks of an instruction before its meaning: windows, which one that is performed again has passed (R388), register
codes and an ill-formed dynamic mode. The
state has corrected words written back. -/
def issueCheck (s : State) (i : Instr) : Res State := do
  if !s.me.replayV then windowCheck s i
  let us := (regUse s i).1
  let s1 ← codeCheck s (us ++ controlUse s i)
  let reads := match i with | .rdc .. => false | _ => badRound s1 us
  trapIf reads (.trap { code := 0x11 })
  .ok s1

end Sys2Proof.Machine
end

