-- ==== Sys2Proof/Machine/Repeat.lean ====
section
/-! DEFINITION. The repetition buffer: REP, the stepping of the body's fields and the issue of a pass (R192 to R194, R229). -/

namespace Sys2Proof.Machine
open Sys2Proof

/-! ## Stepping -/

/-- The register fields that an instruction of the body uses: field (0 dst, 1 src1, 2 src2, 3 src3), the flag of REP that steps
it (0 D, 1 S1, 2 S2, 3 S3), and the size of its file. A base register is not here, and a store's data register is stepped by
D (R229). -/
def stepFields : Instr → List (Nat × Nat × Nat)
  | .ld _ _ _ _ _ _ _ _ => [(0, 0, 64)]
  | .st _ _ _ _ _ _ _ => [(2, 0, 64)]
  | .ldv _ _ _ _ _ _ _ _ => [(0, 0, 32)]
  | .stv _ _ _ _ _ _ => [(2, 0, 32)]
  | .ldvs _ _ _ _ _ _ _ _ _ => [(0, 0, 32), (3, 3, 64)]
  | .stvs _ _ _ _ _ _ _ => [(2, 0, 32), (3, 3, 64)]
  | .gath _ _ _ _ _ _ _ _ _ _ => [(0, 0, 32), (2, 2, 32), (3, 3, 64)]
  | .scat _ _ _ _ _ _ _ _ => [(2, 2, 32), (3, 0, 32)]
  | .scatAcc _ _ _ _ _ _ _ _ _ _ _ _ => [(2, 2, 32), (3, 0, 32)]
  | .ldt _ _ _ _ _ _ _ => [(0, 0, 32)]
  | .stt _ _ _ _ _ => [(2, 0, 32)]
  | .tdecl _ _ _ _ => [(2, 2, 64)]
  | .tstateRead _ _ _ => [(0, 0, 64)]
  | .tstateArm _ _ _ _ => [(0, 0, 64), (2, 2, 64)]
  | .tstateReady _ _ _ => [(0, 0, 64)]
  | .tstateEmpty _ _ _ => [(0, 0, 64)]
  | .tfree _ _ => []
  | .cinv _ _ _ => [(2, 2, 64)]
  | .cinvI _ _ _ => [(2, 2, 64)]
  | .cflush _ _ _ => [(2, 2, 64)]
  | .promote _ _ _ _ => [(0, 0, 64)]
  | .shpin _ _ _ _ => [(0, 0, 64)]
  | .shunpin _ _ _ _ _ => [(0, 0, 64)]
  | .bcastw _ _ _ _ => [(2, 0, 32)]
  | .vadd _ _ _ _ _ _ _ _ _ _ => [(0, 0, 32), (1, 1, 32), (2, 2, 32)]
  | .vsub _ _ _ _ _ _ _ _ _ _ => [(0, 0, 32), (1, 1, 32), (2, 2, 32)]
  | .vmul _ _ _ _ _ _ _ _ _ _ => [(0, 0, 32), (1, 1, 32), (2, 2, 32)]
  | .vfma _ _ _ _ _ _ _ _ _ _ _ => [(0, 0, 32), (1, 1, 32), (2, 2, 32), (3, 3, 32)]
  | .vmin _ _ _ _ _ _ _ _ _ _ => [(0, 0, 32), (1, 1, 32), (2, 2, 32)]
  | .vmax _ _ _ _ _ _ _ _ _ _ => [(0, 0, 32), (1, 1, 32), (2, 2, 32)]
  | .vabs _ _ _ _ _ _ _ _ _ => [(0, 0, 32), (1, 1, 32)]
  | .vneg _ _ _ _ _ _ _ _ _ => [(0, 0, 32), (1, 1, 32)]
  | .vand _ _ _ _ _ _ => [(0, 0, 32), (1, 1, 32), (2, 2, 32)]
  | .vor _ _ _ _ _ _ => [(0, 0, 32), (1, 1, 32), (2, 2, 32)]
  | .vxor _ _ _ _ _ _ => [(0, 0, 32), (1, 1, 32), (2, 2, 32)]
  | .vshl _ _ _ _ _ _ immk _ => [(0, 0, 32), (1, 1, 32)] ++ (if immk then [] else [(2, 2, 32)])
  | .vshr _ _ _ _ _ _ immk _ => [(0, 0, 32), (1, 1, 32)] ++ (if immk then [] else [(2, 2, 32)])
  | .vsar _ _ _ _ _ _ immk _ => [(0, 0, 32), (1, 1, 32)] ++ (if immk then [] else [(2, 2, 32)])
  | .vcmp _ _ _ _ _ _ _ => [(0, 0, 8), (1, 1, 32), (2, 2, 32)]
  | .vsel _ _ _ _ _ _ _ => [(0, 0, 32), (1, 1, 32), (2, 2, 32), (3, 3, 8)]
  | .vmov _ _ _ _ _ => [(0, 0, 32), (1, 1, 32)]
  | .vmovToMask _ _ => [(0, 0, 8), (1, 1, 32)]
  | .vmovFromMask _ _ => [(0, 0, 32), (1, 1, 8)]
  | .vmovsToScalar _ _ _ _ => [(0, 0, 64), (1, 1, 32), (2, 2, 64)]
  | .vmovsToVector _ _ _ _ => [(0, 0, 32), (1, 1, 64), (2, 2, 64)]
  | .vbcast _ _ _ _ _ => [(0, 0, 32), (1, 1, 64)]
  | .viota _ _ _ _ _ => [(0, 0, 32), (1, 1, 64)]
  | .vcvt _ _ _ _ _ _ _ _ _ _ _ => [(0, 0, 32), (1, 1, 32)]
  | .vwmul _ _ _ _ _ _ _ _ _ => [(0, 0, 32), (1, 1, 32), (2, 2, 32)]
  | .vwadd _ _ _ _ _ _ _ _ _ => [(0, 0, 32), (1, 1, 32), (2, 2, 32)]
  | .vnarrow _ _ _ _ _ _ _ _ => [(0, 0, 32), (1, 1, 32)]
  | .vdot _ _ _ _ _ _ _ _ _ _ => [(0, 0, 64), (1, 1, 32), (2, 2, 32), (3, 3, 64)]
  | .vred _ _ _ _ _ _ _ _ _ _ => [(0, 0, 64), (1, 1, 32)]
  | .vscan _ _ _ _ _ _ _ _ _ _ _ _ _ => [(0, 0, 32), (1, 1, 32), (2, 2, 64)]
  | .vperm _ _ _ _ _ _ => [(0, 0, 32), (1, 1, 32), (2, 2, 32)]
  | .vrot _ _ _ _ _ _ => [(0, 0, 32), (1, 1, 32), (2, 2, 64)]
  | .vcompr _ _ _ _ _ => [(0, 0, 32), (1, 1, 32)]
  | .vexpand _ _ _ _ _ => [(0, 0, 32), (1, 1, 32)]
  | .vexp2 _ _ _ _ _ _ _ _ => [(0, 0, 32), (1, 1, 32)]
  | .vexp _ _ _ _ _ _ _ _ => [(0, 0, 32), (1, 1, 32)]
  | .vlog2 _ _ _ _ _ _ _ _ => [(0, 0, 32), (1, 1, 32)]
  | .vlog _ _ _ _ _ _ _ _ => [(0, 0, 32), (1, 1, 32)]
  | .vrcp _ _ _ _ _ _ _ _ => [(0, 0, 32), (1, 1, 32)]
  | .vrsq _ _ _ _ _ _ _ _ => [(0, 0, 32), (1, 1, 32)]
  | .vsqrt _ _ _ _ _ _ _ _ => [(0, 0, 32), (1, 1, 32)]
  | .vtanh _ _ _ _ _ _ _ _ => [(0, 0, 32), (1, 1, 32)]
  | .gang => []
  | .mzero _ _ _ => [(0, 0, 4), (1, 1, 64)]
  | .mldb _ _ _ _ _ _ _ => [(1, 1, 64), (2, 2, 64), (3, 3, 64)]
  | .mgath _ _ _ _ _ _ _ => [(1, 1, 64), (2, 2, 32), (3, 3, 64)]
  | .mma _ _ _ _ _ _ _ _ _ _ => [(0, 0, 4), (1, 1, 64)]
  | .mmas _ _ _ _ _ _ _ _ _ _ _ _ => [(0, 0, 4), (1, 1, 64), (2, 2, 32)]
  | .mcomp _ _ _ _ _ _ _ => [(0, 0, 32), (1, 1, 64), (2, 2, 64), (3, 3, 64)]
  | .mscale _ _ _ _ => [(1, 1, 32)]
  | .mdrain _ ty _ _ _ _ _ _ _ _ _ _ _ _ => [(0, 0, 32), (2, 2, 64)] ++ (if ty.isInt then [] else [(3, 3, 64)])
  | .mdrainVault _ ty _ _ _ _ _ _ _ _ _ _ _ => [(0, 0, 64), (1, 1, 64), (2, 2, 64)] ++ (if ty.isInt then [] else [(3, 3, 64)])
  | _ => []

/-- Whether an instruction of the body uses imm32 (R229). -/
def stepsImm : Instr → Bool
  | .ld _ _ _ _ _ _ _ _ => true
  | .st _ _ _ _ _ _ _ => true
  | .ldv _ _ _ _ _ _ _ _ => true
  | .stv _ _ _ _ _ _ => true
  | .ldvs _ _ _ _ _ _ _ _ _ => true
  | .stvs _ _ _ _ _ _ _ => true
  | .gath _ _ _ _ _ _ _ _ _ _ => true
  | .scat _ _ _ _ _ _ _ _ => true
  | .scatAcc _ _ _ _ _ _ _ _ _ _ _ _ => true
  | .ldt _ _ _ _ _ _ _ => true
  | .stt _ _ _ _ _ => true
  | .tdecl _ _ _ _ => true
  | .tstateRead _ _ _ => true
  | .tstateArm _ _ _ _ => true
  | .tstateReady _ _ _ => true
  | .tstateEmpty _ _ _ => true
  | .tfree _ _ => true
  | .cinv _ _ _ => true
  | .cinvI _ _ _ => true
  | .cflush _ _ _ => true
  | .promote _ _ _ _ => true
  | .shpin _ _ _ _ => true
  | .shunpin _ _ _ _ _ => true
  | .bcastw _ _ _ _ => true
  | .vshl _ _ _ _ _ _ immk _ => immk
  | .vshr _ _ _ _ _ _ immk _ => immk
  | .vsar _ _ _ _ _ _ immk _ => immk
  | .vnarrow _ _ _ _ _ _ _ _ => true
  | .mgath _ _ _ _ _ _ _ => true
  | .mdrain _ _ _ _ _ _ _ _ _ _ _ _ _ _ => true
  | .mdrainVault _ _ _ _ _ _ _ _ _ _ _ _ _ => true
  | _ => false

/-- A register field plus a number of strides, in its file (R192). -/
def stepReg (f : BitVec 6) (k : Int) (size : Nat) : BitVec 6 := BitVec.ofInt 6 (((f.toNat : Int) + k) % (size : Int))

/-- A field of a slot stepped. -/
def stepField (f : Fields) (k : Int) (p : Nat × Nat × Nat) : Fields :=
  match p.1 with
  | 0 => { f with dst := stepReg f.dst k p.2.2 }
  | 1 => { f with src1 := stepReg f.src1 k p.2.2 }
  | 2 => { f with src2 := stepReg f.src2 k p.2.2 }
  | _ => { f with src3 := stepReg f.src3 k p.2.2 }

/-- A body's slot as pass j issues it (R192, R229). -/
def stepSlot (r : RepBuf) (w : Slot) (i : Instr) (j : Nat) : Slot :=
  let k : Int := (j : Int) * signedOf 8 r.rstr
  let f := ((stepFields i).filter fun p => bit r.flags p.2.1).foldl (fun f p => stepField f k p) (Fields.unpack w)
  if bit r.flags 4 && stepsImm i then
    { f with imm := f.imm + BitVec.ofInt 32 ((j : Int) * signedOf 16 r.istr) }.pack
  else f.pack

/-- The fault of a slot that does not decode (R207). DEDUCED, log entry 67. -/
def decodeFault : DecodeError → Nat
  | .reservedField => 0x11
  | .short | .undefinedInstruction => 0x10

/-- A slot decoded, or the fault of R207. -/
def slotInstr (w : Slot) : Except Nat Instr :=
  match decode (natToBytes 12 w.toNat) with
  | .ok (i, _) => .ok i
  | .error e => .error (decodeFault e)

/-- The instruction that the sequencer issues next, decoded as its pass has it (R192, R207). -/
def passInstr (r : RepBuf) : Except Nat Instr := do
  let w := r.body.getD r.pos 0#96
  let i ← slotInstr w
  slotInstr (stepSlot r w i r.pass)

/-- The meanings that a pass may have: those of the memory, vector, special-function and matrix groups (R193). Any other
instruction is refused by REP. -/
def bodyExec (i : Instr) (s : State) : Host.Outcome State Fault Refusal :=
  match i with
  | .ld la ty dst base imm req scope ord => execLd la ty dst base imm req scope ord s
  | .st ty base data imm req scope ord => execSt ty base data imm req scope ord s
  | .ldv la ty dst base imm mask z req => execLdv la ty dst base imm mask z req s
  | .stv ty base data imm mask req => execStv ty base data imm mask req s
  | .ldvs la ty dst base stride imm mask z req => execLdvs la ty dst base stride imm mask z req s
  | .stvs ty base data stride imm mask req => execStvs ty base data stride imm mask req s
  | .gath la ty dst base idx extent imm mask z req => execGath la ty dst base idx extent imm mask z req s
  | .scat ty base idx data extent imm mask req => execScat ty base idx data extent imm mask req s
  | .scatAcc ty base idx data extent imm mask req scope rnd fzi fzo => execScatAcc ty base idx data extent imm mask req scope rnd fzi fzo s
  | .ldt la ty dst base imm mask z => execLdt la ty dst base imm mask z s
  | .stt ty base data imm mask => execStt ty base data imm mask s
  | .tdecl base size mode e => execTdecl base size mode e s
  | .tstateRead dst base e => execTstateRead dst base e s
  | .tstateArm dst base n e => execTstateArm dst base n e s
  | .tstateReady dst base e => execTstateReady dst base e s
  | .tstateEmpty dst base e => execTstateEmpty dst base e s
  | .tfree base e => execTfree base e s
  | .cinv base len imm => execCinv base len imm s
  | .cinvI base len imm => execCinvI base len imm s
  | .cflush base len imm => execCflush base len imm s
  | .promote la dst base imm => execPromote la dst base imm s
  | .shpin la dst base imm => execShpin la dst base imm s
  | .shunpin la dst base d imm => execShunpin la dst base d imm s
  | .bcastw la base data imm => execBcastw la base data imm s
  | .vadd ty dst a b mask z rnd fzi fzo sat => execVadd ty dst a b mask z rnd fzi fzo sat s
  | .vsub ty dst a b mask z rnd fzi fzo sat => execVsub ty dst a b mask z rnd fzi fzo sat s
  | .vmul ty dst a b mask z rnd fzi fzo sat => execVmul ty dst a b mask z rnd fzi fzo sat s
  | .vfma ty dst a b c mask z rnd fzi fzo sat => execVfma ty dst a b c mask z rnd fzi fzo sat s
  | .vmin ty dst a b mask z rnd fzi fzo sat => execVmin ty dst a b mask z rnd fzi fzo sat s
  | .vmax ty dst a b mask z rnd fzi fzo sat => execVmax ty dst a b mask z rnd fzi fzo sat s
  | .vabs ty dst a mask z rnd fzi fzo sat => execVabs ty dst a mask z rnd fzi fzo sat s
  | .vneg ty dst a mask z rnd fzi fzo sat => execVneg ty dst a mask z rnd fzi fzo sat s
  | .vand ty dst a b mask z => execVand ty dst a b mask z s
  | .vor ty dst a b mask z => execVor ty dst a b mask z s
  | .vxor ty dst a b mask z => execVxor ty dst a b mask z s
  | .vshl ty dst a b mask z immk k => execVshl ty dst a b mask z immk k s
  | .vshr ty dst a b mask z immk k => execVshr ty dst a b mask z immk k s
  | .vsar ty dst a b mask z immk k => execVsar ty dst a b mask z immk k s
  | .vcmp ty dst a b p mask z => execVcmp ty dst a b p mask z s
  | .vsel ty dst a b mc mask z => execVsel ty dst a b mc mask z s
  | .vmov ty dst a mask z => execVmov ty dst a mask z s
  | .vmovToMask dst a => execVmovToMask dst a s
  | .vmovFromMask dst a => execVmovFromMask dst a s
  | .vmovsToScalar ty dst a k => execVmovsToScalar ty dst a k s
  | .vmovsToVector ty dst a k => execVmovsToVector ty dst a k s
  | .vbcast ty dst a mask z => execVbcast ty dst a mask z s
  | .viota ty dst a mask z => execViota ty dst a mask z s
  | .vcvt ty dst a src mask z rnd fzi fzo sat nov => execVcvt ty dst a src mask z rnd fzi fzo sat nov s
  | .vwmul ty dst a b mask z rnd fzi fzo => execVwmul ty dst a b mask z rnd fzi fzo s
  | .vwadd ty dst a b mask z rnd fzi fzo => execVwadd ty dst a b mask z rnd fzi fzo s
  | .vnarrow ty dst a sh mode mask z sat => execVnarrow ty dst a sh mode mask z sat s
  | .vdot la ty dst a b len rnd fzi fzo sat => execVdot la ty dst a b len rnd fzi fzo sat s
  | .vred la ty dst a op mask rnd fzi fzo sat => execVred la ty dst a op mask rnd fzi fzo sat s
  | .vscan la ty dst a init op mask z rnd fzi fzo sat excl => execVscan la ty dst a init op mask z rnd fzi fzo sat excl s
  | .vperm ty dst a b mask z => execVperm ty dst a b mask z s
  | .vrot ty dst a k mask z => execVrot ty dst a k mask z s
  | .vcompr ty dst a mask z => execVcompr ty dst a mask z s
  | .vexpand ty dst a mask z => execVexpand ty dst a mask z s
  | .vexp2 la ty dst a mask z fzi fzo => execVexp2 la ty dst a mask z fzi fzo s
  | .vexp la ty dst a mask z fzi fzo => execVexp la ty dst a mask z fzi fzo s
  | .vlog2 la ty dst a mask z fzi fzo => execVlog2 la ty dst a mask z fzi fzo s
  | .vlog la ty dst a mask z fzi fzo => execVlog la ty dst a mask z fzi fzo s
  | .vrcp la ty dst a mask z fzi fzo => execVrcp la ty dst a mask z fzi fzo s
  | .vrsq la ty dst a mask z fzi fzo => execVrsq la ty dst a mask z fzi fzo s
  | .vsqrt la ty dst a mask z fzi fzo => execVsqrt la ty dst a mask z fzi fzo s
  | .vtanh la ty dst a mask z fzi fzo => execVtanh la ty dst a mask z fzi fzo s
  | .gang => execGang s
  | .mzero ty dst n => execMzero ty dst n s
  | .mldb la ty base n stride pair sp => execMldb la ty base n stride pair sp s
  | .mgath la ty base idx extent pair imm => execMgath la ty base idx extent pair imm s
  | .mma la ty dst n rnd fzi fzo sat zs pair => execMma la ty dst n rnd fzi fzo sat zs pair s
  | .mmas la ty dst n vm rnd fzi fzo sat zs pair s48 => execMmas la ty dst n vm rnd fzi fzo sat zs pair s48 s
  | .mcomp la ty dst a b p s48 => execMcomp la ty dst a b p s48 s
  | .mscale ty a pair bside => execMscale ty a pair bside s
  | .mdrain la ty dst cell scale rnd fzo sat nov nskip scope acc row blk => execMdrain la ty dst cell scale rnd fzo sat nov nskip scope acc row blk s
  | .mdrainVault la ty dst base cell scale rnd fzo sat nov nskip scope acc => execMdrainVault la ty dst base cell scale rnd fzo sat nov nskip scope acc s
  | _ => .next (stopNow s illegal)

/-! ## Passes -/

/-- The next instruction of a pass of a context: its checks, then its meaning (R192, R194). A stalled context tries again. -/
def passIssue (s : State) (cid : Nat) : Host.Outcome State Fault Refusal :=
  let s1 := { s with cur := cid }.modCtx cid fun c => { c with passing := true, st := .ready }
  match passInstr s1.me.rep with
  | .error code => .next (stopNow s1 (.trap { code := code }))
  | .ok i =>
    match issueCheck s1 i with
    | .error e => .next (stopNow s1 e)
    | .ok s2 =>
      let n := s2.me.icount
      match bodyExec i s2 with
      | .next s3 => .next (if (s3.ctx cid).icount = n then s3 else clearUpsets s3 cid (regUse s2 i).2)
      | o => o

/-- A context whose sequencer may issue: it runs, its buffer holds a body, and no instruction is to be performed again nor an
enabled condition to park it first (R182, R388, R389). -/
def passReady (s : State) (cid : Nat) : Bool :=
  let c := s.ctx cid
  !c.rep.body.isEmpty && !c.replayV && c.ev == 0 && (c.st == .ready || c.st == .stalled)

/-- REP_PASS_ISSUE (R192, R194). -/
def execRepPassIssue (cid : Nat) (s : State) : Host.Outcome State Fault Refusal :=
  if passReady s cid then passIssue s cid else .next s

/-! ## REP -/

/-- A line that holds a part of a body: the one that the context has entered, or one from the gang's cache or its home, with
the refetch of R206. A failed check gives the fault of R205 with the line's address (R193). -/
def bodyLine (s : State) (la : Nat) : Res (List Byte × State) := do
  match s.me.line with
  | some l => if l.va = la then return (l.bytes, s)
  | none => pure ()
  let trap := fun (code off : Nat) (s : State) => Except.error (α := List Byte × State) (.trapIn { code := code, addr := la + off } s)
  let (p, s1) ← translate s s.cur .fetch .own la 64 0
  let key := p.loc.key
  let cached := if isSup s.cur then none else List.find? (fun l => l.1 == key) (s1.gang (gangOf s.cur)).icache
  let home := fun (s : State) => match readLine s (dieOf s.cur) key with
    | .fault code off s2 => trap code off s2
    | .waits s2 => .error (.stall s2)
    | .bytes bs s2 => .ok (bs, if isSup s2.cur then s2 else cacheLine s2 (gangOf s2.cur) key bs)
  let (bs, s2) ← match cached with
    | some l => .ok (mixLine s1 key l.2)
    | none => home s1
  let (bs, s3) ← if parityOk bs then .ok (bs, s2) else home (countDie s2 (dieOf s.cur) ctrLineref 1)
  if !parityOk bs then trap 0x1A 0 s3
  else match lineFormatFault bs with
    | some code => trap code 0 s3
    | none => .ok (bs, s3)

/-- The body's slots with their TGT bits, from the first one's address (R193). -/
def bodySlots (s : State) : Nat → Nat → Res (List (Slot × Bool) × State)
  | 0, _ => .ok ([], s)
  | n + 1, pc => do
    let (bs, s1) ← bodyLine s (lineAddr pc)
    let (ws, s2) ← bodySlots s1 n (nextSlot pc)
    .ok ((slotBits bs (pc % 64 / 12), lineTgt bs (pc % 64 / 12)) :: ws, s2)

/-- A slot that R193 allows in a body by its major opcode and its lookahead field. -/
def bodySlotOk (w : Slot) : Bool :=
  let m := slotMajor w
  ((decide (0x30 ≤ m) && decide (m ≤ 0x3F)) || (decide (0x50 ≤ m) && decide (m ≤ 0x9F))) && w.extractLsb' 76 4 == 0#4

/-- REP (R192, R193, R229): captured whole, or refused with nothing captured. A count of 0 skips the body.
DEDUCED, log entry 55. The code region is tested first, then the lines, then the slots: DESIGN CHOICE, log entry 84. -/
def execRep (a : SReg) (imm : BitVec 32) (s : State) : Host.Outcome State Fault Refusal :=
  let x := imm.toNat
  let n := (s.rs a).toNat
  let b := fld x 0 3 + 1
  let first := nextSlot s.me.pc
  let r : RepBuf := { count := n, flags := fld x 3 5, rstr := fld x 8 8, istr := fld x 16 16, pc := first }
  .next (match (do
    if !s.me.rep.body.isEmpty then .error (.stall s)
    illegalIf (decide (65535 < n))
    illegalIf (!(List.range b).all fun i => inCode s s.cur (lineAddr (bodySlot r i)))
    let (ws, s1) ← bodySlots s b first
    illegalIf (ws.any (fun w => !bodySlotOk w.1) || (ws.drop 1).any (·.2))
    .ok (ws, s1) : Res (List (Slot × Bool) × State)) with
    | .error e => stopNow s e
    | .ok (ws, s1) =>
      let s2 := s1.modMe fun c => { c with pc := bodySlot r (b - 1), rep := if n = 0 then {} else { r with body := ws.map (·.1) } }
      finish s2)

end Sys2Proof.Machine
end

