-- ==== Sys2Proof/Machine/Scalar.lean ====
section
/-! DEFINITION. Scalar integer operations, constants and scalar floating point (R218 to R224). -/

namespace Sys2Proof.Machine
open Sys2Proof

/-! ## Operations -/

/-- The exact signed result of an operation made to fit 64 bits (R218). -/
def fit64 (sat : Bool) (x : Int) : Word := wd (if sat then satS 64 x else wrapN 64 x)
/-- ADD (R218). -/
def aluAdd (sat : Bool) (a b : Word) : Word := if sat then fit64 true (a.toInt + b.toInt) else a + b
/-- SUB (R218). -/
def aluSub (sat : Bool) (a b : Word) : Word := if sat then fit64 true (a.toInt - b.toInt) else a - b
/-- MUL (R218). -/
def aluMul (sat : Bool) (a b : Word) : Word := if sat then fit64 true (a.toInt * b.toInt) else a * b
/-- MULH (R218). -/
def aluMulh (a b : Word) : Word := wdI ((a.toInt * b.toInt) / 2 ^ 64)
/-- MULHU (R218). -/
def aluMulhu (a b : Word) : Word := wd ((a.toNat * b.toNat) / 2 ^ 64)
/-- DIV (R219): the quotient rounded toward zero, −1 for a zero divisor, and a wrapped overflow. -/
def aluDiv (a b : Word) : Word := if b = 0#64 then BitVec.allOnes 64 else wdI (a.toInt.tdiv b.toInt)
/-- DIVU (R219). -/
def aluDivu (a b : Word) : Word := if b = 0#64 then BitVec.allOnes 64 else a / b
/-- REM (R219). -/
def aluRem (a b : Word) : Word := if b = 0#64 then a else wdI (a.toInt.tmod b.toInt)
/-- REMU (R219). -/
def aluRemu (a b : Word) : Word := if b = 0#64 then a else a % b
/-- AND (R218). -/
def aluAnd (a b : Word) : Word := a &&& b
/-- OR (R218). -/
def aluOr (a b : Word) : Word := a ||| b
/-- XOR (R218). -/
def aluXor (a b : Word) : Word := a ^^^ b
/-- ANDN (R218). -/
def aluAndn (a b : Word) : Word := a &&& ~~~b
/-- The amount of a shift or rotation: bits [5:0] (R219). -/
def shAmt (b : Word) : Nat := b.toNat % 64
/-- SHL (R218). -/
def aluShl (a b : Word) : Word := a <<< shAmt b
/-- SHR (R218). -/
def aluShr (a b : Word) : Word := a >>> shAmt b
/-- SAR (R218). -/
def aluSar (a b : Word) : Word := a.sshiftRight (shAmt b)
/-- ROT (R218). -/
def aluRot (a b : Word) : Word := a.rotateLeft (shAmt b)
/-- MIN (R218). -/
def aluMin (a b : Word) : Word := if a.slt b then a else b
/-- MAX (R218). -/
def aluMax (a b : Word) : Word := if a.slt b then b else a
/-- MINU (R218). -/
def aluMinu (a b : Word) : Word := if a.ult b then a else b
/-- MAXU (R218). -/
def aluMaxu (a b : Word) : Word := if a.ult b then b else a
/-- SEQ (R218). -/
def aluSeq (a b : Word) : Word := boolWord (a == b)
/-- SLT (R218). -/
def aluSlt (a b : Word) : Word := boolWord (a.slt b)
/-- SLTU (R218). -/
def aluSltu (a b : Word) : Word := boolWord (a.ult b)
/-- MAD (R220): one saturation of the exact value. -/
def aluMad (sat : Bool) (a b c : Word) : Word :=
  if sat then fit64 true (a.toInt * b.toInt + c.toInt) else a * b + c
/-- The leading zero bits among the n lowest bits of a number. -/
def clzAux : Nat → Nat → Nat
  | 0, _ => 0
  | n + 1, x => if x.testBit n then 0 else 1 + clzAux n x
/-- The one bits among the n lowest bits of a number. -/
def popAux : Nat → Nat → Nat
  | 0, _ => 0
  | n + 1, x => x % 2 + popAux n (x / 2)
/-- The n lowest bits of a number in reverse. -/
def revAux : Nat → Nat → Nat
  | 0, _ => 0
  | n + 1, x => x % 2 * 2 ^ n + revAux n (x / 2)
/-- CLZ (R220). -/
def aluClz (a : Word) : Word := wd (clzAux 64 a.toNat)
/-- POPC (R220). -/
def aluPopc (a : Word) : Word := wd (popAux 64 a.toNat)
/-- BREV (R220). -/
def aluBrev (a : Word) : Word := wd (revAux 64 a.toNat)

/-- A field width and place that EXTS, EXTU and INS refuse (R220). -/
def badField (pos : BitVec 6) (w : BitVec 7) : Bool :=
  w == 0#7 || decide (64 < w.toNat) || decide (64 < pos.toNat + w.toNat)

/-- A long-latency scalar result (R213, R214). -/
def longS (s : State) (la : BitVec 4) (dst : SReg) (v : Word) : Host.Outcome State Fault Refusal :=
  runLong s la [.s dst] (.ok (s, [.s dst v]))

/-- An immediate shift: an amount outside 0 to 63 is illegal (R219). -/
def shiftImm (s : State) (dst : SReg) (imm : BitVec 32) (v : Word) : Host.Outcome State Fault Refusal :=
  run s (if 63 < imm.toNat then .error illegal else .ok (s.setS dst v))

/-! ## Two operands -/

/-- The register form of addition (R218). -/
def execAdd (dst a b : SReg) (sat : Bool) (s : State) : Host.Outcome State Fault Refusal :=
  putS s dst (aluAdd sat (s.rs a) (s.rs b))

/-- The register form of subtraction (R218). -/
def execSub (dst a b : SReg) (sat : Bool) (s : State) : Host.Outcome State Fault Refusal :=
  putS s dst (aluSub sat (s.rs a) (s.rs b))

/-- The register form of multiplication (R218). -/
def execMul (dst a b : SReg) (sat : Bool) (s : State) : Host.Outcome State Fault Refusal :=
  putS s dst (aluMul sat (s.rs a) (s.rs b))

/-- The register form of the high half of the signed product (R218). -/
def execMulh (dst a b : SReg) (s : State) : Host.Outcome State Fault Refusal :=
  putS s dst (aluMulh (s.rs a) (s.rs b))

/-- The register form of the high half of the unsigned product (R218). -/
def execMulhu (dst a b : SReg) (s : State) : Host.Outcome State Fault Refusal :=
  putS s dst (aluMulhu (s.rs a) (s.rs b))

/-- The register form of signed division (R219), a long-latency instruction (R213). -/
def execDiv (la : BitVec 4) (dst a b : SReg) (s : State) : Host.Outcome State Fault Refusal :=
  longS s la dst (aluDiv (s.rs a) (s.rs b))

/-- The register form of unsigned division (R219), a long-latency instruction (R213). -/
def execDivu (la : BitVec 4) (dst a b : SReg) (s : State) : Host.Outcome State Fault Refusal :=
  longS s la dst (aluDivu (s.rs a) (s.rs b))

/-- The register form of signed remainder (R219), a long-latency instruction (R213). -/
def execRem (la : BitVec 4) (dst a b : SReg) (s : State) : Host.Outcome State Fault Refusal :=
  longS s la dst (aluRem (s.rs a) (s.rs b))

/-- The register form of unsigned remainder (R219), a long-latency instruction (R213). -/
def execRemu (la : BitVec 4) (dst a b : SReg) (s : State) : Host.Outcome State Fault Refusal :=
  longS s la dst (aluRemu (s.rs a) (s.rs b))

/-- The register form of AND (R218). -/
def execAndR (dst a b : SReg) (s : State) : Host.Outcome State Fault Refusal :=
  putS s dst (aluAnd (s.rs a) (s.rs b))

/-- The register form of OR (R218). -/
def execOrR (dst a b : SReg) (s : State) : Host.Outcome State Fault Refusal :=
  putS s dst (aluOr (s.rs a) (s.rs b))

/-- The register form of XOR (R218). -/
def execXorR (dst a b : SReg) (s : State) : Host.Outcome State Fault Refusal :=
  putS s dst (aluXor (s.rs a) (s.rs b))

/-- The register form of AND with the complement (R218). -/
def execAndn (dst a b : SReg) (s : State) : Host.Outcome State Fault Refusal :=
  putS s dst (aluAndn (s.rs a) (s.rs b))

/-- The register form of left shift (R218, R219). -/
def execShl (dst a b : SReg) (s : State) : Host.Outcome State Fault Refusal :=
  putS s dst (aluShl (s.rs a) (s.rs b))

/-- The register form of logical right shift (R218, R219). -/
def execShr (dst a b : SReg) (s : State) : Host.Outcome State Fault Refusal :=
  putS s dst (aluShr (s.rs a) (s.rs b))

/-- The register form of arithmetic right shift (R218, R219). -/
def execSar (dst a b : SReg) (s : State) : Host.Outcome State Fault Refusal :=
  putS s dst (aluSar (s.rs a) (s.rs b))

/-- The register form of left rotation (R218, R219). -/
def execRot (dst a b : SReg) (s : State) : Host.Outcome State Fault Refusal :=
  putS s dst (aluRot (s.rs a) (s.rs b))

/-- The register form of signed minimum (R218). -/
def execMinS (dst a b : SReg) (s : State) : Host.Outcome State Fault Refusal :=
  putS s dst (aluMin (s.rs a) (s.rs b))

/-- The register form of signed maximum (R218). -/
def execMaxS (dst a b : SReg) (s : State) : Host.Outcome State Fault Refusal :=
  putS s dst (aluMax (s.rs a) (s.rs b))

/-- The register form of unsigned minimum (R218). -/
def execMinu (dst a b : SReg) (s : State) : Host.Outcome State Fault Refusal :=
  putS s dst (aluMinu (s.rs a) (s.rs b))

/-- The register form of unsigned maximum (R218). -/
def execMaxu (dst a b : SReg) (s : State) : Host.Outcome State Fault Refusal :=
  putS s dst (aluMaxu (s.rs a) (s.rs b))

/-- The register form of equality (R218). -/
def execSeq (dst a b : SReg) (s : State) : Host.Outcome State Fault Refusal :=
  putS s dst (aluSeq (s.rs a) (s.rs b))

/-- The register form of signed less-than (R218). -/
def execSlt (dst a b : SReg) (s : State) : Host.Outcome State Fault Refusal :=
  putS s dst (aluSlt (s.rs a) (s.rs b))

/-- The register form of unsigned less-than (R218). -/
def execSltu (dst a b : SReg) (s : State) : Host.Outcome State Fault Refusal :=
  putS s dst (aluSltu (s.rs a) (s.rs b))

/-- ADDI (R218). -/
def execAddi (dst a : SReg) (imm : BitVec 32) (s : State) : Host.Outcome State Fault Refusal :=
  putS s dst (aluAdd false (s.rs a) (sext32 imm))

/-- The immediate form of subtraction (R218). -/
def execSubImm (dst a : SReg) (imm : BitVec 32) (s : State) : Host.Outcome State Fault Refusal :=
  putS s dst (aluSub false (s.rs a) (sext32 imm))

/-- The immediate form of multiplication (R218). -/
def execMulImm (dst a : SReg) (imm : BitVec 32) (s : State) : Host.Outcome State Fault Refusal :=
  putS s dst (aluMul false (s.rs a) (sext32 imm))

/-- The immediate form of the high half of the signed product (R218). -/
def execMulhImm (dst a : SReg) (imm : BitVec 32) (s : State) : Host.Outcome State Fault Refusal :=
  putS s dst (aluMulh (s.rs a) (sext32 imm))

/-- The immediate form of the high half of the unsigned product (R218). -/
def execMulhuImm (dst a : SReg) (imm : BitVec 32) (s : State) : Host.Outcome State Fault Refusal :=
  putS s dst (aluMulhu (s.rs a) (sext32 imm))

/-- The immediate form of signed division (R219), a long-latency instruction (R213). -/
def execDivImm (la : BitVec 4) (dst a : SReg) (imm : BitVec 32) (s : State) : Host.Outcome State Fault Refusal :=
  longS s la dst (aluDiv (s.rs a) (sext32 imm))

/-- The immediate form of unsigned division (R219), a long-latency instruction (R213). -/
def execDivuImm (la : BitVec 4) (dst a : SReg) (imm : BitVec 32) (s : State) : Host.Outcome State Fault Refusal :=
  longS s la dst (aluDivu (s.rs a) (sext32 imm))

/-- The immediate form of signed remainder (R219), a long-latency instruction (R213). -/
def execRemImm (la : BitVec 4) (dst a : SReg) (imm : BitVec 32) (s : State) : Host.Outcome State Fault Refusal :=
  longS s la dst (aluRem (s.rs a) (sext32 imm))

/-- The immediate form of unsigned remainder (R219), a long-latency instruction (R213). -/
def execRemuImm (la : BitVec 4) (dst a : SReg) (imm : BitVec 32) (s : State) : Host.Outcome State Fault Refusal :=
  longS s la dst (aluRemu (s.rs a) (sext32 imm))

/-- The immediate form of AND (R218). -/
def execAndImm (dst a : SReg) (imm : BitVec 32) (s : State) : Host.Outcome State Fault Refusal :=
  putS s dst (aluAnd (s.rs a) (sext32 imm))

/-- The immediate form of OR (R218). -/
def execOrImm (dst a : SReg) (imm : BitVec 32) (s : State) : Host.Outcome State Fault Refusal :=
  putS s dst (aluOr (s.rs a) (sext32 imm))

/-- The immediate form of XOR (R218). -/
def execXorImm (dst a : SReg) (imm : BitVec 32) (s : State) : Host.Outcome State Fault Refusal :=
  putS s dst (aluXor (s.rs a) (sext32 imm))

/-- The immediate form of AND with the complement (R218). -/
def execAndnImm (dst a : SReg) (imm : BitVec 32) (s : State) : Host.Outcome State Fault Refusal :=
  putS s dst (aluAndn (s.rs a) (sext32 imm))

/-- The immediate form of left shift (R218, R219): an amount outside 0 to 63 is illegal. -/
def execShlImm (dst a : SReg) (imm : BitVec 32) (s : State) : Host.Outcome State Fault Refusal :=
  shiftImm s dst imm (aluShl (s.rs a) (sext32 imm))

/-- The immediate form of logical right shift (R218, R219): an amount outside 0 to 63 is illegal. -/
def execShrImm (dst a : SReg) (imm : BitVec 32) (s : State) : Host.Outcome State Fault Refusal :=
  shiftImm s dst imm (aluShr (s.rs a) (sext32 imm))

/-- The immediate form of arithmetic right shift (R218, R219): an amount outside 0 to 63 is illegal. -/
def execSarImm (dst a : SReg) (imm : BitVec 32) (s : State) : Host.Outcome State Fault Refusal :=
  shiftImm s dst imm (aluSar (s.rs a) (sext32 imm))

/-- The immediate form of left rotation (R218, R219): an amount outside 0 to 63 is illegal. -/
def execRotImm (dst a : SReg) (imm : BitVec 32) (s : State) : Host.Outcome State Fault Refusal :=
  shiftImm s dst imm (aluRot (s.rs a) (sext32 imm))

/-- The immediate form of signed minimum (R218). -/
def execMinImm (dst a : SReg) (imm : BitVec 32) (s : State) : Host.Outcome State Fault Refusal :=
  putS s dst (aluMin (s.rs a) (sext32 imm))

/-- The immediate form of signed maximum (R218). -/
def execMaxImm (dst a : SReg) (imm : BitVec 32) (s : State) : Host.Outcome State Fault Refusal :=
  putS s dst (aluMax (s.rs a) (sext32 imm))

/-- The immediate form of unsigned minimum (R218). -/
def execMinuImm (dst a : SReg) (imm : BitVec 32) (s : State) : Host.Outcome State Fault Refusal :=
  putS s dst (aluMinu (s.rs a) (sext32 imm))

/-- The immediate form of unsigned maximum (R218). -/
def execMaxuImm (dst a : SReg) (imm : BitVec 32) (s : State) : Host.Outcome State Fault Refusal :=
  putS s dst (aluMaxu (s.rs a) (sext32 imm))

/-- The immediate form of equality (R218). -/
def execSeqImm (dst a : SReg) (imm : BitVec 32) (s : State) : Host.Outcome State Fault Refusal :=
  putS s dst (aluSeq (s.rs a) (sext32 imm))

/-- The immediate form of signed less-than (R218). -/
def execSltImm (dst a : SReg) (imm : BitVec 32) (s : State) : Host.Outcome State Fault Refusal :=
  putS s dst (aluSlt (s.rs a) (sext32 imm))

/-- The immediate form of unsigned less-than (R218). -/
def execSltuImm (dst a : SReg) (imm : BitVec 32) (s : State) : Host.Outcome State Fault Refusal :=
  putS s dst (aluSltu (s.rs a) (sext32 imm))

/-! ## Other shapes -/

/-- MAD (R220). -/
def execMad (dst a b c : SReg) (sat : Bool) (s : State) : Host.Outcome State Fault Refusal :=
  putS s dst (aluMad sat (s.rs a) (s.rs b) (s.rs c))

/-- CLZ (R220). -/
def execClz (dst a : SReg) (s : State) : Host.Outcome State Fault Refusal := putS s dst (aluClz (s.rs a))

/-- POPC (R220). -/
def execPopc (dst a : SReg) (s : State) : Host.Outcome State Fault Refusal := putS s dst (aluPopc (s.rs a))

/-- BREV (R220). -/
def execBrev (dst a : SReg) (s : State) : Host.Outcome State Fault Refusal := putS s dst (aluBrev (s.rs a))

/-- A field of a register, extended by sign or by zero (R220). -/
def fieldOf (signed : Bool) (a : Word) (pos : BitVec 6) (w : BitVec 7) : Word :=
  let x := fld a.toNat pos.toNat w.toNat
  if signed then wdI (signedOf w.toNat x) else wd x

/-- EXTS (R220). -/
def execExts (dst a : SReg) (pos : BitVec 6) (w : BitVec 7) (s : State) : Host.Outcome State Fault Refusal :=
  run s (if badField pos w then .error illegal else .ok (s.setS dst (fieldOf true (s.rs a) pos w)))

/-- EXTU (R220). -/
def execExtu (dst a : SReg) (pos : BitVec 6) (w : BitVec 7) (s : State) : Host.Outcome State Fault Refusal :=
  run s (if badField pos w then .error illegal else .ok (s.setS dst (fieldOf false (s.rs a) pos w)))

/-- INS (R220): reads its destination. -/
def execIns (dst a : SReg) (pos : BitVec 6) (w : BitVec 7) (s : State) : Host.Outcome State Fault Refusal :=
  run s (if badField pos w then .error illegal
    else .ok (s.setS dst (wd (setFld (s.rs dst).toNat pos.toNat w.toNat (s.rs a).toNat))))

/-- SEL (R220). -/
def execSel (dst a b c : SReg) (s : State) : Host.Outcome State Fault Refusal :=
  putS s dst (if s.rs c = 0#64 then s.rs b else s.rs a)

/-- LI (R221). -/
def execLi (dst : SReg) (imm : BitVec 32) (s : State) : Host.Outcome State Fault Refusal := putS s dst (sext32 imm)

/-- LIH (R221): the low half is kept. -/
def execLih (dst : SReg) (imm : BitVec 32) (s : State) : Host.Outcome State Fault Refusal :=
  putS s dst (imm ++ (s.rs dst).extractLsb' 0 32)

/-- ADDR (R221): the address of the instruction's own line plus a displacement; a body instruction of a repetition has its
own slot's address. -/
def execAddr (dst : SReg) (imm : BitVec 32) (s : State) : Host.Outcome State Fault Refusal :=
  putS s dst (wd (faultPc s.me / 64 * 64) + sext32 imm)

/-! ## Floating point -/

/-- A type that scalar arithmetic accepts (R222). -/
def scalarFp (ty : ElemType) : Bool := ty.isWideFloat

/-- A floating-point result written zero-extended, with its flags (R222). -/
def putF (s : State) (dst : SReg) (ok : Bool) (r : Nat × Nat) : Host.Outcome State Fault Refusal :=
  run s (if ok then .ok (raiseFlags (s.setS dst (wd r.1)) r.2) else .error illegal)

/-- FADD (R222). -/
def execFadd (dst a b : SReg) (ty : ElemType) (rnd : Rounding) (fzi fzo : Bool) (s : State) :
    Host.Outcome State Fault Refusal :=
  putF s dst (scalarFp ty) (fpAdd ty (fpCtl s rnd fzi fzo) (lowElem ty (s.rs a)) (lowElem ty (s.rs b)))

/-- FSUB (R222). -/
def execFsub (dst a b : SReg) (ty : ElemType) (rnd : Rounding) (fzi fzo : Bool) (s : State) :
    Host.Outcome State Fault Refusal :=
  putF s dst (scalarFp ty) (fpSub ty (fpCtl s rnd fzi fzo) (lowElem ty (s.rs a)) (lowElem ty (s.rs b)))

/-- FMUL (R222). -/
def execFmul (dst a b : SReg) (ty : ElemType) (rnd : Rounding) (fzi fzo : Bool) (s : State) :
    Host.Outcome State Fault Refusal :=
  putF s dst (scalarFp ty) (fpMul ty (fpCtl s rnd fzi fzo) (lowElem ty (s.rs a)) (lowElem ty (s.rs b)))

/-- FFMA (R222): one rounding. -/
def execFfma (dst a b c : SReg) (ty : ElemType) (rnd : Rounding) (fzi fzo : Bool) (s : State) :
    Host.Outcome State Fault Refusal :=
  putF s dst (scalarFp ty)
    (fpFma ty (fpCtl s rnd fzi fzo) (lowElem ty (s.rs a)) (lowElem ty (s.rs b)) (lowElem ty (s.rs c)))

/-- FMIN (R222). -/
def execFmin (dst a b : SReg) (ty : ElemType) (rnd : Rounding) (fzi fzo : Bool) (s : State) :
    Host.Outcome State Fault Refusal :=
  putF s dst (scalarFp ty) (fpMinMax ty (fpCtl s rnd fzi fzo) false (lowElem ty (s.rs a)) (lowElem ty (s.rs b)))

/-- FMAX (R222). -/
def execFmax (dst a b : SReg) (ty : ElemType) (rnd : Rounding) (fzi fzo : Bool) (s : State) :
    Host.Outcome State Fault Refusal :=
  putF s dst (scalarFp ty) (fpMinMax ty (fpCtl s rnd fzi fzo) true (lowElem ty (s.rs a)) (lowElem ty (s.rs b)))

/-- FCMP (R223): an integer result in all 64 bits. -/
def execFcmp (dst a b : SReg) (ty : ElemType) (p : Pred) (fzi fzo : Bool) (s : State) :
    Host.Outcome State Fault Refusal :=
  let r := fpCompare ty (fpCtl s .rne fzi fzo) p (lowElem ty (s.rs a)) (lowElem ty (s.rs b))
  putF s dst (scalarFp ty) (b2n r.1, r.2)

/-- A type that FCVT accepts: codes 2 to 13 (R224). -/
def cvtType : ElemType → Bool
  | .s4 | .u4 => false
  | .s8 | .u8 | .s16 | .u16 | .s32 | .u32 | .e4m3 | .bf16 | .fp16 | .fp32 | .s64 | .u64 => true

/-- FCVT (R224): integer results are extended by their type. -/
def execFcvt (dst a : SReg) (ty src : ElemType) (rnd : Rounding) (fzi fzo sat nov : Bool) (s : State) :
    Host.Outcome State Fault Refusal :=
  let r := convertElem ty src { fpCtl s rnd fzi fzo with nov := nov } sat (lowElem src (s.rs a))
  putF s dst (cvtType ty && cvtType src) ((extendElem ty r.1).toNat, r.2)

end Sys2Proof.Machine
end

