-- ==== Sys2Proof/Machine/Sync.lean ====
section
/-! DEFINITION. Fences, barrier objects, completion stores and word waits (R107, R252 to R258). -/

namespace Sys2Proof.Machine
open Sys2Proof

/-- FENCE (R107, R252): a release, an acquire, or both. -/
def execFence (scope : Scope) (ord : Order) (s : State) : Host.Outcome State Fault Refusal :=
  run s (do
    let s1 ← if orderReleases ord then release s scope else .ok s
    if orderAcquires ord then acquire s1 scope else .ok s1)

/-! ## Barrier objects -/

/-- The checks of a barrier instruction (R254): an aligned object in DRAM or in a vault, as an atomic. A network window that
permits atomics passes R38 and is no place of an object. -/
def barrierCheck (s : State) (va : Nat) (req : ReqType) : Res (Part × State) := do
  illegalIf (va % 16 != 0)
  let (q, s0) ← translate s s.cur .atomic req va 8 0
  illegalIf q.loc.mem?.isNone
  let (ps, s1) ← checkStore s0 s.cur .atomic req true { idx := 0, va := va, n := 16 }
  stallIf (fifoFull s1 s.cur || typeWaits s1 s.cur req ps) s1
  match ps with
  | p :: _ => .ok (p, s1)
  | [] => .error illegal

/-- An atomic of a barrier instruction: the new object from the old. -/
def barrierUpdate (f : Nat → Nat) : Update :=
  { op := { minor := 0, ty := .u64 }, operands := [], new := fun bs => some (natToBytes 16 (f (bytesToNat bs))) }

/-- BARI (R254). -/
def execBari (base b : SReg) (imm : BitVec 32) (req : ReqType) (_scope : Scope) (s : State) :
    Host.Outcome State Fault Refusal :=
  let w := (s.rs b).toNat
  run s (do
    illegalIf (fld w 0 10 == 0 || fld w 10 22 != 0)
    let (p, s1) ← barrierCheck s (addrOf (s.rs base) imm) req
    (atomicPart s1 s.cur req p (barrierUpdate fun _ => fld w 0 10 + (fld w 32 32 <<< 32))).map fun r => r.2)

/-- The bit of GANGS that an arriving context sets: a supervisor core sets none (R253, R255). -/
def gangBit (cid : Nat) : Nat := if isSup cid then 0 else 1 <<< (gangOf cid % 64)

/-- A barrier object after an arrival of n, or none for an overrun (R255). -/
def arriveWord (old n cid : Nat) : Option Nat :=
  let expect := fld old 0 10
  let arrived := fld old 10 10
  let gangs := fld old 64 64 ||| gangBit cid
  let put := fun a ph g => setFld (setFld (setFld old 10 10 a) 20 4 ph) 64 64 g
  if expect < arrived + n then none
  else if arrived + n = expect then some (put 0 ((fld old 20 4 + 1) % 16) 0)
  else some (put (arrived + n) (fld old 20 4) gangs)

/-- The object with OVR set (R255). -/
def overrunWord (old : Nat) : Nat := setFld old 24 1 1

/-- An arrival of the current context with its release: the object's old bits (R254, R255). -/
def barrierArrive (s : State) (va n : Nat) (req : ReqType) (scope : Scope) : Res (Nat × State) := do
  illegalIf (n == 0 || decide (1023 < n))
  let s1 ← releaseFirst s scope fun s => (barrierCheck s va req).map fun _ => ()
  let (p, s2) ← barrierCheck s1 va req
  let (old, s3) ← atomicPart s2 s.cur req p (barrierUpdate fun w => (arriveWord w n s.cur).getD (overrunWord w))
  let w := bytesToNat old
  if (arriveWord w n s.cur).isNone then
    .error (.trapIn { code := 0x22, addr := va, info := overrunWord w % 2 ^ 64 } s3)
  else .ok (w, s3)

/-- The end of a barrier wait with a status: an acquire at the instruction's scope for status 0 (R256). -/
def barrierEnd (s : State) (dst : SReg) (scope : Scope) (st : Nat) : Res State := do
  let s1 ← if st = 0 then acquire s scope else .ok s
  .ok (s1.setS dst (wd st))

/-- A wait on phase p of the object at a place, decided when it issues (R253, R256). The context keeps the time at which the
wait began, and the object its bound. -/
def barrierDecide (s : State) (dst : SReg) (scope : Scope) (va p : Nat) (req : ReqType) (place : Part) : Res State := do
  let (bs, s1) ← atomicPart s s.cur req place Update.read
  let w := bytesToNat bs
  let since := match s.me.mid with
    | .waiting _ => s.me.deadline
    | _ => ungatedFor s s.cur
  match barrierStatus s s.cur since w p with
  | some st => barrierEnd s1 dst scope st
  | none => .error (.block (.barrier va p) since (s1.modMe fun c => { c with watch := place.loc.mem?, mid := .waiting p }))

/-- BARA (R254, R255). -/
def execBara (dst base n : SReg) (imm : BitVec 32) (req : ReqType) (scope : Scope) (s : State) :
    Host.Outcome State Fault Refusal :=
  run s (do
    let (old, s1) ← barrierArrive s (addrOf (s.rs base) imm) (s.rs n).toNat req scope
    .ok (s1.setS dst (wd old)))

/-- BARW (R254, R256). -/
def execBarw (dst base p : SReg) (imm : BitVec 32) (req : ReqType) (scope : Scope) (s : State) :
    Host.Outcome State Fault Refusal :=
  let va := addrOf (s.rs base) imm
  let ph := (s.rs p).toNat
  run s (match s.me.mid with
    | .result st => barrierEnd s dst scope st
    | _ => do
      illegalIf (decide (16 ≤ ph))
      let (place, s1) ← barrierCheck s va req
      barrierDecide s1 dst scope va ph req place)

/-- WBAR (R254, R256): an arrival, then a wait on the phase that it found. -/
def execWbar (dst base n : SReg) (imm : BitVec 32) (req : ReqType) (scope : Scope) (s : State) :
    Host.Outcome State Fault Refusal :=
  let va := addrOf (s.rs base) imm
  run s (match s.me.mid with
    | .result st => barrierEnd s dst scope st
    | .waiting ph => do
      let (place, s1) ← barrierCheck s va req
      barrierDecide s1 dst scope va ph req place
    | _ => do
      let (old, s1) ← barrierArrive s va (s.rs n).toNat req scope
      let ph := fld old 20 4
      let s2 := s1.modMe fun c => { c with mid := .waiting ph, deadline := ungatedFor s s.cur }
      let (place, s3) ← barrierCheck s2 va req
      barrierDecide s3 dst scope va ph req place)

/-! ## Completion words and word waits -/

/-- The request type that CMPL takes from its page: UNC for network windows, OWN elsewhere (R257). -/
def cmplReq (s : State) (va : Nat) : Res ReqType := do
  let (p, _) ← translateAs s s.cur .store none va 8 0
  .ok (match p.loc with | .net _ _ => .unc | _ => .own)

/-- The checks of CMPL. -/
def cmplCheck (s : State) (va : Nat) : Res (List Part × ReqType × State) := do
  illegalIf (va % 8 != 0)
  let req ← cmplReq s va
  let (ps, s1) ← checkStore s s.cur .store req (req != .unc) { idx := 0, va := va, n := 8 }
  .ok (ps, req, s1)

/-- CMPL (R133, R257): a release, then an 8-byte store that opens no record. -/
def execCmpl (base v : SReg) (imm : BitVec 32) (scope : Scope) (s : State) : Host.Outcome State Fault Refusal :=
  let va := addrOf (s.rs base) imm
  run s (do
    let s1 ← releaseFirst s scope fun s => (cmplCheck s va).map fun _ => ()
    let (ps, req, s2) ← cmplCheck s1 va
    stallIf (fifoFull s2 s.cur || typeWaits s2 s.cur req ps) s2
    retryWhole s2 (storeParts mmioOps s2 s.cur req false ps (natToBytes 8 (s.rs v).toNat)))

/-- The read of WAITW (R258): an 8-byte load of its request type. -/
def waitwRead (s : State) (va : Nat) (req : ReqType) : Res (List Part × List Byte × State) := do
  illegalIf (va % 8 != 0)
  let (ps, s1) ← checkLoad s s.cur req { idx := 0, va := va, n := 8 }
  stallIf (typeWaits s1 s.cur req ps) s1
  let (bs, s2) ← loadParts mmioOps { s1 with netOut := s1.netOut ++ netReads s1 ps } s.cur req ps
  let s3 ← if ps.any (inTile s2) then acquire s2 .die else .ok s2
  .ok (ps, bs, s3)

/-- The end of a word wait whose condition is met (R258). -/
def waitwMet (s : State) (dst : SReg) (scope : Scope) (ord : Order) : Res State := do
  let s1 ← if orderAcquires ord then acquire s scope else .ok s
  .ok (s1.setS dst 0#64)

/-- The time at which the bound of the current context's WAITW expires, 0 for none: it counts from the issue, through every wait
between (R258). -/
def waitwDeadline (s : State) (bound : Nat) : Nat :=
  if s.me.deadline ≠ 0 then s.me.deadline else if bound = 0 then 0 else cycleOf s (dieOf s.cur) + bound

/-- An instruction that waits at a blocking point under a deadline. -/
def underDeadline {α : Type} (deadline : Nat) : Res α → Res α
  | .error (.block w _ s) => .error (.block w deadline s)
  | r => r

/-- WAITW (R258): the condition is tried at issue and whenever the word's home serves a write; the bound gives status 1. -/
def execWaitw (dst base v bound : SReg) (imm : BitVec 32) (req : ReqType) (scope : Scope) (ord : Order) (cond : Cond)
    (s : State) : Host.Outcome State Fault Refusal :=
  let va := addrOf (s.rs base) imm
  let x := (s.rs v).toNat
  let deadline := waitwDeadline s (s.rs bound).toNat
  run s (match s.me.mid with
    | .result 0 => waitwMet (match waitwRead s va req with | .ok r => r.2.2 | .error _ => s) dst scope ord
    | .result _ => .ok (s.setS dst 1#64)
    | _ => underDeadline deadline (do
      let (ps, bs, s2) ← waitwRead s va req
      if condMet cond.code.toNat (bytesToNat bs) x then waitwMet s2 dst scope ord
      else if s.me.deadline ≠ 0 ∧ s.me.deadline ≤ cycleOf s (dieOf s.cur) then .ok (s2.setS dst 1#64)
      else .error (.block (.word va cond.code.toNat x) deadline
        (s2.modMe fun c => { c with watch := (ps.head?.bind fun p => p.loc.mem?), mid := .waiting 1 }))))

/-- What a context's bounded wait ends with now, where its bound has expired (R256, R258): a wait at a barrier object, decided by
R256, or a WAITW, at its word or at a tile that holds it. -/
def waitExpired (s : State) (cid : Nat) (c : Ctx) : Option Nat :=
  match c.wake, c.watch with
  | .barrier _ p, some a =>
    if boundPassed s cid c.deadline (readWord64 s a) then barrierStatus s cid c.deadline (readWord64 s a) p else none
  | .word .., _ | .tile .., _ => if c.deadline != 0 && decide (c.deadline ≤ cycleOf s (dieOf cid)) then some 1 else none
  | _, _ => none

/-- The bounded waits of some contexts that have outlasted their bounds end (R256, R258). -/
def expireWaits (s : State) (f : Nat → Bool) : State :=
  wakeAll s 0 (ownClock 0) fun k c => if f k then (waitExpired s k c).map fun st => some (.result st) else none


/-- BARRIER_WAIT_TIMEOUT (R256): the object's bound counts ungated core cycles from the wait's issue. -/
def execBarrierWaitTimeout (cid : Nat) (s : State) : Host.Outcome State Fault Refusal :=
  .next (expireWaits s fun k => k == cid)

/-- WAITW_TIMEOUT (R258): the bound counts core cycles. -/
def execWaitwTimeout (cid : Nat) (s : State) : Host.Outcome State Fault Refusal :=
  .next (expireWaits s fun k => k == cid)

/-- WAITW_WINDOW_POLL (R258): a word behind a network window is read again once 1,024 core cycles have passed. -/
def execWaitwWindowPoll (cid : Nat) (s : State) : Host.Outcome State Fault Refusal :=
  let now := cycleOf s (dieOf cid)
  .next (wakeAll s 7 (ownClock cid) fun k c =>
    if k = cid ∧ c.wake.kind = 7 ∧ c.watch = none ∧ c.blockedAt + 1024 ≤ now then some (some (.waiting 1)) else none)

end Sys2Proof.Machine
end

