-- ==== Sys2Proof/Machine/System.lean ====
section
/-! DEFINITION. Control registers and the system instructions (R159, R177, R186, R232 to R239). -/

namespace Sys2Proof.Machine
open Sys2Proof

/-- The privilege fault (R232, R235). -/
def privilegeFault : Stop := .trap { code := 0x13 }

/-! ## Control registers -/

/-- RDC (R232, R234). -/
def execRdc (dst : SReg) (num : BitVec 12) (s : State) : Host.Outcome State Fault Refusal :=
  run s (match ctlRead s s.cur num.toNat with
    | some x => .ok (s.setS dst (wd x))
    | none => .error illegal)

/-- A domain register's value that R186 refuses. -/
def domIllegal (v : Nat) : Bool :=
  bit v 51 && (decide (11 < fld v 8 4) || fld v 16 13 == 0 || decide (7680 < fld v 16 13)
    || decide (fld v 16 13 ≤ fld v 32 13) || fld v 48 3 == 0 || decide (4 < fld v 48 3))

/-- The phase of the domain entry that a domain register's value names, now (R186). -/
def phaseNow (s : State) (v : Nat) : Bool := (SMap.getD (s.die (fld v 8 4)).domains (fld v 0 8) {}).phase

/-- A register number of c.dom1 to c.dom4 (R232). -/
def isDom (n : Nat) : Bool := decide (0x10 ≤ n) && decide (n ≤ 0x13)

/-- The checks of WRC (R5, R159, R186, R232, R234): the value to be written. -/
def wrcValue (s : State) (n v : Nat) : Res Nat := do
  trapIf ((n == 0x20 || n == 0x21) && !sysEnabled s.cur) privilegeFault
  match ctlBits n v with
  | none => .error illegal
  | some x => do
    let kept := if isDom n then v % 2 ^ 63 else v
    trapIf (x != kept || (n == 1 && decide (4 < v))) (.trap { code := 0x11 })
    illegalIf (isDom n && (domIllegal x || (unpublished s s.cur).isSome))
    .ok (if isDom n then x + (b2n (phaseNow s x) <<< 63) else x)

/-- WRC (R34, R232, R234). -/
def execWrc (num : BitVec 12) (a : SReg) (s : State) : Host.Outcome State Fault Refusal :=
  run s ((wrcValue s num.toNat (s.rs a).toNat).map fun x =>
    (newRoot s s.cur num.toNat).modMe fun c => setCtl c num.toNat x)

/-! ## TRAP -/

/-- TRAP (R236): it completes, then the trap fault is taken with the next slot as the resume address.
DEDUCED, log entry 59. -/
def execTrap (code : BitVec 16) (s : State) : Host.Outcome State Fault Refusal :=
  .next (if awaitsBank s then stallNow s
    else takeFault (finish s) s.cur { code := 0x24, aux := code.toNat, srcPc := some s.me.pc })

/-! ## PAIR and UNPAIR -/

/-- A core's PAIR that still waits, within its 65,536 core cycles (R237). -/
def asks (s : State) (core : Nat) : Option PairAsk :=
  match (s.core core).pairWait with
  | some a =>
    let c := s.ctx (core * 16 + a.ctx)
    if c.mid = .waiting 237 ∧ c.st = .stalled ∧ cycleOf s (core / 256) < a.deadline then some a else none
  | none => none

/-- The current context's PAIR still waits, within its 65,536 core cycles (R237). -/
def askLasts (s : State) : Bool :=
  match (s.core (coreOf s.cur)).pairWait with
  | some a => a.ctx == ctxNo s.cur && decide (cycleOf s (dieOf s.cur) < a.deadline)
  | none => false

/-- A core's PAIR that no longer waits. -/
def endAsk (s : State) : State := s.modCore (coreOf s.cur) fun c =>
  { c with pairWait := match c.pairWait with | some a => if a.ctx = ctxNo s.cur then none else some a | none => none }

/-- A context that completes its PAIR with status 0 (R237). -/
def pairDone (dst : SReg) (c : Ctx) : Ctx := { retireInstr (c.setS dst 0#64) with pc := nextSlot c.pc, entry := .seq }

/-- The current context's PAIR meets the neighbour's, if that waits for it (R237). -/
def pairMeets (s : State) (dst : SReg) (dir : Nat) : Option State :=
  let core := coreOf s.cur
  match neighbour core dir with
  | none => none
  | some n =>
    match asks s n with
    | none => none
    | some b =>
      if neighbour n b.dir = some core then
        some (formPair s core (ctxNo s.cur) n b.ctx dir (pairDone (if core < n then dst else b.dst)))
      else none

/-- PAIR (R237). Where statuses 2 and 3 both apply it writes 2: the spec gives no order. DESIGN CHOICE, log entry 74. -/
def execPair (dst : SReg) (dir : BitVec 2) (s : State) : Host.Outcome State Fault Refusal :=
  let core := coreOf s.cur
  let d := dir.toNat
  let status := fun (v : Nat) => finish (s.setS dst (wd v))
  .next (match s.me.mid with
    | .result v => status v
    | .waiting _ => if askLasts s then (pairMeets s dst d).getD (stallNow s) else finish ((endAsk s).setS dst 1#64)
    | _ =>
      let free := match neighbour core d with
        | none => false
        | some n => (s.core core).pair.isNone && (s.core n).pair.isNone
      if !free then status 2
      else if (asks s core).isSome then status 3
      else
        let s1 := s.modMe fun c => { c with mid := .waiting 237 }
        let ask : PairAsk := { ctx := ctxNo s.cur, dir := d, deadline := cycleOf s (dieOf s.cur) + 65536, dst := dst }
        let s2 := s1.modCore core fun c => { c with pairWait := some ask }
        (pairMeets s2 dst d).getD (stallNow s2))

/-- A wait that has ended with a status: the context goes on with it. -/
def statusGo (v : Nat) (c : Ctx) : Ctx := unstall { c with mid := .result v }

/-- PAIR_TIMEOUT (R237). -/
def execPairTimeout (cid : Nat) (s : State) : Host.Outcome State Fault Refusal :=
  .next (match (s.core (coreOf cid)).pairWait with
    | some a =>
      if a.ctx = ctxNo cid ∧ (s.ctx cid).mid = .waiting 237 ∧ a.deadline ≤ cycleOf s (dieOf cid) then
        (s.modCtx cid (statusGo 1)).modCore (coreOf cid) fun c => { c with pairWait := none }
      else s
    | none => s)

/-- UNPAIR (R237, R404): the interval closes first, and only with its agreement does the pair end. -/
def execUnpair (dst : SReg) (s : State) : Host.Outcome State Fault Refusal :=
  .next (match pairOf s (coreOf s.cur) with
    | none => finish (s.setS dst 1#64)
    | some (lead, p, foll) =>
      if p.fresh then
        let s1 := finish (s.setS dst 0#64)
        let s2 := match (s1.core foll).pair with
          | some q =>
            if coreOf s.cur = lead ∧ p.ctx = ctxNo s.cur then
              s1.modCtx (q.cid foll) fun c => followCtx (s1.ctx (p.cid lead)) c
            else s1
          | none => s1
        unpairCores s2 lead foll
      else
        let ask := fun p : PairRec => { p with want := true }
        stallNow (modPair (modPair s lead ask) foll ask))

/-! ## IDLE -/

/-- IDLE (R235, R238). -/
def execIdle (dst : SReg) (imm : BitVec 32) (s : State) : Host.Outcome State Fault Refusal :=
  run s (match s.me.mid with
    | .result v => .ok (s.setS dst (wd v))
    | .waiting _ => .error (.stall s)
    | _ => do
      trapIf (!sysEnabled s.cur) privilegeFault
      illegalIf (!isSup s.cur)
      if s.me.message then .ok ((s.modMe fun c => { c with message := false }).setS dst 0#64)
      else .error (.stall (s.modMe fun c =>
        { c with mid := .waiting 238, deadline := if imm = 0#32 then 0 else cycleOf s (dieOf s.cur) + imm.toNat })))

/-- IDLE_TIMEOUT (R238). -/
def execIdleTimeout (cid : Nat) (s : State) : Host.Outcome State Fault Refusal :=
  let c := s.ctx cid
  .next (if c.mid = .waiting 238 ∧ c.deadline ≠ 0 ∧ c.deadline ≤ cycleOf s (dieOf cid) then s.modCtx cid (statusGo 1) else s)

/-! ## SVRES -/

/-- The core that a value names in the layout of c.self [15:4], for a supervisor of a die (R239). -/
def svresCore (die v : Nat) : Option Nat :=
  let y := fld v 8 4
  let x := fld v 4 4
  if fld v 0 4 ≠ 0 ∨ fld v 16 48 ≠ 0 ∨ fld v 12 4 ≠ die ∨ !(decide (y < 10) || (y == 15 && decide (x < 2))) then none
  else some (die * 256 + y * 16 + x)

/-- The contexts of a mask retired, and the others resumed (R239). DEDUCED, log entry 61. -/
def svresDo (s : State) (core op mask : Nat) : State :=
  let s1 := if op = 1 then
      ((List.range 4).filter fun i => bit mask i).foldl (fun s i => retireCtx s (16 * core + i)) s
    else s
  resumeCore s1 core

/-- SVRES (R235, R239). -/
def execSvres (dst a : SReg) (op : BitVec 2) (mask : BitVec 4) (s : State) : Host.Outcome State Fault Refusal :=
  run s (do
    trapIf (!sysEnabled s.cur) privilegeFault
    illegalIf (decide (2 ≤ op.toNat))
    match svresCore (dieOf s.cur) (s.rs a).toNat with
    | none => .error illegal
    | some core =>
      if !(s.core core).frozen then .ok (s.setS dst 1#64)
      else if (s.core core).bwr then .ok (s.setS dst 2#64)
      else .ok ((svresDo s core op.toNat mask.toNat).setS dst 0#64))

end Sys2Proof.Machine
end

