-- ==== Sys2Proof/Machine/Dispatch.lean ====
section
/-! DEFINITION. The dispatch of every instruction to its meaning: one arm for each constructor of Instr. -/

namespace Sys2Proof.Machine
open Sys2Proof

def exec (i : Instr) (s : State) : Host.Outcome State Fault Refusal :=
  match i with
  | .add dst a b sat => Sys2Proof.Machine.execAdd dst a b sat s
  | .sub dst a b sat => Sys2Proof.Machine.execSub dst a b sat s
  | .mul dst a b sat => Sys2Proof.Machine.execMul dst a b sat s
  | .mulh dst a b => Sys2Proof.Machine.execMulh dst a b s
  | .mulhu dst a b => Sys2Proof.Machine.execMulhu dst a b s
  | .div la dst a b => Sys2Proof.Machine.execDiv la dst a b s
  | .divu la dst a b => Sys2Proof.Machine.execDivu la dst a b s
  | .rem la dst a b => Sys2Proof.Machine.execRem la dst a b s
  | .remu la dst a b => Sys2Proof.Machine.execRemu la dst a b s
  | .andR dst a b => Sys2Proof.Machine.execAndR dst a b s
  | .orR dst a b => Sys2Proof.Machine.execOrR dst a b s
  | .xorR dst a b => Sys2Proof.Machine.execXorR dst a b s
  | .andn dst a b => Sys2Proof.Machine.execAndn dst a b s
  | .shl dst a b => Sys2Proof.Machine.execShl dst a b s
  | .shr dst a b => Sys2Proof.Machine.execShr dst a b s
  | .sar dst a b => Sys2Proof.Machine.execSar dst a b s
  | .rot dst a b => Sys2Proof.Machine.execRot dst a b s
  | .minS dst a b => Sys2Proof.Machine.execMinS dst a b s
  | .maxS dst a b => Sys2Proof.Machine.execMaxS dst a b s
  | .minu dst a b => Sys2Proof.Machine.execMinu dst a b s
  | .maxu dst a b => Sys2Proof.Machine.execMaxu dst a b s
  | .seq dst a b => Sys2Proof.Machine.execSeq dst a b s
  | .slt dst a b => Sys2Proof.Machine.execSlt dst a b s
  | .sltu dst a b => Sys2Proof.Machine.execSltu dst a b s
  | .addi dst a imm => Sys2Proof.Machine.execAddi dst a imm s
  | .subImm dst a imm => Sys2Proof.Machine.execSubImm dst a imm s
  | .mulImm dst a imm => Sys2Proof.Machine.execMulImm dst a imm s
  | .mulhImm dst a imm => Sys2Proof.Machine.execMulhImm dst a imm s
  | .mulhuImm dst a imm => Sys2Proof.Machine.execMulhuImm dst a imm s
  | .divImm la dst a imm => Sys2Proof.Machine.execDivImm la dst a imm s
  | .divuImm la dst a imm => Sys2Proof.Machine.execDivuImm la dst a imm s
  | .remImm la dst a imm => Sys2Proof.Machine.execRemImm la dst a imm s
  | .remuImm la dst a imm => Sys2Proof.Machine.execRemuImm la dst a imm s
  | .andImm dst a imm => Sys2Proof.Machine.execAndImm dst a imm s
  | .orImm dst a imm => Sys2Proof.Machine.execOrImm dst a imm s
  | .xorImm dst a imm => Sys2Proof.Machine.execXorImm dst a imm s
  | .andnImm dst a imm => Sys2Proof.Machine.execAndnImm dst a imm s
  | .shlImm dst a imm => Sys2Proof.Machine.execShlImm dst a imm s
  | .shrImm dst a imm => Sys2Proof.Machine.execShrImm dst a imm s
  | .sarImm dst a imm => Sys2Proof.Machine.execSarImm dst a imm s
  | .rotImm dst a imm => Sys2Proof.Machine.execRotImm dst a imm s
  | .minImm dst a imm => Sys2Proof.Machine.execMinImm dst a imm s
  | .maxImm dst a imm => Sys2Proof.Machine.execMaxImm dst a imm s
  | .minuImm dst a imm => Sys2Proof.Machine.execMinuImm dst a imm s
  | .maxuImm dst a imm => Sys2Proof.Machine.execMaxuImm dst a imm s
  | .seqImm dst a imm => Sys2Proof.Machine.execSeqImm dst a imm s
  | .sltImm dst a imm => Sys2Proof.Machine.execSltImm dst a imm s
  | .sltuImm dst a imm => Sys2Proof.Machine.execSltuImm dst a imm s
  | .mad dst a b c sat => Sys2Proof.Machine.execMad dst a b c sat s
  | .clz dst a => Sys2Proof.Machine.execClz dst a s
  | .popc dst a => Sys2Proof.Machine.execPopc dst a s
  | .brev dst a => Sys2Proof.Machine.execBrev dst a s
  | .exts dst a pos w => Sys2Proof.Machine.execExts dst a pos w s
  | .extu dst a pos w => Sys2Proof.Machine.execExtu dst a pos w s
  | .ins dst a pos w => Sys2Proof.Machine.execIns dst a pos w s
  | .sel dst a b c => Sys2Proof.Machine.execSel dst a b c s
  | .li dst imm => Sys2Proof.Machine.execLi dst imm s
  | .lih dst imm => Sys2Proof.Machine.execLih dst imm s
  | .addr dst imm => Sys2Proof.Machine.execAddr dst imm s
  | .fadd dst a b ty rnd fzi fzo => Sys2Proof.Machine.execFadd dst a b ty rnd fzi fzo s
  | .fsub dst a b ty rnd fzi fzo => Sys2Proof.Machine.execFsub dst a b ty rnd fzi fzo s
  | .fmul dst a b ty rnd fzi fzo => Sys2Proof.Machine.execFmul dst a b ty rnd fzi fzo s
  | .ffma dst a b c ty rnd fzi fzo => Sys2Proof.Machine.execFfma dst a b c ty rnd fzi fzo s
  | .fmin dst a b ty rnd fzi fzo => Sys2Proof.Machine.execFmin dst a b ty rnd fzi fzo s
  | .fmax dst a b ty rnd fzi fzo => Sys2Proof.Machine.execFmax dst a b ty rnd fzi fzo s
  | .fcmp dst a b ty p fzi fzo => Sys2Proof.Machine.execFcmp dst a b ty p fzi fzo s
  | .fcvt dst a ty src rnd fzi fzo sat nov => Sys2Proof.Machine.execFcvt dst a ty src rnd fzi fzo sat nov s
  | .br imm => Sys2Proof.Machine.execBr imm s
  | .beq a b imm => Sys2Proof.Machine.execBeq a b imm s
  | .bne a b imm => Sys2Proof.Machine.execBne a b imm s
  | .blt a b imm => Sys2Proof.Machine.execBlt a b imm s
  | .bge a b imm => Sys2Proof.Machine.execBge a b imm s
  | .bltu a b imm => Sys2Proof.Machine.execBltu a b imm s
  | .bgeu a b imm => Sys2Proof.Machine.execBgeu a b imm s
  | .bz a imm => Sys2Proof.Machine.execBz a imm s
  | .bnz a imm => Sys2Proof.Machine.execBnz a imm s
  | .jmp dst a => Sys2Proof.Machine.execJmp dst a s
  | .call dst imm => Sys2Proof.Machine.execCall dst imm s
  | .ret a => Sys2Proof.Machine.execRet a s
  | .loop a imm => Sys2Proof.Machine.execLoop a imm s
  | .align imm => Sys2Proof.Machine.execAlign imm s
  | .rep a imm => Sys2Proof.Machine.execRep a imm s
  | .nop => Sys2Proof.Machine.execNop s
  | .retire => Sys2Proof.Machine.execRetire s
  | .ld la ty dst base imm req scope ord => Sys2Proof.Machine.execLd la ty dst base imm req scope ord s
  | .st ty base data imm req scope ord => Sys2Proof.Machine.execSt ty base data imm req scope ord s
  | .ldv la ty dst base imm mask z req => Sys2Proof.Machine.execLdv la ty dst base imm mask z req s
  | .stv ty base data imm mask req => Sys2Proof.Machine.execStv ty base data imm mask req s
  | .ldvs la ty dst base stride imm mask z req => Sys2Proof.Machine.execLdvs la ty dst base stride imm mask z req s
  | .stvs ty base data stride imm mask req => Sys2Proof.Machine.execStvs ty base data stride imm mask req s
  | .gath la ty dst base idx extent imm mask z req => Sys2Proof.Machine.execGath la ty dst base idx extent imm mask z req s
  | .scat ty base idx data extent imm mask req => Sys2Proof.Machine.execScat ty base idx data extent imm mask req s
  | .scatAcc ty base idx data extent imm mask req scope rnd fzi fzo => Sys2Proof.Machine.execScatAcc ty base idx data extent imm mask req scope rnd fzi fzo s
  | .ldt la ty dst base imm mask z => Sys2Proof.Machine.execLdt la ty dst base imm mask z s
  | .stt ty base data imm mask => Sys2Proof.Machine.execStt ty base data imm mask s
  | .tdecl base size mode e => Sys2Proof.Machine.execTdecl base size mode e s
  | .tstateRead dst base e => Sys2Proof.Machine.execTstateRead dst base e s
  | .tstateArm dst base n e => Sys2Proof.Machine.execTstateArm dst base n e s
  | .tstateReady dst base e => Sys2Proof.Machine.execTstateReady dst base e s
  | .tstateEmpty dst base e => Sys2Proof.Machine.execTstateEmpty dst base e s
  | .tfree base e => Sys2Proof.Machine.execTfree base e s
  | .cinv base len imm => Sys2Proof.Machine.execCinv base len imm s
  | .cinvI base len imm => Sys2Proof.Machine.execCinvI base len imm s
  | .cflush base len imm => Sys2Proof.Machine.execCflush base len imm s
  | .promote la dst base imm => Sys2Proof.Machine.execPromote la dst base imm s
  | .shpin la dst base imm => Sys2Proof.Machine.execShpin la dst base imm s
  | .shunpin la dst base d imm => Sys2Proof.Machine.execShunpin la dst base d imm s
  | .bcastw la base data imm => Sys2Proof.Machine.execBcastw la base data imm s
  | .amoAdd la ty dst base b imm req scope ord => Sys2Proof.Machine.execAmoAdd la ty dst base b imm req scope ord s
  | .amoMin la ty dst base b imm req scope ord => Sys2Proof.Machine.execAmoMin la ty dst base b imm req scope ord s
  | .amoMax la ty dst base b imm req scope ord => Sys2Proof.Machine.execAmoMax la ty dst base b imm req scope ord s
  | .amoAnd la ty dst base b imm req scope ord => Sys2Proof.Machine.execAmoAnd la ty dst base b imm req scope ord s
  | .amoOr la ty dst base b imm req scope ord => Sys2Proof.Machine.execAmoOr la ty dst base b imm req scope ord s
  | .amoXor la ty dst base b imm req scope ord => Sys2Proof.Machine.execAmoXor la ty dst base b imm req scope ord s
  | .amoSwap la ty dst base b imm req scope ord => Sys2Proof.Machine.execAmoSwap la ty dst base b imm req scope ord s
  | .cas la ty dst base b c imm req scope ord => Sys2Proof.Machine.execCas la ty dst base b c imm req scope ord s
  | .amaxf la ty dst base b imm req scope ord nskip => Sys2Proof.Machine.execAmaxf la ty dst base b imm req scope ord nskip s
  | .fence scope ord => Sys2Proof.Machine.execFence scope ord s
  | .publ scope level => Sys2Proof.Machine.execPubl scope level s
  | .tide level => Sys2Proof.Machine.execTide level s
  | .bari base b imm req scope => Sys2Proof.Machine.execBari base b imm req scope s
  | .bara dst base n imm req scope => Sys2Proof.Machine.execBara dst base n imm req scope s
  | .barw dst base p imm req scope => Sys2Proof.Machine.execBarw dst base p imm req scope s
  | .wbar dst base n imm req scope => Sys2Proof.Machine.execWbar dst base n imm req scope s
  | .cmpl base v imm scope => Sys2Proof.Machine.execCmpl base v imm scope s
  | .waitw dst base v bound imm req scope ord cond => Sys2Proof.Machine.execWaitw dst base v bound imm req scope ord cond s
  | .vadd ty dst a b mask z rnd fzi fzo sat => Sys2Proof.Machine.execVadd ty dst a b mask z rnd fzi fzo sat s
  | .vsub ty dst a b mask z rnd fzi fzo sat => Sys2Proof.Machine.execVsub ty dst a b mask z rnd fzi fzo sat s
  | .vmul ty dst a b mask z rnd fzi fzo sat => Sys2Proof.Machine.execVmul ty dst a b mask z rnd fzi fzo sat s
  | .vfma ty dst a b c mask z rnd fzi fzo sat => Sys2Proof.Machine.execVfma ty dst a b c mask z rnd fzi fzo sat s
  | .vmin ty dst a b mask z rnd fzi fzo sat => Sys2Proof.Machine.execVmin ty dst a b mask z rnd fzi fzo sat s
  | .vmax ty dst a b mask z rnd fzi fzo sat => Sys2Proof.Machine.execVmax ty dst a b mask z rnd fzi fzo sat s
  | .vabs ty dst a mask z rnd fzi fzo sat => Sys2Proof.Machine.execVabs ty dst a mask z rnd fzi fzo sat s
  | .vneg ty dst a mask z rnd fzi fzo sat => Sys2Proof.Machine.execVneg ty dst a mask z rnd fzi fzo sat s
  | .vand ty dst a b mask z => Sys2Proof.Machine.execVand ty dst a b mask z s
  | .vor ty dst a b mask z => Sys2Proof.Machine.execVor ty dst a b mask z s
  | .vxor ty dst a b mask z => Sys2Proof.Machine.execVxor ty dst a b mask z s
  | .vshl ty dst a b mask z immk k => Sys2Proof.Machine.execVshl ty dst a b mask z immk k s
  | .vshr ty dst a b mask z immk k => Sys2Proof.Machine.execVshr ty dst a b mask z immk k s
  | .vsar ty dst a b mask z immk k => Sys2Proof.Machine.execVsar ty dst a b mask z immk k s
  | .vcmp ty dst a b p mask z => Sys2Proof.Machine.execVcmp ty dst a b p mask z s
  | .vsel ty dst a b mc mask z => Sys2Proof.Machine.execVsel ty dst a b mc mask z s
  | .vmov ty dst a mask z => Sys2Proof.Machine.execVmov ty dst a mask z s
  | .vmovToMask dst a => Sys2Proof.Machine.execVmovToMask dst a s
  | .vmovFromMask dst a => Sys2Proof.Machine.execVmovFromMask dst a s
  | .vmovsToScalar ty dst a k => Sys2Proof.Machine.execVmovsToScalar ty dst a k s
  | .vmovsToVector ty dst a k => Sys2Proof.Machine.execVmovsToVector ty dst a k s
  | .vbcast ty dst a mask z => Sys2Proof.Machine.execVbcast ty dst a mask z s
  | .viota ty dst a mask z => Sys2Proof.Machine.execViota ty dst a mask z s
  | .vcvt ty dst a src mask z rnd fzi fzo sat nov => Sys2Proof.Machine.execVcvt ty dst a src mask z rnd fzi fzo sat nov s
  | .vwmul ty dst a b mask z rnd fzi fzo => Sys2Proof.Machine.execVwmul ty dst a b mask z rnd fzi fzo s
  | .vwadd ty dst a b mask z rnd fzi fzo => Sys2Proof.Machine.execVwadd ty dst a b mask z rnd fzi fzo s
  | .vnarrow ty dst a sh mode mask z sat => Sys2Proof.Machine.execVnarrow ty dst a sh mode mask z sat s
  | .vdot la ty dst a b len rnd fzi fzo sat => Sys2Proof.Machine.execVdot la ty dst a b len rnd fzi fzo sat s
  | .vred la ty dst a op mask rnd fzi fzo sat => Sys2Proof.Machine.execVred la ty dst a op mask rnd fzi fzo sat s
  | .vscan la ty dst a init op mask z rnd fzi fzo sat excl => Sys2Proof.Machine.execVscan la ty dst a init op mask z rnd fzi fzo sat excl s
  | .vperm ty dst a b mask z => Sys2Proof.Machine.execVperm ty dst a b mask z s
  | .vrot ty dst a k mask z => Sys2Proof.Machine.execVrot ty dst a k mask z s
  | .vcompr ty dst a mask z => Sys2Proof.Machine.execVcompr ty dst a mask z s
  | .vexpand ty dst a mask z => Sys2Proof.Machine.execVexpand ty dst a mask z s
  | .vexp2 la ty dst a mask z fzi fzo => Sys2Proof.Machine.execVexp2 la ty dst a mask z fzi fzo s
  | .vexp la ty dst a mask z fzi fzo => Sys2Proof.Machine.execVexp la ty dst a mask z fzi fzo s
  | .vlog2 la ty dst a mask z fzi fzo => Sys2Proof.Machine.execVlog2 la ty dst a mask z fzi fzo s
  | .vlog la ty dst a mask z fzi fzo => Sys2Proof.Machine.execVlog la ty dst a mask z fzi fzo s
  | .vrcp la ty dst a mask z fzi fzo => Sys2Proof.Machine.execVrcp la ty dst a mask z fzi fzo s
  | .vrsq la ty dst a mask z fzi fzo => Sys2Proof.Machine.execVrsq la ty dst a mask z fzi fzo s
  | .vsqrt la ty dst a mask z fzi fzo => Sys2Proof.Machine.execVsqrt la ty dst a mask z fzi fzo s
  | .vtanh la ty dst a mask z fzi fzo => Sys2Proof.Machine.execVtanh la ty dst a mask z fzi fzo s
  | .gang => Sys2Proof.Machine.execGang s
  | .mzero ty dst n => Sys2Proof.Machine.execMzero ty dst n s
  | .mldb la ty base n stride pair sp => Sys2Proof.Machine.execMldb la ty base n stride pair sp s
  | .mgath la ty base idx extent pair imm => Sys2Proof.Machine.execMgath la ty base idx extent pair imm s
  | .mma la ty dst n rnd fzi fzo sat zs pair => Sys2Proof.Machine.execMma la ty dst n rnd fzi fzo sat zs pair s
  | .mmas la ty dst n vm rnd fzi fzo sat zs pair s48 => Sys2Proof.Machine.execMmas la ty dst n vm rnd fzi fzo sat zs pair s48 s
  | .mcomp la ty dst a b p s48 => Sys2Proof.Machine.execMcomp la ty dst a b p s48 s
  | .mscale ty a pair bside => Sys2Proof.Machine.execMscale ty a pair bside s
  | .mdrain la ty dst cell scale rnd fzo sat nov nskip scope acc row blk => Sys2Proof.Machine.execMdrain la ty dst cell scale rnd fzo sat nov nskip scope acc row blk s
  | .mdrainVault la ty dst base cell scale rnd fzo sat nov nskip scope acc => Sys2Proof.Machine.execMdrainVault la ty dst base cell scale rnd fzo sat nov nskip scope acc s
  | .copy h d src len req scope drain => Sys2Proof.Machine.execCopy h d src len req scope drain s
  | .copy2d h d src p req scope drain => Sys2Proof.Machine.execCopy2d h d src p req scope drain s
  | .put h r l n req scope sig ep => Sys2Proof.Machine.execPut h r l n req scope sig ep s
  | .get h l r n req scope ep => Sys2Proof.Machine.execGet h l r n req scope ep s
  | .radd ty h r b acc ep => Sys2Proof.Machine.execRadd ty h r b acc ep s
  | .trig h a acc => Sys2Proof.Machine.execTrig h a acc s
  | .cnti c b scope set => Sys2Proof.Machine.execCnti c b scope set s
  | .cntr dst c => Sys2Proof.Machine.execCntr dst c s
  | .htest dst h => Sys2Proof.Machine.execHtest dst h s
  | .hcancel h => Sys2Proof.Machine.execHcancel h s
  | .hwait dst h => Sys2Proof.Machine.execHwait dst h s
  | .hwaitToken dst k => Sys2Proof.Machine.execHwaitToken dst k s
  | .hmov dst h => Sys2Proof.Machine.execHmov dst h s
  | .htok dst h => Sys2Proof.Machine.execHtok dst h s
  | .rgrp dst spec => Sys2Proof.Machine.execRgrp dst spec s
  | .rgrpFree dst g => Sys2Proof.Machine.execRgrpFree dst g s
  | .nload dst g a n => Sys2Proof.Machine.execNload dst g a n s
  | .redcfg dst g c a => Sys2Proof.Machine.execRedcfg dst g c a s
  | .rstep h g a => Sys2Proof.Machine.execRstep h g a s
  | .rstat dst g sel => Sys2Proof.Machine.execRstat dst g sel s
  | .sqins ty dst a mask => Sys2Proof.Machine.execSqins ty dst a mask s
  | .shins ty dst a mask => Sys2Proof.Machine.execShins ty dst a mask s
  | .sdins ty dst a mask => Sys2Proof.Machine.execSdins ty dst a mask s
  | .smerge la dst a b kind => Sys2Proof.Machine.execSmerge la dst a b kind s
  | .sqq la dst a q => Sys2Proof.Machine.execSqq la dst a q s
  | .sqrank la dst a x => Sys2Proof.Machine.execSqrank la dst a x s
  | .shtop dst a j => Sys2Proof.Machine.execShtop dst a j s
  | .sdest dst a => Sys2Proof.Machine.execSdest dst a s
  | .scoin dst a init => Sys2Proof.Machine.execScoin dst a init s
  | .gnode dst a => Sys2Proof.Machine.execGnode dst a s
  | .gdep dst a b => Sys2Proof.Machine.execGdep dst a b s
  | .gsub h a => Sys2Proof.Machine.execGsub h a s
  | .crew dst imm => Sys2Proof.Machine.execCrew dst imm s
  | .yield imm => Sys2Proof.Machine.execYield imm s
  | .rdc dst num => Sys2Proof.Machine.execRdc dst num s
  | .wrc num a => Sys2Proof.Machine.execWrc num a s
  | .trap code => Sys2Proof.Machine.execTrap code s
  | .pair dst dir => Sys2Proof.Machine.execPair dst dir s
  | .unpair dst => Sys2Proof.Machine.execUnpair dst s
  | .idle dst imm => Sys2Proof.Machine.execIdle dst imm s
  | .svres dst a op mask => Sys2Proof.Machine.execSvres dst a op mask s
  | .newtWord bank => Sys2Proof.Machine.execNewtWord bank s
  | .newtResultReady bank unit => Sys2Proof.Machine.execNewtResultReady bank unit s
  | .stepLeaveArmed die grp => Sys2Proof.Machine.execStepLeaveArmed die grp s
  | .stepMoveComplete die grp => Sys2Proof.Machine.execStepMoveComplete die grp s
  | .stepPublishComplete die grp => Sys2Proof.Machine.execStepPublishComplete die grp s
  | .stepTimeout die grp => Sys2Proof.Machine.execStepTimeout die grp s
  | .nloadCopyDone cid => Sys2Proof.Machine.execNloadCopyDone cid s
  | .powerUpBoot => Sys2Proof.Machine.execPowerUpBoot s
  | .firmwareUpdate image sig key => Sys2Proof.Machine.execFirmwareUpdate image sig key s
  | .attestationRequest challenge => Sys2Proof.Machine.execAttestationRequest challenge s
  | .debugAuthenticate key sig => Sys2Proof.Machine.execDebugAuthenticate key sig s
  | .lifecycleAdvance stage => Sys2Proof.Machine.execLifecycleAdvance stage s
  | .registerWrite pa size val => Sys2Proof.Machine.execRegisterWrite pa size val s
  | .supervisorGo die => Sys2Proof.Machine.execSupervisorGo die s
  | .tlbInvalidateGo die val => Sys2Proof.Machine.execTlbInvalidateGo die val s
  | .tlbInvalidateDone die => Sys2Proof.Machine.execTlbInvalidateDone die s
  | .pageWalkComplete die walker => Sys2Proof.Machine.execPageWalkComplete die walker s
  | .formatWindowDisable stack win => Sys2Proof.Machine.execFormatWindowDisable stack win s
  | .formatWindowDisableAck stack win => Sys2Proof.Machine.execFormatWindowDisableAck stack win s
  | .inboundRemoteWrite io key off data => Sys2Proof.Machine.execInboundRemoteWrite io key off data s
  | .inboundRemoteRead io key off len => Sys2Proof.Machine.execInboundRemoteRead io key off len s
  | .inboundRemoteAtomic io key off size op a b => Sys2Proof.Machine.execInboundRemoteAtomic io key off size op a b s
  | .homeRequest idx => Sys2Proof.Machine.execHomeRequest idx s
  | .dirtyFifoAck core => Sys2Proof.Machine.execDirtyFifoAck core s
  | .releaseComplete core => Sys2Proof.Machine.execReleaseComplete core s
  | .remoteLoadReply cid => Sys2Proof.Machine.execRemoteLoadReply cid s
  | .bankOperation bank => Sys2Proof.Machine.execBankOperation bank s
  | .refresh bank => Sys2Proof.Machine.execRefresh bank s
  | .patrolScrub bank => Sys2Proof.Machine.execPatrolScrub bank s
  | .shmodeWrite bank val => Sys2Proof.Machine.execShmodeWrite bank val s
  | .bkmodeClearRefused bank => Sys2Proof.Machine.execBkmodeClearRefused bank s
  | .shmodeChangeDone bank => Sys2Proof.Machine.execShmodeChangeDone bank s
  | .rowRetireGo bank prow => Sys2Proof.Machine.execRowRetireGo bank prow s
  | .rowRetireDone bank => Sys2Proof.Machine.execRowRetireDone bank s
  | .tileArrival op => Sys2Proof.Machine.execTileArrival op s
  | .engineOperationComplete op => Sys2Proof.Machine.execEngineOperationComplete op s
  | .copyEngineStart die => Sys2Proof.Machine.execCopyEngineStart die s
  | .tideArrival die => Sys2Proof.Machine.execTideArrival die s
  | .ebbComplete die entry => Sys2Proof.Machine.execEbbComplete die entry s
  | .domainEnable die entry val => Sys2Proof.Machine.execDomainEnable die entry val s
  | .domainAbort die entry => Sys2Proof.Machine.execDomainAbort die entry s
  | .deferredCompletionStore idx => Sys2Proof.Machine.execDeferredCompletionStore idx s
  | .fetchPortServe gang => Sys2Proof.Machine.execFetchPortServe gang s
  | .icacheFill gang => Sys2Proof.Machine.execIcacheFill gang s
  | .lineRefetch cid => Sys2Proof.Machine.execLineRefetch cid s
  | .alignRelease cid => Sys2Proof.Machine.execAlignRelease cid s
  | .alignBoundExpiry cid => Sys2Proof.Machine.execAlignBoundExpiry cid s
  | .repPassIssue cid => Sys2Proof.Machine.execRepPassIssue cid s
  | .barrierWaitTimeout cid => Sys2Proof.Machine.execBarrierWaitTimeout cid s
  | .waitwTimeout cid => Sys2Proof.Machine.execWaitwTimeout cid s
  | .waitwWindowPoll cid => Sys2Proof.Machine.execWaitwWindowPoll cid s
  | .yieldExpiry cid => Sys2Proof.Machine.execYieldExpiry cid s
  | .idleTimeout cid => Sys2Proof.Machine.execIdleTimeout cid s
  | .pairTimeout cid => Sys2Proof.Machine.execPairTimeout cid s
  | .gangBarrierComplete gang => Sys2Proof.Machine.execGangBarrierComplete gang s
  | .matrixOperandLoadDone core => Sys2Proof.Machine.execMatrixOperandLoadDone core s
  | .successorReleaseMessage die => Sys2Proof.Machine.execSuccessorReleaseMessage die s
  | .priorityAging die entry => Sys2Proof.Machine.execPriorityAging die entry s
  | .dispatchTask die => Sys2Proof.Machine.execDispatchTask die s
  | .dispatchGangtask die => Sys2Proof.Machine.execDispatchGangtask die s
  | .dispatchCrew die => Sys2Proof.Machine.execDispatchCrew die s
  | .dispatchStep die => Sys2Proof.Machine.execDispatchStep die s
  | .dispatchCopy die => Sys2Proof.Machine.execDispatchCopy die s
  | .queueEnable io q val => Sys2Proof.Machine.execQueueEnable io q val s
  | .queueSwitchOut io q => Sys2Proof.Machine.execQueueSwitchOut io q s
  | .queueSwitchIn io q => Sys2Proof.Machine.execQueueSwitchIn io q s
  | .queueVisit io => Sys2Proof.Machine.execQueueVisit io s
  | .tranarNop io => Sys2Proof.Machine.execTranarNop io s
  | .tranarGraph io => Sys2Proof.Machine.execTranarGraph io s
  | .tranarCopy io => Sys2Proof.Machine.execTranarCopy io s
  | .tranarStore io => Sys2Proof.Machine.execTranarStore io s
  | .faultPacketDelivery die => Sys2Proof.Machine.execFaultPacketDelivery die s
  | .faultRingEnable die sup val => Sys2Proof.Machine.execFaultRingEnable die sup val s
  | .debugUnpark cid => Sys2Proof.Machine.execDebugUnpark cid s
  | .debugEvict cid => Sys2Proof.Machine.execDebugEvict cid s
  | .debugPcWrite cid pc => Sys2Proof.Machine.execDebugPcWrite cid pc s
  | .automaticEviction die => Sys2Proof.Machine.execAutomaticEviction die s
  | .contextRestore cid => Sys2Proof.Machine.execContextRestore cid s
  | .wakeEventRetry die => Sys2Proof.Machine.execWakeEventRetry die s
  | .breakwaterFence die bw => Sys2Proof.Machine.execBreakwaterFence die bw s
  | .breakwaterReset die bw => Sys2Proof.Machine.execBreakwaterReset die bw s
  | .breakwaterResetDone die bw => Sys2Proof.Machine.execBreakwaterResetDone die bw s
  | .breakwaterRelease die bw => Sys2Proof.Machine.execBreakwaterRelease die bw s
  | .pairIntervalClose cid => Sys2Proof.Machine.execPairIntervalClose cid s
  | .pairFingerprintExchange cid => Sys2Proof.Machine.execPairFingerprintExchange cid s
  | .redundantRunGo die => Sys2Proof.Machine.execRedundantRunGo die s
  | .redundantRunCompare die => Sys2Proof.Machine.execRedundantRunCompare die s
  | .counterPersist unit => Sys2Proof.Machine.execCounterPersist unit s
  | .orderlyPowerDown => Sys2Proof.Machine.execOrderlyPowerDown s
  | .linkDown link => Sys2Proof.Machine.execLinkDown link s
  | .linkErrorRateReplan link => Sys2Proof.Machine.execLinkErrorRateReplan link s
  | .powerGrantRequest => Sys2Proof.Machine.execPowerGrantRequest s
  | .packageEnterP3 => Sys2Proof.Machine.execPackageEnterP3 s
  | .packageLeaveP3 => Sys2Proof.Machine.execPackageLeaveP3 s
  | .powerMeasurementInterval dies stks => Sys2Proof.Machine.execPowerMeasurementInterval dies stks s
  | .dieReturnToP0 die => Sys2Proof.Machine.execDieReturnToP0 die s
  | .unitWithdraw unit => Sys2Proof.Machine.execUnitWithdraw unit s
  | .unitReturn unit => Sys2Proof.Machine.execUnitReturn unit s
  | .checkpointGo => Sys2Proof.Machine.execCheckpointGo s
  | .checkpointComplete ok => Sys2Proof.Machine.execCheckpointComplete ok s
  | .longLatencyInstructionComplete cid => Sys2Proof.Machine.execLongLatencyInstructionComplete cid s
  | .powerLoss => Sys2Proof.Machine.execPowerLoss s
  | .thermalExcursion die bucket => Sys2Proof.Machine.execThermalExcursion die bucket s
  | .supplyDroop die bucket => Sys2Proof.Machine.execSupplyDroop die bucket s
  | .linkRetry link => Sys2Proof.Machine.execLinkRetry link s
  | .linkReenable link => Sys2Proof.Machine.execLinkReenable link s
  | .unitWithdrawalComplete unit => Sys2Proof.Machine.execUnitWithdrawalComplete unit s
  | .unitReturnComplete unit => Sys2Proof.Machine.execUnitReturnComplete unit s
  | .inboundUnsupportedPacket io => Sys2Proof.Machine.execInboundUnsupportedPacket io s

end Sys2Proof.Machine
end

