-- ==== Sys2Proof/Machine/Events.lean ====
section
/-! DEFINITION. What the turns of other agents may be: the events of the opcode table, and those that a package in P3 takes
(R417, R418). -/

namespace Sys2Proof.Machine
open Sys2Proof

/-- An event of another agent, not an instruction of a program. -/
def isEvent : Instr → Bool
  | .newtWord .. => true
  | .newtResultReady .. => true
  | .stepLeaveArmed .. => true
  | .stepMoveComplete .. => true
  | .stepPublishComplete .. => true
  | .stepTimeout .. => true
  | .nloadCopyDone .. => true
  | .powerUpBoot => true
  | .firmwareUpdate .. => true
  | .attestationRequest .. => true
  | .debugAuthenticate .. => true
  | .lifecycleAdvance .. => true
  | .registerWrite .. => true
  | .supervisorGo .. => true
  | .tlbInvalidateGo .. => true
  | .tlbInvalidateDone .. => true
  | .pageWalkComplete .. => true
  | .formatWindowDisable .. => true
  | .formatWindowDisableAck .. => true
  | .inboundRemoteWrite .. => true
  | .inboundRemoteRead .. => true
  | .inboundRemoteAtomic .. => true
  | .homeRequest .. => true
  | .dirtyFifoAck .. => true
  | .releaseComplete .. => true
  | .remoteLoadReply .. => true
  | .bankOperation .. => true
  | .refresh .. => true
  | .patrolScrub .. => true
  | .shmodeWrite .. => true
  | .bkmodeClearRefused .. => true
  | .shmodeChangeDone .. => true
  | .rowRetireGo .. => true
  | .rowRetireDone .. => true
  | .tileArrival .. => true
  | .engineOperationComplete .. => true
  | .copyEngineStart .. => true
  | .tideArrival .. => true
  | .ebbComplete .. => true
  | .domainEnable .. => true
  | .domainAbort .. => true
  | .deferredCompletionStore .. => true
  | .fetchPortServe .. => true
  | .icacheFill .. => true
  | .lineRefetch .. => true
  | .alignRelease .. => true
  | .alignBoundExpiry .. => true
  | .repPassIssue .. => true
  | .barrierWaitTimeout .. => true
  | .waitwTimeout .. => true
  | .waitwWindowPoll .. => true
  | .yieldExpiry .. => true
  | .idleTimeout .. => true
  | .pairTimeout .. => true
  | .gangBarrierComplete .. => true
  | .matrixOperandLoadDone .. => true
  | .successorReleaseMessage .. => true
  | .priorityAging .. => true
  | .dispatchTask .. => true
  | .dispatchGangtask .. => true
  | .dispatchCrew .. => true
  | .dispatchStep .. => true
  | .dispatchCopy .. => true
  | .queueEnable .. => true
  | .queueSwitchOut .. => true
  | .queueSwitchIn .. => true
  | .queueVisit .. => true
  | .tranarNop .. => true
  | .tranarGraph .. => true
  | .tranarCopy .. => true
  | .tranarStore .. => true
  | .faultPacketDelivery .. => true
  | .faultRingEnable .. => true
  | .debugUnpark .. => true
  | .debugEvict .. => true
  | .debugPcWrite .. => true
  | .automaticEviction .. => true
  | .contextRestore .. => true
  | .wakeEventRetry .. => true
  | .breakwaterFence .. => true
  | .breakwaterReset .. => true
  | .breakwaterResetDone .. => true
  | .breakwaterRelease .. => true
  | .pairIntervalClose .. => true
  | .pairFingerprintExchange .. => true
  | .redundantRunGo .. => true
  | .redundantRunCompare .. => true
  | .counterPersist .. => true
  | .orderlyPowerDown => true
  | .linkDown .. => true
  | .linkErrorRateReplan .. => true
  | .powerGrantRequest => true
  | .packageEnterP3 => true
  | .packageLeaveP3 => true
  | .powerMeasurementInterval .. => true
  | .dieReturnToP0 .. => true
  | .unitWithdraw .. => true
  | .unitReturn .. => true
  | .checkpointGo => true
  | .checkpointComplete .. => true
  | .longLatencyInstructionComplete .. => true
  | .powerLoss => true
  | .thermalExcursion .. => true
  | .supplyDroop .. => true
  | .linkRetry .. => true
  | .linkReenable .. => true
  | .unitWithdrawalComplete .. => true
  | .unitReturnComplete .. => true
  | .inboundUnsupportedPacket .. => true
  | _ => false

/-- The events that the boot ROM, the firmware of IO0, the management endpoint and the supply bring about, which neither P3 nor
recovery holds (R414, R417). -/
def firmwareEvent : Instr → Bool
  | .packageLeaveP3 | .powerUpBoot | .powerLoss | .orderlyPowerDown | .firmwareUpdate .. | .debugAuthenticate ..
  | .lifecycleAdvance .. => true
  | _ => false

/-- The events by which the external debugger acts at debug windows; a supervisor program stores to them (R385, R417). -/
def debuggerEvent : Instr → Bool
  | .debugUnpark .. | .debugEvict .. | .debugPcWrite .. => true
  | _ => false

/-- Whether an event may happen now (R414, R417): the debugger acts where debug is open, a register is written by it or by firmware in
force, and no other agent acts in P3 or in recovery. DESIGN CHOICE, log entry 50. -/
def eventHappens (s : State) (i : Instr) : Bool :=
  isEvent i && (
    if debuggerEvent i then s.pkg.debugOpen
    else match i with
      | .registerWrite .. => s.pkg.firmware.isSome || s.pkg.debugOpen
      | _ => firmwareEvent i || (!s.pkg.p3 && !s.pkg.recovery))

end Sys2Proof.Machine
end

