-- ==== Sys2Proof/Machine/Turns.lean ====
section
/-! DEFINITION. Turns: which context of a core issues, fetching, decoding and checking its next instruction, replays, the two
sides of a pair, the passage of time and bit upsets (R183, R203, R207, R214, R371, R380, R388, R398 to R404, R417). -/

namespace Sys2Proof.Machine
open Sys2Proof

/-! ## Who issues -/

/-- Programs run on a die: firmware is in force, the package is not in P3, and the die is neither parked nor out (R414, R417,
R420). -/
def dieRuns (s : State) (die : Nat) : Bool :=
  programsRun s && !s.pkg.p3 && (s.die die).pstate != 2 && (if h : die < 38 then decide (s.pkg.svuState[die] ≤ 1) else false)

/-- A context that its core may let issue: ready on a core that runs. A follower issues with its leader, and a pair that is to close its
interval issues nothing (R402, R403). -/
def isReady (s : State) (cid : Nat) : Bool :=
  (s.ctx cid).st == .ready && (match pairOfCtx s cid with
    | none => true
    | some (_, p, foll) => coreOf cid != foll && !p.closed && !p.want && !(s.core foll).frozen)

/-- The first ready context of a core in the order of its rotation (R371). -/
def firstReady (s : State) (core : Nat) : Option Nat :=
  ((List.range 4).map fun i => 16 * core + ((s.core core).rot + i) % 4).find? (isReady s)

/-- A stalled context whose condition has cleared (R182). -/
def clearStall (s : State) (cid : Nat) : State := s.modCtx cid fun c => { c with st := .ready }

/-- The rotation after a context has issued (R371): a context that stalls has not. -/
def rotate (s : State) (cid : Nat) : State :=
  if (s.ctx cid).st = .stalled then s else s.modCore (coreOf cid) fun c => { c with rot := (ctxNo cid + 1) % 4 }

/-! ## The next instruction -/

/-- The next instruction of the current context, with the state in which it issues: of a pass while the sequencer runs,
otherwise, and where one is to be performed again, from its line (R192, R205, R207, R388). -/
def nextInstr (s : State) : Except (Stop × State) (Instr × State) :=
  if s.me.rep.body.isEmpty || s.me.replayV then
    match fetchLine s s.cur with
    | .error e => .error (e, s)
    | .ok (bs, s1) =>
      match slotInstr (slotBits bs (s1.me.pc % 64 / 12)) with
      | .ok i => .ok (i, s1)
      | .error code => .error (.trap { code := code }, s1)
  else
    let s1 := s.modMe fun c => { c with passing := true }
    match passInstr s1.me.rep with
    | .ok i => .ok (i, s1)
    | .error code => .error (.trap { code := code }, s1)

/-- The meaning of the current context's instruction, of a pass or not. -/
def perform (i : Instr) (s : State) : Host.Outcome State Fault Refusal :=
  if s.me.passing then bodyExec i s else exec i s

/-- The lookahead field of an instruction (R213). -/
def laOf (i : Instr) : Nat := match encode i with | some w => (Fields.unpack w).la.toNat | none => 0

/-- The window of a summary instruction that has just opened it is marked so (R351). -/
def markSummary (c : Ctx) : Ctx :=
  { c with windows := c.windows.zipIdx.map fun p => if p.2 + 1 = c.windows.length then { p.1 with summary := true } else p.1 }

/-- After an instruction of a context: registers that it wrote carry no earlier upset. -/
def afterIssue (s : State) (cid : Nat) (i : Instr) (s1 : State) : State :=
  if (s1.ctx cid).icount = (s.ctx cid).icount then s1
  else
    let s2 := clearUpsets s1 cid (regUse s i).2
    let opened := laOf i != 0 && !(s2.ctx cid).windows.isEmpty
    if isSummary i && opened then s2.modCtx cid markSummary else s2

/-- A context made the current one, as it tries to issue. -/
def beginIssue (s : State) (cid : Nat) : State := { s with cur := cid }.modCtx cid fun c => { c with st := .ready }

/-! ## Lookahead and replay -/

/-- The number of a scalar or vector register. -/
def srcNumber : RegName → Option Nat
  | .s r => some r.toNat
  | .v r => some r.toNat
  | _ => none

/-- Source fields matched in order with the registers that an instruction reads. -/
def matchSrcs : List Nat → List RegName → List (Option RegName)
  | [], _ => []
  | n :: ns, us =>
    match us.find? fun u => srcNumber u == some n with
    | some u => some u :: matchSrcs ns (us.erase u)
    | none => none :: matchSrcs ns us

/-- The registers that the fields src1, src2 and src3 of an instruction name (R208, R380). The third source of MCOMP is a pair
(R302), which no other long-latency instruction that can fault has. -/
def srcNames (s : State) (i : Instr) : List (List RegName) :=
  match encode i, i with
  | none, _ => []
  | some _, .mcomp _ _ _ a b p _ => [[.s a], [.s b], sPair p]
  | some w, _ =>
    let f := Fields.unpack w
    (matchSrcs [f.src1.toNat, f.src2.toNat, f.src3.toNat] (regUse s i).1).map Option.toList

/-- The bits of a source operand's registers in order, the first lowest. -/
def srcValue (c : Ctx) : List RegName → BitVec 4096
  | [] => 0#4096
  | .s r :: us => (c.getS r).setWidth 4096 ||| srcValue c us <<< 64
  | .v r :: _ => c.getV r
  | _ :: us => srcValue c us

/-- A source operand's registers with its bits. -/
def putSrc (c : Ctx) : List RegName → BitVec 4096 → Ctx
  | [], _ => c
  | .s r :: us, x => putSrc (c.setS r (x.setWidth 64)) us (x >>> 64)
  | .v r :: _, x => c.setV r x
  | _ :: us, x => putSrc c us x

/-- The matrix latch that an instruction loads: whether it is on the B side, and its pair (R297). -/
def latchOf : Instr → Option (Bool × Nat)
  | .mgath _ _ _ _ _ pair _ => some (false, pair.toNat)
  | .mldb _ _ _ _ _ pair _ => some (true, pair.toNat)
  | _ => none

/-- What a long-latency instruction with lookahead keeps of its issue (R214, R380). -/
def lookOf (s : State) (i : Instr) : Option Look :=
  if laOf i = 0 then none
  else
    let ns := srcNames s i
    some { la := laOf i, dests := (regUse s i).2, ops := Vector.ofFn fun k => srcValue s.me (ns.getD k.val []),
           latch := latchOf i, summary := isSummary i }

/-- An instruction issues with what it keeps of its issue. -/
def noteLook (s : State) (i : Instr) : State :=
  match lookOf s i with
  | none => s
  | some k => s.modMe fun c => { c with look := if c.passing then none else some k }

/-- The current context with the operands of its replay record in the source registers of the instruction (R380, R388). -/
def withRecord (s : State) (i : Instr) : State :=
  (srcNames s i).zipIdx.foldl (fun s p => s.modMe fun c => putSrc c p.1 ((c.replay.toList).getD p.2 0#4096)) s

/-- The source registers as they were before the replay, but for those that the instruction wrote. -/
def restoreSrcs (s : State) (i : Instr) (old c : Ctx) (done : Bool) : Ctx :=
  (srcNames s i).flatten.foldl (fun c u =>
    if done && (regUse s i).2.contains u then c else putSrc c [u] (srcValue old [u])) c

/-- After an instruction that was performed again (R388): once it has completed, its window holds the rest of its instructions,
and the context goes on at the first that had not completed. -/
def afterReplay (s : State) (cid : Nat) (i : Instr) (s1 : State) : State :=
  let old := s.ctx cid
  let done := (s1.ctx cid).icount != old.icount
  s1.modCtx cid fun c =>
    let c1 := restoreSrcs s i old c done
    if done then
      { c1 with replayV := false, ahead := 0, pc := old.skipTo, entry := .plain,
                windows := old.windows ++ (c1.windows.getLast?.toList.map fun w => { w with left := w.left - old.ahead }) }
    else c1

/-- The meaning of the current context's instruction: again on its replay record, or anew (R388). -/
def performNext (i : Instr) (s : State) : Host.Outcome State Fault Refusal :=
  if s.me.replayV then
    match perform i (withRecord s i) with
    | .next s1 => .next (afterReplay s s.cur i s1)
    | o => o
  else perform i (noteLook s i)

/-! ## Issue -/

/-- A context tries to issue its next instruction; one with an enabled floating-point condition parks first (R182, R389). -/
def issueSlot (s : State) (cid : Nat) : Host.Outcome State Fault Refusal :=
  if (s.ctx cid).ev ≠ 0 then .next (parkIfEvent s cid)
  else match nextInstr (beginIssue s cid) with
  | .error (e, s1) => .next (stopNow s1 e)
  | .ok (i, s1) =>
    match issueCheck s1 i with
    | .error e => .next (stopNow s1 e)
    | .ok s2 =>
      match performNext i s2 with
      | .next s3 => .next (afterIssue s2 cid i s3)
      | o => o

/-- Two slots may issue in one core cycle: the second neither reads nor writes a register that the first writes (R203). -/
def slotsFree (s : State) (i j : Instr) : Bool :=
  let ws := (regUse s i).2.filter fun u => !u.discards
  !((regUse s j).1 ++ (regUse s j).2).any ws.contains

/-- A context has issued the first slot of a pair in sequence, and is ready for the second (R203). -/
def pairReady (s s1 : State) (cid : Nat) : Bool :=
  let b := s.ctx cid
  let c := s1.ctx cid
  let k := b.pc % 64 / 12
  c.icount != b.icount && c.st == .ready && c.ev == 0 && b.rep.body.isEmpty && c.rep.body.isEmpty && !b.replayV
    && c.entry == .seq && c.pc == nextSlot b.pc && decide (k < 4)
    && (match c.line with
      | none => false
      | some l => l.va == lineAddr c.pc && bit (lineWord l.bytes) (8 + k) &&
        (match slotInstr (slotBits l.bytes k), slotInstr (slotBits l.bytes (k + 1)) with
          | .ok i, .ok j => slotsFree { s with cur := cid } i j
          | _, _ => false))

/-- A context issues: one instruction, or the two of a pair, after which the rotation moves (R203, R371). -/
def issueOne (s : State) (cid : Nat) : Host.Outcome State Fault Refusal :=
  match issueSlot s cid with
  | .next s1 =>
    if pairReady s s1 cid then
      match issueSlot s1 cid with
      | .next s2 => .next (rotate (if (s2.ctx cid).st = .stalled then s1 else s2) cid)
      | o => o
    else .next (rotate s1 cid)
  | o => o

/-! ## Pairs -/

/-- The major opcode of an instruction. -/
def majorOf (i : Instr) : Nat := match encode i with | some w => slotMajor w | none => 0

/-- Instructions that only read and write registers, which each side of a pair performs for itself (R402). -/
def eachSide (i : Instr) : Bool :=
  let m := majorOf i
  match i with
  | .loop .. => true
  | _ => decide (m < 0x22) || (decide (0x50 ≤ m) && decide (m ≤ 0x80)) || m == 0xC0

/-- Instructions before which an interval closes (R403), but for those that a blocking point or a window shows. -/
def closesInterval (i : Instr) : Bool :=
  match i with
  | .st _ _ _ _ req _ ord => req == .unc || orderReleases ord
  | .stv _ _ _ _ _ req | .stvs _ _ _ _ _ _ req | .scat _ _ _ _ _ _ _ req => req == .unc
  | .scatAcc .. | .bcastw .. | .tstateArm .. | .tstateReady .. | .tstateEmpty .. | .tfree .. | .retire => true
  | .fence _ ord => orderReleases ord
  | _ =>
    let m := majorOf i
    m == 0x40 || m == 0x41 || m == 0x42 || m == 0x43 || (decide (0xA0 ≤ m) && m != 0xC0)

/-- A pairing context's bank operations complete before its next instruction. -/
def waitsForBank : Instr → Instr
  | .promote _ dst base imm => .promote 0#4 dst base imm
  | .shpin _ dst base imm => .shpin 0#4 dst base imm
  | .shunpin _ dst base d imm => .shunpin 0#4 dst base d imm
  | i => i

/-- The stores of a vector of data for a fingerprint: the addresses and bytes of the active elements. -/
def vecData (t : ElemType) (bs : List Bool) (addr : Nat → Nat) (data : Vec) : List Byte :=
  let xs := vElems t data
  ((activeElems 0 bs addr (elemBytes t)).map fun e => natToBytes 8 e.va ++ natToBytes e.n (xs.getD e.idx 0)).flatten

/-- The addresses and data bytes of the current context's store, in program order, for a fingerprint (R404). -/
def storeData (s : State) : Instr → List Byte
  | .st ty base data imm _ _ _ =>
    natToBytes 8 (addrOf (s.rs base) imm) ++ natToBytes ((scalarBytes ty).getD 0) (s.rs data).toNat
  | .stv ty base data imm mask _ | .stt ty base data imm mask =>
    vecData ty (actives s ty mask) (contigAddr ty (addrOf (s.rs base) imm)) (s.rv data)
  | .stvs ty base data stride imm mask _ =>
    vecData ty (actives s ty mask) (strideAddr (addrOf (s.rs base) imm) (s.rs stride)) (s.rv data)
  | .scat ty base idx data extent imm mask _ =>
    vecData ty (laneActives s ty mask)
      (laneAddr ty (addrOf (s.rs base) imm) (s.rs extent).toNat (vElems .u32 (s.rv idx))) (s.rv data)
  | _ => []

/-- The bytes of a register for a fingerprint (R404). -/
def crcReg (c : Ctx) : RegName → List Byte
  | .s r => if r = 0#6 then [] else natToBytes 8 (c.getS r).toNat
  | .v r => natToBytes 512 (c.getV r).toNat
  | .m r => natToBytes 128 (c.getM r).toNat
  | .fpflags => natToBytes 8 c.fpflags.toNat
  | .h _ | .a _ | .ctl _ => []

/-- A register taken from another context. -/
def copyReg (l f : Ctx) : RegName → Ctx
  | .s r => f.setS r (l.getS r)
  | .v r => f.setV r (l.getV r)
  | .m r => f.setM r (l.getM r)
  | .h r => f.setH r (l.getH r)
  | .fpflags => { f with fpflags := l.fpflags }
  | .a _ => f
  | .ctl _ => { f with round := l.round, fpen := l.fpen, mode := l.mode, doms := l.doms, asid := l.asid, troot := l.troot }

/-- The follower's context after an instruction that the leader performed: it has the leader's place, and the registers
written are forwarded to it (R402). -/
def forwardTo (l f : Ctx) (us : List RegName) : Ctx :=
  let g := followCtx l f
  us.foldl (copyReg l) { g with sregs := f.sregs, vregs := f.vregs, mregs := f.mregs, fpflags := f.fpflags }

/-- The elements that a load under a merging mask has loaded: its destination, type and active elements (R243, R267). -/
def mergeLoad (s : State) : Instr → Option (VReg × ElemType × List Bool)
  | .ldv _ ty dst _ _ mask false _ | .ldvs _ ty dst _ _ _ mask false _ | .ldt _ ty dst _ _ mask false =>
    some (dst, ty, actives s ty mask)
  | .gath _ ty dst _ _ _ _ mask false _ => some (dst, ty, laneActives s ty mask)
  | _ => none

/-- The follower's registers after the leader's load: of a load under a merging mask only what was loaded is forwarded (R402). -/
def keepUnloaded (s : State) (i : Instr) (f g : Ctx) : Ctx :=
  match mergeLoad s i with
  | some (dst, ty, bs) => g.setV dst (vOf ty (mergeElems false bs (vElems ty (f.getV dst)) (vElems ty (g.getV dst))))
  | none => g

/-- The results that windows hold back written, and the windows kept for the rest of their length (R214): a pair's
instructions complete in order. -/
def settleWindows (c : Ctx) : Ctx :=
  { applyWrites c ((c.windows.filter fun w => w.bank.isNone).map (·.writes)).flatten with
    windows := c.windows.map fun w => if w.bank.isNone then { w with writes := [], finished := true } else w }

/-- A pair stops with a fault or a stall of one side: a fault of either freezes both cores (R404). -/
def pairStop (s : State) (lead foll : Nat) (e : Stop) : State :=
  let s1 := stopNow s e
  if (s1.core (coreOf s.cur)).frozen then freezeCore (freezeCore s1 lead) foll else s1

/-- A pair's interval is asked to close, and the leader waits (R403). -/
def askClose (s : State) (lead foll : Nat) : State :=
  let ask := fun p : PairRec => { p with want := true }
  stallNow (modPair (modPair s lead ask) foll ask)

/-- The follower's context after an instruction, with the bytes that its fingerprint takes (R402, R404): s is the state
before the instruction and s1 the state after the leader's part. Where the follower would go on elsewhere, its fingerprint
differs. -/
def followerAfter (s s1 : State) (lc fc : Nat) (i : Instr) : Ctx × List Byte :=
  let us := (regUse s i).2
  let l := s1.ctx lc
  let f := s.ctx fc
  let own := storeData { s with cur := fc } i
  if eachSide i then
    let s2 := { s with cur := fc }.modCtx fc fun c => { c with st := .ready, passing := (s.ctx lc).passing, rep := (s.ctx lc).rep }
    let g := match perform i s2 with | .next s3 => settleWindows (s3.ctx fc) | _ => f
    let g1 := { g with pc := l.pc, entry := l.entry, st := l.st, prev := l.prev, icount := l.icount, line := none, checked := false }
    (g1, (us.map (crcReg g1)).flatten ++ (if g.pc = l.pc then [] else natToBytes 8 g.pc))
  else
    let g := keepUnloaded { s with cur := lc } i f (forwardTo l f us)
    (g, (us.map (crcReg g)).flatten ++ own)

/-- A pair after an instruction that has completed: the follower's context, the fingerprints, and a new agreed point after an
instruction that was performed once (R402 to R404). -/
def pairMirror (s s1 : State) (lead foll lc fc : Nat) (i : Instr) (once : Bool) : State :=
  let s2 := s1.modCtx lc settleWindows
  let (f, fb) := followerAfter s s2 lc fc i
  let lb := ((regUse s i).2.map (crcReg (s2.ctx lc))).flatten ++ storeData { s with cur := lc } i
  let s3 := s2.setCtx fc f
  let s4 :=
    if once then agree s3 lead foll
    else
      let want := (s2.ctx lc).icount.toNat % 4096 == 0
      let add := fun (bs : List Byte) (p : PairRec) => { p with crc := crcBytes p.crc bs, fresh := false, want := p.want || want }
      modPair (modPair s3 lead (add lb)) foll (add fb)
  if (s4.core lead).frozen then freezeCore s4 foll else s4

/-- A pair after the leader's part of an instruction: RETIRE ends both tasks and the pair, UNPAIR has ended it, a fault freezes
both cores; an instruction that has not completed leaves the follower as it was. -/
def pairAfter (s s1 : State) (lead foll lc fc : Nat) (i : Instr) (once : Bool) : State :=
  if (s1.ctx lc).st = .idle then unpairCores (endTask s1 fc) lead foll
  else if (pairOfCtx s1 lc).isNone then s1
  else if (s1.ctx lc).icount = (s.ctx lc).icount then (if (s1.core lead).frozen then freezeCore s1 foll else s1)
  else pairMirror s s1 lead foll lc fc i once

/-- A pair after the leader's part of an instruction: on both sides the registers written carry no earlier upset (R398). -/
def pairEffect (s s1 : State) (lead foll lc fc : Nat) (i : Instr) (once : Bool) : State :=
  let s2 := pairAfter s s1 lead foll lc fc i once
  let us := (regUse s i).2
  if (s2.ctx lc).icount = (s.ctx lc).icount then s2 else clearUpsets (clearUpsets s2 lc us) fc us

/-- The leader's part of an instruction: one that is performed once, after the interval's close, stores as any context does
(R403). -/
def performLead (s : State) (lead : Nat) (i : Instr) (once : Bool) : Host.Outcome State Fault Refusal :=
  let mark := fun (s : State) (b : Bool) => modPair s lead fun p => { p with direct := b }
  match perform (waitsForBank i) (mark s once) with
  | .next s1 => .next (mark s1 false)
  | o => o

/-- What shows that an instruction needs the interval to be closed first (R403): it is at a blocking point, or has sent
something through a window. -/
def needsClose (s s1 : State) (lc : Nat) : Bool :=
  (s1.ctx lc).st == .blocked || ((s1.ctx lc).st != .frozen && s1.netOut != s.netOut)

/-- The leader's next instruction, with its effect on both sides (R402 to R404). DEDUCED, log entry 60. -/
def pairSlot (s : State) (lead : Nat) (p q : PairRec) (foll : Nat) : Host.Outcome State Fault Refusal :=
  let lc := p.cid lead
  let fc := q.cid foll
  if p.closed || p.want || (s.core foll).frozen then .next s
  else if (s.ctx lc).ev ≠ 0 then .next (parkIfEvent s lc)
  else
    match nextInstr (beginIssue s lc) with
    | .error (e, s1) => .next (pairStop s1 lead foll e)
    | .ok (i, s1) =>
      match issueCheck s1 i with
      | .error e => .next (pairStop s1 lead foll e)
      | .ok s2 =>
        match codeCheck { s2 with cur := fc } ((regUse s2 i).1 ++ controlUse s2 i) with
        | .error e => .next (pairStop { s2 with cur := fc } lead foll e)
        | .ok s3 =>
          let s4 := { s3 with cur := lc }
          if majorOf i = 0x90 then .next (pairStop s4 lead foll illegal)
          else if closesInterval i && !p.fresh then .next (askClose s4 lead foll)
          else
            match performLead s4 lead i (closesInterval i) with
            | .next s5 =>
              if closesInterval i || !needsClose s4 s5 lc then .next (pairEffect s4 s5 lead foll lc fc i (closesInterval i))
              else if !p.fresh then .next (askClose s4 lead foll)
              else match performLead s4 lead i true with
                | .next s6 => .next (pairEffect s4 s6 lead foll lc fc i true)
                | o => o
            | o => o

/-- The turn of a pair: one instruction, or the two of a pair of slots, after which the rotation of both cores moves (R203, R371,
R402). -/
def pairTurn (s : State) (lead : Nat) (p q : PairRec) (foll : Nat) : Host.Outcome State Fault Refusal :=
  let turn := fun (s : State) => if (s.ctx (p.cid lead)).st = .stalled then s else rotate (rotate s (p.cid lead)) (q.cid foll)
  match pairSlot s lead p q foll with
  | .next s1 =>
    match pairReady s s1 (p.cid lead), (s1.core lead).pair, (s1.core foll).pair with
    | true, some p1, some q1 =>
      match pairSlot s1 lead p1 q1 foll with
      | .next s2 => .next (turn (if (s2.ctx (p.cid lead)).st = .stalled then s1 else s2))
      | o => o
    | _, _, _ => .next (turn s1)
  | o => o

/-- A context's turn to issue: by itself, or as the leader of its pair; a follower issues with its leader. -/
def issueCtx (s : State) (cid : Nat) : Host.Outcome State Fault Refusal :=
  match pairOfCtx s cid with
  | none => issueOne s cid
  | some (lead, p, foll) =>
    if coreOf cid = foll then .next s
    else match (s.core foll).pair with
      | some q => pairTurn s lead p q foll
      | none => issueOne s cid

/-- The first ready context of a core in the order of its rotation issues (R371). -/
def issueFirst (s : State) (core : Nat) : Host.Outcome State Fault Refusal :=
  match firstReady s core with
  | none => .next s
  | some k => issueCtx s k

/-- A stalled context looks at its condition again (R182): where that has cleared, it is ready beside the others, and the first of
them in the rotation issues (R371). DEDUCED, log entry 54. -/
def lookAgain (s : State) (cid : Nat) : Host.Outcome State Fault Refusal :=
  match issueCtx s cid with
  | .next s1 => if (s1.ctx cid).st = .stalled then .next s1 else issueFirst (clearStall s cid) (coreOf cid)
  | o => o

/-- A core's issue turn (R183, R371). -/
def issueTurn (s : State) (cid : Nat) : Host.Outcome State Fault Refusal :=
  if !validCtx cid then .fault .noSuchContext
  else if !dieRuns s (dieOf cid) || (s.core (coreOf cid)).frozen then .next s
  else if (s.ctx cid).st = .stalled then lookAgain s cid
  else issueFirst s (coreOf cid)

/-! ## Time and upsets -/

/-- A die's counters of cycles after n core cycles of 1.75 GHz (R21, R233, R417): in P1 the core clock runs at half. -/
def dieElapse (n : Nat) (d : Die) : Die :=
  let k := if d.pstate = 1 then n else 2 * n
  { d with cycle2 := d.cycle2 + k, ungated8 := d.ungated8 + k * d.ratio }

/-- The clocks after n cycles: the newt clock runs in every power state, the core clocks stand in P3 (R7, R417). -/
def runClocks (s : State) (n : Nat) : State :=
  let s1 := { s with time := s.time + n }
  if s.pkg.p3 then s1 else (List.range 12).foldl (fun s k => s.modDie k (dieElapse n)) s1

/-- Time passes. The candidates that have no place keep their clocks (R366), and the bounded waits that it outlasts end (R256,
R258). -/
def elapse (s : State) (n : Nat) : State := expireWaits (runClocks (markAllStuck s) n) fun _ => true

/-- Bits of a stored word upset, beside those upset before. -/
def upsetWord (s : State) (key bits : Nat) : State :=
  if bits = 0 then s else { s with upsets := SMap.put s.upsets key (SMap.getD s.upsets key 0 + bits) }

/-- Bits of a register word upset, beside those upset before. -/
def addUpset (us : List (Nat × Nat × Nat)) (file reg bits : Nat) : List (Nat × Nat × Nat) :=
  if bits = 0 then us
  else match us.find? fun x => x.1 == file && x.2.1 == reg with
    | none => us ++ [(file, reg, bits)]
    | some x => us.map fun y => if y = x then (file, reg, x.2.2 + bits) else y

/-- Bits of a register word upset: the accumulators, file 4, belong to the core (R290, R398). -/
def upsetReg (s : State) (cid file reg bits : Nat) : State :=
  if file = 4 then s.modCore (coreOf cid) fun c => { c with accUpsets := addUpset c.accUpsets file reg bits }
  else s.modCtx cid fun c => { c with upsets := addUpset c.upsets file reg bits }

/-- A turn taken. -/
def takeTurn (s : State) : Turn → Host.Outcome State Fault Refusal
  | .issue cid => issueTurn s cid
  | .event i => if eventHappens s i then exec i s else .next s
  | .elapse n => .next (elapse s n)
  | .upsetSector sector symbols => .next (upsetWord s sector symbols)
  | .upsetVault word bits => .next (upsetWord s (2 ^ 48 + word) bits)
  | .upsetRegister cid file reg bits => .next (upsetReg s cid file reg bits)
  | .message core => .next (if validCtx (16 * core) && isSup (16 * core) && !s.pkg.p3 then messageArrives s core else s)

/-- The turn that comes next, taken from the state's list or chosen freely (log entry 1), and the state without it. -/
def nextTurn (s : State) : Turn × State :=
  match s.turns with
  | t :: ts => (t, { s with turns := ts })
  | [] => (Config.freeTurn s.tick, { s with tick := s.tick + 1 })

/-! ## A program placed for its first turn -/

/-- The context that a program placed for one turn runs in: context 0 of supervisor core 0 of D0. -/
def firstCtx : Nat := 0xF00

/-- Where a program is placed: a bank-local address, which an untranslated supervisor context uses as it is (R176). -/
def firstPc : Nat := 0

/-- A line whose first slot holds an instruction, its other slots zero, with correct parity (R199 to R201). -/
def oneSlotLine (w : Nat) : List Byte :=
  let bs := natToBytes 12 w ++ List.replicate 48 (0#8 : Byte)
  bs ++ [bs.foldl (· ^^^ ·) 0#8, 0#8, 0#8, 0#8]

/-- A state in which a supervisor context is about to issue its first instruction from a line, as after SVGO (R176), with
firmware in force (R414). -/
def placeFirst (s : State) (line : List Byte) : State :=
  let s1 := { s with mem := s.mem.writeN firstPc line, turns := [.issue firstCtx], pkg := { s.pkg with firmware := some 0 } }
  let s2 := s1.modDie 0 fun d => { d with svcBase := firstPc, svcLim := firstPc + 64, svRun := true }
  s2.modCtx firstCtx fun c => { c with st := .ready, pc := firstPc, entry := .plain }

end Sys2Proof.Machine
end

