-- ==== Sys2Proof/Machine/Step.lean ====
section
/-! DEFINITION. The step of the machine: the next turn taken; and the state in which a given instruction is the next to be
fetched. -/

namespace Sys2Proof.Machine
open Sys2Proof

/-- What every turn ends with: the save images take the events that it brought them (R393), and a die left without a
supervisor core is withdrawn (R419). -/
def endTurn (s : State) : State := withdrawLost (syncImages s)

/-- One step: the next turn is taken (log entry 1). -/
def step (s : State) : Host.Outcome State Fault Refusal :=
  match takeTurn (nextTurn s).2 (nextTurn s).1 with
  | .next s1 => .next (endTurn s1)
  | o => o

/-- The state with an instruction stored where the next step fetches, the bits above nbits zero (log entry 6). -/
def State.withFetchWord (s : State) (nbits w : Nat) : State := placeFirst s (oneSlotLine (w % 2 ^ nbits))

end Sys2Proof.Machine
end

