-- ==== Sys2Proof/Laws/PerInstr.lean ====
section
/-! SUPPORT. Facts about every instruction as syntax, one lemma for each constructor: RoundTrip says that the decoder reads an
instruction's own words back (R207, R208). -/

namespace Sys2Proof.Laws
open Sys2Proof

/-! ## Fields and codes -/

/-- A slot's fields are those it was packed from. -/
theorem unpack_pack (f : Fields) : Fields.unpack f.pack = f := by
  obtain ⟨major, minor, la, ty, dst, src1, src2, src3, mask, z, rnd, fzi, fzo, ext, imm⟩ := f
  simp only [Fields.unpack, Fields.pack, Fields.mk.injEq]
  refine ⟨?_, ?_, ?_, ?_, ?_, ?_, ?_, ?_, ?_, ?_, ?_, ?_, ?_, ?_, ?_⟩ <;>
    (repeat first
      | rw [BitVec.extractLsb'_append_eq_of_le (by decide)]
      | rw [BitVec.extractLsb'_append_eq_of_add_le (by decide)]
      | exact BitVec.extractLsb'_eq_self)

@[simp] theorem elemType_ofCode_code (t : ElemType) : ElemType.ofCode t.code = t := by cases t <;> rfl
@[simp] theorem rounding_ofCode_code (t : Rounding) : Rounding.ofCode t.code = t := by cases t <;> rfl
@[simp] theorem order_ofCode_code (t : Order) : Order.ofCode t.code = t := by cases t <;> rfl
@[simp] theorem reqType_ofCode_code (t : ReqType) : ReqType.ofCode t.code = t := by cases t <;> rfl
@[simp] theorem scope_ofCode_code (t : Scope) : Scope.ofCode t.code = t := by cases t <;> rfl
@[simp] theorem pred_ofCode_code (t : Pred) : Pred.ofCode t.code = t := by cases t <;> rfl
@[simp] theorem cond_ofCode_code (t : Cond) : Cond.ofCode t.code = t := by cases t <;> rfl
@[simp] theorem bit1_ofBool (b : Bool) : bit1 (BitVec.ofBool b) = b := by cases b <;> rfl

/-- A field that lies in the upper part of a concatenation. -/
theorem extract_hi {n m : Nat} (a : BitVec n) (b : BitVec m) (i k : Nat) (h : m ≤ i) :
    (a ++ b).extractLsb' i k = a.extractLsb' (i - m) k := BitVec.extractLsb'_append_eq_of_le h

/-- A field that lies in the lower part of a concatenation. -/
theorem extract_lo {n m : Nat} (a : BitVec n) (b : BitVec m) (i k : Nat) (h : i + k ≤ m) :
    (a ++ b).extractLsb' i k = b.extractLsb' i k := BitVec.extractLsb'_append_eq_of_add_le h

/-! ## The round trip -/

/-- The decoder reads a well-formed instruction's own slot as that instruction. -/
def RoundTrip.Statement (i : Instr) : Prop := i.wf = true → ∀ w, encode i = some w → decodeSlot w = .ok i

/-- It suffices that the opcode map selects the instruction from its fields. -/
theorem RoundTrip.of_cand {i : Instr} {f : Fields} (he : encodeFields i = some f) (hc : cand f = some i) :
    RoundTrip.Statement i := by
  intro hw w h
  simp only [encode, he, Option.map_some, Option.some.injEq] at h
  subst h
  simp only [decodeSlot, unpack_pack, decodeFields, hc, he, hw, and_self, if_true]

/-- An event has no slot. -/
theorem RoundTrip.of_event {i : Instr} (he : encodeFields i = none) : RoundTrip.Statement i := by
  intro _ w h
  simp [encode, he] at h


end Sys2Proof.Laws

namespace Sys2Proof.Laws.RoundTrip
open Sys2Proof Sys2Proof.Laws

theorem add (dst a b : SReg) (sat : Bool) : Statement (.add dst a b sat) :=
  of_cand rfl (by 
    simp [cand, cand01]
    repeat first
      | rw [extract_hi (h := by decide)]
      | rw [extract_lo (h := by decide)]
    try simp)
theorem sub (dst a b : SReg) (sat : Bool) : Statement (.sub dst a b sat) :=
  of_cand rfl (by 
    simp [cand, cand01]
    repeat first
      | rw [extract_hi (h := by decide)]
      | rw [extract_lo (h := by decide)]
    try simp)
theorem mul (dst a b : SReg) (sat : Bool) : Statement (.mul dst a b sat) :=
  of_cand rfl (by 
    simp [cand, cand01]
    repeat first
      | rw [extract_hi (h := by decide)]
      | rw [extract_lo (h := by decide)]
    try simp)
theorem mulh (dst a b : SReg) : Statement (.mulh dst a b) :=
  of_cand rfl (by 
    simp [cand, cand01]
    repeat first
      | rw [extract_hi (h := by decide)]
      | rw [extract_lo (h := by decide)]
    try simp)
theorem mulhu (dst a b : SReg) : Statement (.mulhu dst a b) :=
  of_cand rfl (by 
    simp [cand, cand01]
    repeat first
      | rw [extract_hi (h := by decide)]
      | rw [extract_lo (h := by decide)]
    try simp)
theorem div (la : BitVec 4) (dst a b : SReg) : Statement (.div la dst a b) :=
  of_cand rfl (by 
    simp [cand, cand01]
    repeat first
      | rw [extract_hi (h := by decide)]
      | rw [extract_lo (h := by decide)]
    try simp)
theorem divu (la : BitVec 4) (dst a b : SReg) : Statement (.divu la dst a b) :=
  of_cand rfl (by 
    simp [cand, cand01]
    repeat first
      | rw [extract_hi (h := by decide)]
      | rw [extract_lo (h := by decide)]
    try simp)
theorem rem (la : BitVec 4) (dst a b : SReg) : Statement (.rem la dst a b) :=
  of_cand rfl (by 
    simp [cand, cand01]
    repeat first
      | rw [extract_hi (h := by decide)]
      | rw [extract_lo (h := by decide)]
    try simp)
theorem remu (la : BitVec 4) (dst a b : SReg) : Statement (.remu la dst a b) :=
  of_cand rfl (by 
    simp [cand, cand01]
    repeat first
      | rw [extract_hi (h := by decide)]
      | rw [extract_lo (h := by decide)]
    try simp)
theorem andR (dst a b : SReg) : Statement (.andR dst a b) :=
  of_cand rfl (by 
    simp [cand, cand01]
    repeat first
      | rw [extract_hi (h := by decide)]
      | rw [extract_lo (h := by decide)]
    try simp)
theorem orR (dst a b : SReg) : Statement (.orR dst a b) :=
  of_cand rfl (by 
    simp [cand, cand01]
    repeat first
      | rw [extract_hi (h := by decide)]
      | rw [extract_lo (h := by decide)]
    try simp)
theorem xorR (dst a b : SReg) : Statement (.xorR dst a b) :=
  of_cand rfl (by 
    simp [cand, cand01]
    repeat first
      | rw [extract_hi (h := by decide)]
      | rw [extract_lo (h := by decide)]
    try simp)
theorem andn (dst a b : SReg) : Statement (.andn dst a b) :=
  of_cand rfl (by 
    simp [cand, cand01]
    repeat first
      | rw [extract_hi (h := by decide)]
      | rw [extract_lo (h := by decide)]
    try simp)
theorem shl (dst a b : SReg) : Statement (.shl dst a b) :=
  of_cand rfl (by 
    simp [cand, cand01]
    repeat first
      | rw [extract_hi (h := by decide)]
      | rw [extract_lo (h := by decide)]
    try simp)
theorem shr (dst a b : SReg) : Statement (.shr dst a b) :=
  of_cand rfl (by 
    simp [cand, cand01]
    repeat first
      | rw [extract_hi (h := by decide)]
      | rw [extract_lo (h := by decide)]
    try simp)
theorem sar (dst a b : SReg) : Statement (.sar dst a b) :=
  of_cand rfl (by 
    simp [cand, cand01]
    repeat first
      | rw [extract_hi (h := by decide)]
      | rw [extract_lo (h := by decide)]
    try simp)
theorem rot (dst a b : SReg) : Statement (.rot dst a b) :=
  of_cand rfl (by 
    simp [cand, cand01]
    repeat first
      | rw [extract_hi (h := by decide)]
      | rw [extract_lo (h := by decide)]
    try simp)
theorem minS (dst a b : SReg) : Statement (.minS dst a b) :=
  of_cand rfl (by 
    simp [cand, cand01]
    repeat first
      | rw [extract_hi (h := by decide)]
      | rw [extract_lo (h := by decide)]
    try simp)
theorem maxS (dst a b : SReg) : Statement (.maxS dst a b) :=
  of_cand rfl (by 
    simp [cand, cand01]
    repeat first
      | rw [extract_hi (h := by decide)]
      | rw [extract_lo (h := by decide)]
    try simp)
theorem minu (dst a b : SReg) : Statement (.minu dst a b) :=
  of_cand rfl (by 
    simp [cand, cand01]
    repeat first
      | rw [extract_hi (h := by decide)]
      | rw [extract_lo (h := by decide)]
    try simp)
theorem maxu (dst a b : SReg) : Statement (.maxu dst a b) :=
  of_cand rfl (by 
    simp [cand, cand01]
    repeat first
      | rw [extract_hi (h := by decide)]
      | rw [extract_lo (h := by decide)]
    try simp)
theorem seq (dst a b : SReg) : Statement (.seq dst a b) :=
  of_cand rfl (by 
    simp [cand, cand01]
    repeat first
      | rw [extract_hi (h := by decide)]
      | rw [extract_lo (h := by decide)]
    try simp)
theorem slt (dst a b : SReg) : Statement (.slt dst a b) :=
  of_cand rfl (by 
    simp [cand, cand01]
    repeat first
      | rw [extract_hi (h := by decide)]
      | rw [extract_lo (h := by decide)]
    try simp)
theorem sltu (dst a b : SReg) : Statement (.sltu dst a b) :=
  of_cand rfl (by 
    simp [cand, cand01]
    repeat first
      | rw [extract_hi (h := by decide)]
      | rw [extract_lo (h := by decide)]
    try simp)
theorem addi (dst a : SReg) (imm : BitVec 32) : Statement (.addi dst a imm) :=
  of_cand rfl (by 
    simp [cand, cand02]
    repeat first
      | rw [extract_hi (h := by decide)]
      | rw [extract_lo (h := by decide)]
    try simp)
theorem subImm (dst a : SReg) (imm : BitVec 32) : Statement (.subImm dst a imm) :=
  of_cand rfl (by 
    simp [cand, cand02]
    repeat first
      | rw [extract_hi (h := by decide)]
      | rw [extract_lo (h := by decide)]
    try simp)
theorem mulImm (dst a : SReg) (imm : BitVec 32) : Statement (.mulImm dst a imm) :=
  of_cand rfl (by 
    simp [cand, cand02]
    repeat first
      | rw [extract_hi (h := by decide)]
      | rw [extract_lo (h := by decide)]
    try simp)
theorem mulhImm (dst a : SReg) (imm : BitVec 32) : Statement (.mulhImm dst a imm) :=
  of_cand rfl (by 
    simp [cand, cand02]
    repeat first
      | rw [extract_hi (h := by decide)]
      | rw [extract_lo (h := by decide)]
    try simp)
theorem mulhuImm (dst a : SReg) (imm : BitVec 32) : Statement (.mulhuImm dst a imm) :=
  of_cand rfl (by 
    simp [cand, cand02]
    repeat first
      | rw [extract_hi (h := by decide)]
      | rw [extract_lo (h := by decide)]
    try simp)
theorem divImm (la : BitVec 4) (dst a : SReg) (imm : BitVec 32) : Statement (.divImm la dst a imm) :=
  of_cand rfl (by 
    simp [cand, cand02]
    repeat first
      | rw [extract_hi (h := by decide)]
      | rw [extract_lo (h := by decide)]
    try simp)
theorem divuImm (la : BitVec 4) (dst a : SReg) (imm : BitVec 32) : Statement (.divuImm la dst a imm) :=
  of_cand rfl (by 
    simp [cand, cand02]
    repeat first
      | rw [extract_hi (h := by decide)]
      | rw [extract_lo (h := by decide)]
    try simp)
theorem remImm (la : BitVec 4) (dst a : SReg) (imm : BitVec 32) : Statement (.remImm la dst a imm) :=
  of_cand rfl (by 
    simp [cand, cand02]
    repeat first
      | rw [extract_hi (h := by decide)]
      | rw [extract_lo (h := by decide)]
    try simp)
theorem remuImm (la : BitVec 4) (dst a : SReg) (imm : BitVec 32) : Statement (.remuImm la dst a imm) :=
  of_cand rfl (by 
    simp [cand, cand02]
    repeat first
      | rw [extract_hi (h := by decide)]
      | rw [extract_lo (h := by decide)]
    try simp)
theorem andImm (dst a : SReg) (imm : BitVec 32) : Statement (.andImm dst a imm) :=
  of_cand rfl (by 
    simp [cand, cand02]
    repeat first
      | rw [extract_hi (h := by decide)]
      | rw [extract_lo (h := by decide)]
    try simp)
theorem orImm (dst a : SReg) (imm : BitVec 32) : Statement (.orImm dst a imm) :=
  of_cand rfl (by 
    simp [cand, cand02]
    repeat first
      | rw [extract_hi (h := by decide)]
      | rw [extract_lo (h := by decide)]
    try simp)
theorem xorImm (dst a : SReg) (imm : BitVec 32) : Statement (.xorImm dst a imm) :=
  of_cand rfl (by 
    simp [cand, cand02]
    repeat first
      | rw [extract_hi (h := by decide)]
      | rw [extract_lo (h := by decide)]
    try simp)
theorem andnImm (dst a : SReg) (imm : BitVec 32) : Statement (.andnImm dst a imm) :=
  of_cand rfl (by 
    simp [cand, cand02]
    repeat first
      | rw [extract_hi (h := by decide)]
      | rw [extract_lo (h := by decide)]
    try simp)
theorem shlImm (dst a : SReg) (imm : BitVec 32) : Statement (.shlImm dst a imm) :=
  of_cand rfl (by 
    simp [cand, cand02]
    repeat first
      | rw [extract_hi (h := by decide)]
      | rw [extract_lo (h := by decide)]
    try simp)
theorem shrImm (dst a : SReg) (imm : BitVec 32) : Statement (.shrImm dst a imm) :=
  of_cand rfl (by 
    simp [cand, cand02]
    repeat first
      | rw [extract_hi (h := by decide)]
      | rw [extract_lo (h := by decide)]
    try simp)
theorem sarImm (dst a : SReg) (imm : BitVec 32) : Statement (.sarImm dst a imm) :=
  of_cand rfl (by 
    simp [cand, cand02]
    repeat first
      | rw [extract_hi (h := by decide)]
      | rw [extract_lo (h := by decide)]
    try simp)
theorem rotImm (dst a : SReg) (imm : BitVec 32) : Statement (.rotImm dst a imm) :=
  of_cand rfl (by 
    simp [cand, cand02]
    repeat first
      | rw [extract_hi (h := by decide)]
      | rw [extract_lo (h := by decide)]
    try simp)
theorem minImm (dst a : SReg) (imm : BitVec 32) : Statement (.minImm dst a imm) :=
  of_cand rfl (by 
    simp [cand, cand02]
    repeat first
      | rw [extract_hi (h := by decide)]
      | rw [extract_lo (h := by decide)]
    try simp)
theorem maxImm (dst a : SReg) (imm : BitVec 32) : Statement (.maxImm dst a imm) :=
  of_cand rfl (by 
    simp [cand, cand02]
    repeat first
      | rw [extract_hi (h := by decide)]
      | rw [extract_lo (h := by decide)]
    try simp)
theorem minuImm (dst a : SReg) (imm : BitVec 32) : Statement (.minuImm dst a imm) :=
  of_cand rfl (by 
    simp [cand, cand02]
    repeat first
      | rw [extract_hi (h := by decide)]
      | rw [extract_lo (h := by decide)]
    try simp)
theorem maxuImm (dst a : SReg) (imm : BitVec 32) : Statement (.maxuImm dst a imm) :=
  of_cand rfl (by 
    simp [cand, cand02]
    repeat first
      | rw [extract_hi (h := by decide)]
      | rw [extract_lo (h := by decide)]
    try simp)
theorem seqImm (dst a : SReg) (imm : BitVec 32) : Statement (.seqImm dst a imm) :=
  of_cand rfl (by 
    simp [cand, cand02]
    repeat first
      | rw [extract_hi (h := by decide)]
      | rw [extract_lo (h := by decide)]
    try simp)
theorem sltImm (dst a : SReg) (imm : BitVec 32) : Statement (.sltImm dst a imm) :=
  of_cand rfl (by 
    simp [cand, cand02]
    repeat first
      | rw [extract_hi (h := by decide)]
      | rw [extract_lo (h := by decide)]
    try simp)
theorem sltuImm (dst a : SReg) (imm : BitVec 32) : Statement (.sltuImm dst a imm) :=
  of_cand rfl (by 
    simp [cand, cand02]
    repeat first
      | rw [extract_hi (h := by decide)]
      | rw [extract_lo (h := by decide)]
    try simp)
theorem mad (dst a b c : SReg) (sat : Bool) : Statement (.mad dst a b c sat) :=
  of_cand rfl (by 
    simp [cand, cand03]
    repeat first
      | rw [extract_hi (h := by decide)]
      | rw [extract_lo (h := by decide)]
    try simp)
theorem clz (dst a : SReg) : Statement (.clz dst a) :=
  of_cand rfl (by 
    simp [cand, cand03]
    repeat first
      | rw [extract_hi (h := by decide)]
      | rw [extract_lo (h := by decide)]
    try simp)
theorem popc (dst a : SReg) : Statement (.popc dst a) :=
  of_cand rfl (by 
    simp [cand, cand03]
    repeat first
      | rw [extract_hi (h := by decide)]
      | rw [extract_lo (h := by decide)]
    try simp)
theorem brev (dst a : SReg) : Statement (.brev dst a) :=
  of_cand rfl (by 
    simp [cand, cand03]
    repeat first
      | rw [extract_hi (h := by decide)]
      | rw [extract_lo (h := by decide)]
    try simp)
theorem exts (dst a : SReg) (pos : BitVec 6) (w : BitVec 7) : Statement (.exts dst a pos w) :=
  of_cand rfl (by 
    simp [cand, cand03]
    repeat first
      | rw [extract_hi (h := by decide)]
      | rw [extract_lo (h := by decide)]
    try simp)
theorem extu (dst a : SReg) (pos : BitVec 6) (w : BitVec 7) : Statement (.extu dst a pos w) :=
  of_cand rfl (by 
    simp [cand, cand03]
    repeat first
      | rw [extract_hi (h := by decide)]
      | rw [extract_lo (h := by decide)]
    try simp)
theorem ins (dst a : SReg) (pos : BitVec 6) (w : BitVec 7) : Statement (.ins dst a pos w) :=
  of_cand rfl (by 
    simp [cand, cand03]
    repeat first
      | rw [extract_hi (h := by decide)]
      | rw [extract_lo (h := by decide)]
    try simp)
theorem sel (dst a b c : SReg) : Statement (.sel dst a b c) :=
  of_cand rfl (by 
    simp [cand, cand03]
    repeat first
      | rw [extract_hi (h := by decide)]
      | rw [extract_lo (h := by decide)]
    try simp)
theorem li (dst : SReg) (imm : BitVec 32) : Statement (.li dst imm) :=
  of_cand rfl (by 
    simp [cand, cand04]
    repeat first
      | rw [extract_hi (h := by decide)]
      | rw [extract_lo (h := by decide)]
    try simp)
theorem lih (dst : SReg) (imm : BitVec 32) : Statement (.lih dst imm) :=
  of_cand rfl (by 
    simp [cand, cand04]
    repeat first
      | rw [extract_hi (h := by decide)]
      | rw [extract_lo (h := by decide)]
    try simp)
theorem addr (dst : SReg) (imm : BitVec 32) : Statement (.addr dst imm) :=
  of_cand rfl (by 
    simp [cand, cand04]
    repeat first
      | rw [extract_hi (h := by decide)]
      | rw [extract_lo (h := by decide)]
    try simp)
theorem fadd (dst a b : SReg) (ty : ElemType) (rnd : Rounding) (fzi fzo : Bool) : Statement (.fadd dst a b ty rnd fzi fzo) :=
  of_cand rfl (by 
    simp [cand, cand08]
    repeat first
      | rw [extract_hi (h := by decide)]
      | rw [extract_lo (h := by decide)]
    try simp)
theorem fsub (dst a b : SReg) (ty : ElemType) (rnd : Rounding) (fzi fzo : Bool) : Statement (.fsub dst a b ty rnd fzi fzo) :=
  of_cand rfl (by 
    simp [cand, cand08]
    repeat first
      | rw [extract_hi (h := by decide)]
      | rw [extract_lo (h := by decide)]
    try simp)
theorem fmul (dst a b : SReg) (ty : ElemType) (rnd : Rounding) (fzi fzo : Bool) : Statement (.fmul dst a b ty rnd fzi fzo) :=
  of_cand rfl (by 
    simp [cand, cand08]
    repeat first
      | rw [extract_hi (h := by decide)]
      | rw [extract_lo (h := by decide)]
    try simp)
theorem ffma (dst a b c : SReg) (ty : ElemType) (rnd : Rounding) (fzi fzo : Bool) : Statement (.ffma dst a b c ty rnd fzi fzo) :=
  of_cand rfl (by 
    simp [cand, cand08]
    repeat first
      | rw [extract_hi (h := by decide)]
      | rw [extract_lo (h := by decide)]
    try simp)
theorem fmin (dst a b : SReg) (ty : ElemType) (rnd : Rounding) (fzi fzo : Bool) : Statement (.fmin dst a b ty rnd fzi fzo) :=
  of_cand rfl (by 
    simp [cand, cand08]
    repeat first
      | rw [extract_hi (h := by decide)]
      | rw [extract_lo (h := by decide)]
    try simp)
theorem fmax (dst a b : SReg) (ty : ElemType) (rnd : Rounding) (fzi fzo : Bool) : Statement (.fmax dst a b ty rnd fzi fzo) :=
  of_cand rfl (by 
    simp [cand, cand08]
    repeat first
      | rw [extract_hi (h := by decide)]
      | rw [extract_lo (h := by decide)]
    try simp)
theorem fcmp (dst a b : SReg) (ty : ElemType) (p : Pred) (fzi fzo : Bool) : Statement (.fcmp dst a b ty p fzi fzo) :=
  of_cand rfl (by 
    simp [cand, cand08]
    repeat first
      | rw [extract_hi (h := by decide)]
      | rw [extract_lo (h := by decide)]
    try simp)
theorem fcvt (dst a : SReg) (ty src : ElemType) (rnd : Rounding) (fzi fzo sat nov : Bool) : Statement (.fcvt dst a ty src rnd fzi fzo sat nov) :=
  of_cand rfl (by 
    simp [cand, cand08]
    repeat first
      | rw [extract_hi (h := by decide)]
      | rw [extract_lo (h := by decide)]
    try simp)
theorem br (imm : BitVec 32) : Statement (.br imm) :=
  of_cand rfl (by 
    simp [cand, cand20]
    repeat first
      | rw [extract_hi (h := by decide)]
      | rw [extract_lo (h := by decide)]
    try simp)
theorem beq (a b : SReg) (imm : BitVec 32) : Statement (.beq a b imm) :=
  of_cand rfl (by 
    simp [cand, cand20]
    repeat first
      | rw [extract_hi (h := by decide)]
      | rw [extract_lo (h := by decide)]
    try simp)
theorem bne (a b : SReg) (imm : BitVec 32) : Statement (.bne a b imm) :=
  of_cand rfl (by 
    simp [cand, cand20]
    repeat first
      | rw [extract_hi (h := by decide)]
      | rw [extract_lo (h := by decide)]
    try simp)
theorem blt (a b : SReg) (imm : BitVec 32) : Statement (.blt a b imm) :=
  of_cand rfl (by 
    simp [cand, cand20]
    repeat first
      | rw [extract_hi (h := by decide)]
      | rw [extract_lo (h := by decide)]
    try simp)
theorem bge (a b : SReg) (imm : BitVec 32) : Statement (.bge a b imm) :=
  of_cand rfl (by 
    simp [cand, cand20]
    repeat first
      | rw [extract_hi (h := by decide)]
      | rw [extract_lo (h := by decide)]
    try simp)
theorem bltu (a b : SReg) (imm : BitVec 32) : Statement (.bltu a b imm) :=
  of_cand rfl (by 
    simp [cand, cand20]
    repeat first
      | rw [extract_hi (h := by decide)]
      | rw [extract_lo (h := by decide)]
    try simp)
theorem bgeu (a b : SReg) (imm : BitVec 32) : Statement (.bgeu a b imm) :=
  of_cand rfl (by 
    simp [cand, cand20]
    repeat first
      | rw [extract_hi (h := by decide)]
      | rw [extract_lo (h := by decide)]
    try simp)
theorem bz (a : SReg) (imm : BitVec 32) : Statement (.bz a imm) :=
  of_cand rfl (by 
    simp [cand, cand20]
    repeat first
      | rw [extract_hi (h := by decide)]
      | rw [extract_lo (h := by decide)]
    try simp)
theorem bnz (a : SReg) (imm : BitVec 32) : Statement (.bnz a imm) :=
  of_cand rfl (by 
    simp [cand, cand20]
    repeat first
      | rw [extract_hi (h := by decide)]
      | rw [extract_lo (h := by decide)]
    try simp)
theorem jmp (dst a : SReg) : Statement (.jmp dst a) :=
  of_cand rfl (by 
    simp [cand, cand21]
    repeat first
      | rw [extract_hi (h := by decide)]
      | rw [extract_lo (h := by decide)]
    try simp)
theorem call (dst : SReg) (imm : BitVec 32) : Statement (.call dst imm) :=
  of_cand rfl (by 
    simp [cand, cand21]
    repeat first
      | rw [extract_hi (h := by decide)]
      | rw [extract_lo (h := by decide)]
    try simp)
theorem ret (a : SReg) : Statement (.ret a) :=
  of_cand rfl (by 
    simp [cand, cand21]
    repeat first
      | rw [extract_hi (h := by decide)]
      | rw [extract_lo (h := by decide)]
    try simp)
theorem loop (a : SReg) (imm : BitVec 32) : Statement (.loop a imm) :=
  of_cand rfl (by 
    simp [cand, cand22]
    repeat first
      | rw [extract_hi (h := by decide)]
      | rw [extract_lo (h := by decide)]
    try simp)
theorem align (imm : BitVec 32) : Statement (.align imm) :=
  of_cand rfl (by 
    simp [cand, cand22]
    repeat first
      | rw [extract_hi (h := by decide)]
      | rw [extract_lo (h := by decide)]
    try simp)
theorem rep (a : SReg) (imm : BitVec 32) : Statement (.rep a imm) :=
  of_cand rfl (by 
    simp [cand, cand22]
    repeat first
      | rw [extract_hi (h := by decide)]
      | rw [extract_lo (h := by decide)]
    try simp)
theorem nop : Statement .nop :=
  of_cand rfl (by 
    simp [cand, cand22]
    repeat first
      | rw [extract_hi (h := by decide)]
      | rw [extract_lo (h := by decide)]
    try simp)
theorem retire : Statement .retire :=
  of_cand rfl (by 
    simp [cand, cand22]
    repeat first
      | rw [extract_hi (h := by decide)]
      | rw [extract_lo (h := by decide)]
    try simp)
theorem ld (la : BitVec 4) (ty : ElemType) (dst base : SReg) (imm : BitVec 32) (req : ReqType) (scope : Scope) (ord : Order) : Statement (.ld la ty dst base imm req scope ord) :=
  of_cand rfl (by 
    simp [cand, cand30]
    repeat first
      | rw [extract_hi (h := by decide)]
      | rw [extract_lo (h := by decide)]
    try simp)
theorem st (ty : ElemType) (base data : SReg) (imm : BitVec 32) (req : ReqType) (scope : Scope) (ord : Order) : Statement (.st ty base data imm req scope ord) :=
  of_cand rfl (by 
    simp [cand, cand30]
    repeat first
      | rw [extract_hi (h := by decide)]
      | rw [extract_lo (h := by decide)]
    try simp)
theorem ldv (la : BitVec 4) (ty : ElemType) (dst : VReg) (base : SReg) (imm : BitVec 32) (mask : BitVec 3) (z : Bool) (req : ReqType) : Statement (.ldv la ty dst base imm mask z req) :=
  of_cand rfl (by 
    simp [cand, cand31]
    repeat first
      | rw [extract_hi (h := by decide)]
      | rw [extract_lo (h := by decide)]
    try simp)
theorem stv (ty : ElemType) (base : SReg) (data : VReg) (imm : BitVec 32) (mask : BitVec 3) (req : ReqType) : Statement (.stv ty base data imm mask req) :=
  of_cand rfl (by 
    simp [cand, cand31]
    repeat first
      | rw [extract_hi (h := by decide)]
      | rw [extract_lo (h := by decide)]
    try simp)
theorem ldvs (la : BitVec 4) (ty : ElemType) (dst : VReg) (base stride : SReg) (imm : BitVec 32) (mask : BitVec 3) (z : Bool) (req : ReqType) : Statement (.ldvs la ty dst base stride imm mask z req) :=
  of_cand rfl (by 
    simp [cand, cand31]
    repeat first
      | rw [extract_hi (h := by decide)]
      | rw [extract_lo (h := by decide)]
    try simp)
theorem stvs (ty : ElemType) (base : SReg) (data : VReg) (stride : SReg) (imm : BitVec 32) (mask : BitVec 3) (req : ReqType) : Statement (.stvs ty base data stride imm mask req) :=
  of_cand rfl (by 
    simp [cand, cand31]
    repeat first
      | rw [extract_hi (h := by decide)]
      | rw [extract_lo (h := by decide)]
    try simp)
theorem gath (la : BitVec 4) (ty : ElemType) (dst : VReg) (base : SReg) (idx : VReg) (extent : SReg) (imm : BitVec 32) (mask : BitVec 3) (z : Bool) (req : ReqType) : Statement (.gath la ty dst base idx extent imm mask z req) :=
  of_cand rfl (by 
    simp [cand, cand32]
    repeat first
      | rw [extract_hi (h := by decide)]
      | rw [extract_lo (h := by decide)]
    try simp)
theorem scat (ty : ElemType) (base : SReg) (idx data : VReg) (extent : SReg) (imm : BitVec 32) (mask : BitVec 3) (req : ReqType) : Statement (.scat ty base idx data extent imm mask req) :=
  of_cand rfl (by 
    simp [cand, cand32]
    repeat first
      | rw [extract_hi (h := by decide)]
      | rw [extract_lo (h := by decide)]
    try simp)
theorem scatAcc (ty : ElemType) (base : SReg) (idx data : VReg) (extent : SReg) (imm : BitVec 32) (mask : BitVec 3) (req : ReqType) (scope : Scope) (rnd : Rounding) (fzi fzo : Bool) : Statement (.scatAcc ty base idx data extent imm mask req scope rnd fzi fzo) :=
  of_cand rfl (by 
    simp [cand, cand32]
    repeat first
      | rw [extract_hi (h := by decide)]
      | rw [extract_lo (h := by decide)]
    try simp)
theorem ldt (la : BitVec 4) (ty : ElemType) (dst : VReg) (base : SReg) (imm : BitVec 32) (mask : BitVec 3) (z : Bool) : Statement (.ldt la ty dst base imm mask z) :=
  of_cand rfl (by 
    simp [cand, cand33]
    repeat first
      | rw [extract_hi (h := by decide)]
      | rw [extract_lo (h := by decide)]
    try simp)
theorem stt (ty : ElemType) (base : SReg) (data : VReg) (imm : BitVec 32) (mask : BitVec 3) : Statement (.stt ty base data imm mask) :=
  of_cand rfl (by 
    simp [cand, cand33]
    repeat first
      | rw [extract_hi (h := by decide)]
      | rw [extract_lo (h := by decide)]
    try simp)
theorem tdecl (base size : SReg) (mode : BitVec 2) (e : BitVec 7) : Statement (.tdecl base size mode e) :=
  of_cand rfl (by 
    simp [cand, cand33]
    repeat first
      | rw [extract_hi (h := by decide)]
      | rw [extract_lo (h := by decide)]
    try simp)
theorem tstateRead (dst base : SReg) (e : BitVec 7) : Statement (.tstateRead dst base e) :=
  of_cand rfl (by 
    simp [cand, cand33]
    repeat first
      | rw [extract_hi (h := by decide)]
      | rw [extract_lo (h := by decide)]
    try simp)
theorem tstateArm (dst base n : SReg) (e : BitVec 7) : Statement (.tstateArm dst base n e) :=
  of_cand rfl (by 
    simp [cand, cand33]
    repeat first
      | rw [extract_hi (h := by decide)]
      | rw [extract_lo (h := by decide)]
    try simp)
theorem tstateReady (dst base : SReg) (e : BitVec 7) : Statement (.tstateReady dst base e) :=
  of_cand rfl (by 
    simp [cand, cand33]
    repeat first
      | rw [extract_hi (h := by decide)]
      | rw [extract_lo (h := by decide)]
    try simp)
theorem tstateEmpty (dst base : SReg) (e : BitVec 7) : Statement (.tstateEmpty dst base e) :=
  of_cand rfl (by 
    simp [cand, cand33]
    repeat first
      | rw [extract_hi (h := by decide)]
      | rw [extract_lo (h := by decide)]
    try simp)
theorem tfree (base : SReg) (e : BitVec 7) : Statement (.tfree base e) :=
  of_cand rfl (by 
    simp [cand, cand33]
    repeat first
      | rw [extract_hi (h := by decide)]
      | rw [extract_lo (h := by decide)]
    try simp)
theorem cinv (base len : SReg) (imm : BitVec 32) : Statement (.cinv base len imm) :=
  of_cand rfl (by 
    simp [cand, cand34]
    repeat first
      | rw [extract_hi (h := by decide)]
      | rw [extract_lo (h := by decide)]
    try simp)
theorem cinvI (base len : SReg) (imm : BitVec 32) : Statement (.cinvI base len imm) :=
  of_cand rfl (by 
    simp [cand, cand34]
    repeat first
      | rw [extract_hi (h := by decide)]
      | rw [extract_lo (h := by decide)]
    try simp)
theorem cflush (base len : SReg) (imm : BitVec 32) : Statement (.cflush base len imm) :=
  of_cand rfl (by 
    simp [cand, cand34]
    repeat first
      | rw [extract_hi (h := by decide)]
      | rw [extract_lo (h := by decide)]
    try simp)
theorem promote (la : BitVec 4) (dst base : SReg) (imm : BitVec 32) : Statement (.promote la dst base imm) :=
  of_cand rfl (by 
    simp [cand, cand3A]
    repeat first
      | rw [extract_hi (h := by decide)]
      | rw [extract_lo (h := by decide)]
    try simp)
theorem shpin (la : BitVec 4) (dst base : SReg) (imm : BitVec 32) : Statement (.shpin la dst base imm) :=
  of_cand rfl (by 
    simp [cand, cand3A]
    repeat first
      | rw [extract_hi (h := by decide)]
      | rw [extract_lo (h := by decide)]
    try simp)
theorem shunpin (la : BitVec 4) (dst base : SReg) (d : Bool) (imm : BitVec 32) : Statement (.shunpin la dst base d imm) :=
  of_cand rfl (by 
    simp [cand, cand3A]
    repeat first
      | rw [extract_hi (h := by decide)]
      | rw [extract_lo (h := by decide)]
    try simp)
theorem bcastw (la : BitVec 4) (base : SReg) (data : VReg) (imm : BitVec 32) : Statement (.bcastw la base data imm) :=
  of_cand rfl (by 
    simp [cand, cand3A]
    repeat first
      | rw [extract_hi (h := by decide)]
      | rw [extract_lo (h := by decide)]
    try simp)
theorem amoAdd (la : BitVec 4) (ty : ElemType) (dst base b : SReg) (imm : BitVec 32) (req : ReqType) (scope : Scope) (ord : Order) : Statement (.amoAdd la ty dst base b imm req scope ord) :=
  of_cand rfl (by 
    simp [cand, cand40]
    repeat first
      | rw [extract_hi (h := by decide)]
      | rw [extract_lo (h := by decide)]
    try simp)
theorem amoMin (la : BitVec 4) (ty : ElemType) (dst base b : SReg) (imm : BitVec 32) (req : ReqType) (scope : Scope) (ord : Order) : Statement (.amoMin la ty dst base b imm req scope ord) :=
  of_cand rfl (by 
    simp [cand, cand40]
    repeat first
      | rw [extract_hi (h := by decide)]
      | rw [extract_lo (h := by decide)]
    try simp)
theorem amoMax (la : BitVec 4) (ty : ElemType) (dst base b : SReg) (imm : BitVec 32) (req : ReqType) (scope : Scope) (ord : Order) : Statement (.amoMax la ty dst base b imm req scope ord) :=
  of_cand rfl (by 
    simp [cand, cand40]
    repeat first
      | rw [extract_hi (h := by decide)]
      | rw [extract_lo (h := by decide)]
    try simp)
theorem amoAnd (la : BitVec 4) (ty : ElemType) (dst base b : SReg) (imm : BitVec 32) (req : ReqType) (scope : Scope) (ord : Order) : Statement (.amoAnd la ty dst base b imm req scope ord) :=
  of_cand rfl (by 
    simp [cand, cand40]
    repeat first
      | rw [extract_hi (h := by decide)]
      | rw [extract_lo (h := by decide)]
    try simp)
theorem amoOr (la : BitVec 4) (ty : ElemType) (dst base b : SReg) (imm : BitVec 32) (req : ReqType) (scope : Scope) (ord : Order) : Statement (.amoOr la ty dst base b imm req scope ord) :=
  of_cand rfl (by 
    simp [cand, cand40]
    repeat first
      | rw [extract_hi (h := by decide)]
      | rw [extract_lo (h := by decide)]
    try simp)
theorem amoXor (la : BitVec 4) (ty : ElemType) (dst base b : SReg) (imm : BitVec 32) (req : ReqType) (scope : Scope) (ord : Order) : Statement (.amoXor la ty dst base b imm req scope ord) :=
  of_cand rfl (by 
    simp [cand, cand40]
    repeat first
      | rw [extract_hi (h := by decide)]
      | rw [extract_lo (h := by decide)]
    try simp)
theorem amoSwap (la : BitVec 4) (ty : ElemType) (dst base b : SReg) (imm : BitVec 32) (req : ReqType) (scope : Scope) (ord : Order) : Statement (.amoSwap la ty dst base b imm req scope ord) :=
  of_cand rfl (by 
    simp [cand, cand40]
    repeat first
      | rw [extract_hi (h := by decide)]
      | rw [extract_lo (h := by decide)]
    try simp)
theorem cas (la : BitVec 4) (ty : ElemType) (dst base b c : SReg) (imm : BitVec 32) (req : ReqType) (scope : Scope) (ord : Order) : Statement (.cas la ty dst base b c imm req scope ord) :=
  of_cand rfl (by 
    simp [cand, cand40]
    repeat first
      | rw [extract_hi (h := by decide)]
      | rw [extract_lo (h := by decide)]
    try simp)
theorem amaxf (la : BitVec 4) (ty : ElemType) (dst base b : SReg) (imm : BitVec 32) (req : ReqType) (scope : Scope) (ord : Order) (nskip : Bool) : Statement (.amaxf la ty dst base b imm req scope ord nskip) :=
  of_cand rfl (by 
    simp [cand, cand40]
    repeat first
      | rw [extract_hi (h := by decide)]
      | rw [extract_lo (h := by decide)]
    try simp)
theorem fence (scope : Scope) (ord : Order) : Statement (.fence scope ord) :=
  of_cand rfl (by 
    simp [cand, cand41]
    repeat first
      | rw [extract_hi (h := by decide)]
      | rw [extract_lo (h := by decide)]
    try simp)
theorem publ (scope : Scope) (level : BitVec 32) : Statement (.publ scope level) :=
  of_cand rfl (by 
    simp [cand, cand41]
    repeat first
      | rw [extract_hi (h := by decide)]
      | rw [extract_lo (h := by decide)]
    try simp)
theorem tide (level : BitVec 32) : Statement (.tide level) :=
  of_cand rfl (by 
    simp [cand, cand41]
    repeat first
      | rw [extract_hi (h := by decide)]
      | rw [extract_lo (h := by decide)]
    try simp)
theorem bari (base b : SReg) (imm : BitVec 32) (req : ReqType) (scope : Scope) : Statement (.bari base b imm req scope) :=
  of_cand rfl (by 
    simp [cand, cand42]
    repeat first
      | rw [extract_hi (h := by decide)]
      | rw [extract_lo (h := by decide)]
    try simp)
theorem bara (dst base n : SReg) (imm : BitVec 32) (req : ReqType) (scope : Scope) : Statement (.bara dst base n imm req scope) :=
  of_cand rfl (by 
    simp [cand, cand42]
    repeat first
      | rw [extract_hi (h := by decide)]
      | rw [extract_lo (h := by decide)]
    try simp)
theorem barw (dst base p : SReg) (imm : BitVec 32) (req : ReqType) (scope : Scope) : Statement (.barw dst base p imm req scope) :=
  of_cand rfl (by 
    simp [cand, cand42]
    repeat first
      | rw [extract_hi (h := by decide)]
      | rw [extract_lo (h := by decide)]
    try simp)
theorem wbar (dst base n : SReg) (imm : BitVec 32) (req : ReqType) (scope : Scope) : Statement (.wbar dst base n imm req scope) :=
  of_cand rfl (by 
    simp [cand, cand42]
    repeat first
      | rw [extract_hi (h := by decide)]
      | rw [extract_lo (h := by decide)]
    try simp)
theorem cmpl (base v : SReg) (imm : BitVec 32) (scope : Scope) : Statement (.cmpl base v imm scope) :=
  of_cand rfl (by 
    simp [cand, cand43]
    repeat first
      | rw [extract_hi (h := by decide)]
      | rw [extract_lo (h := by decide)]
    try simp)
theorem waitw (dst base v bound : SReg) (imm : BitVec 32) (req : ReqType) (scope : Scope) (ord : Order) (cond : Cond) : Statement (.waitw dst base v bound imm req scope ord cond) :=
  of_cand rfl (by 
    simp [cand, cand43]
    repeat first
      | rw [extract_hi (h := by decide)]
      | rw [extract_lo (h := by decide)]
    try simp)
theorem vadd (ty : ElemType) (dst a b : VReg) (mask : BitVec 3) (z : Bool) (rnd : Rounding) (fzi fzo sat : Bool) : Statement (.vadd ty dst a b mask z rnd fzi fzo sat) :=
  of_cand rfl (by 
    simp [cand, cand50]
    repeat first
      | rw [extract_hi (h := by decide)]
      | rw [extract_lo (h := by decide)]
    try simp)
theorem vsub (ty : ElemType) (dst a b : VReg) (mask : BitVec 3) (z : Bool) (rnd : Rounding) (fzi fzo sat : Bool) : Statement (.vsub ty dst a b mask z rnd fzi fzo sat) :=
  of_cand rfl (by 
    simp [cand, cand50]
    repeat first
      | rw [extract_hi (h := by decide)]
      | rw [extract_lo (h := by decide)]
    try simp)
theorem vmul (ty : ElemType) (dst a b : VReg) (mask : BitVec 3) (z : Bool) (rnd : Rounding) (fzi fzo sat : Bool) : Statement (.vmul ty dst a b mask z rnd fzi fzo sat) :=
  of_cand rfl (by 
    simp [cand, cand50]
    repeat first
      | rw [extract_hi (h := by decide)]
      | rw [extract_lo (h := by decide)]
    try simp)
theorem vfma (ty : ElemType) (dst a b c : VReg) (mask : BitVec 3) (z : Bool) (rnd : Rounding) (fzi fzo sat : Bool) : Statement (.vfma ty dst a b c mask z rnd fzi fzo sat) :=
  of_cand rfl (by 
    simp [cand, cand50]
    repeat first
      | rw [extract_hi (h := by decide)]
      | rw [extract_lo (h := by decide)]
    try simp)
theorem vmin (ty : ElemType) (dst a b : VReg) (mask : BitVec 3) (z : Bool) (rnd : Rounding) (fzi fzo sat : Bool) : Statement (.vmin ty dst a b mask z rnd fzi fzo sat) :=
  of_cand rfl (by 
    simp [cand, cand50]
    repeat first
      | rw [extract_hi (h := by decide)]
      | rw [extract_lo (h := by decide)]
    try simp)
theorem vmax (ty : ElemType) (dst a b : VReg) (mask : BitVec 3) (z : Bool) (rnd : Rounding) (fzi fzo sat : Bool) : Statement (.vmax ty dst a b mask z rnd fzi fzo sat) :=
  of_cand rfl (by 
    simp [cand, cand50]
    repeat first
      | rw [extract_hi (h := by decide)]
      | rw [extract_lo (h := by decide)]
    try simp)
theorem vabs (ty : ElemType) (dst a : VReg) (mask : BitVec 3) (z : Bool) (rnd : Rounding) (fzi fzo sat : Bool) : Statement (.vabs ty dst a mask z rnd fzi fzo sat) :=
  of_cand rfl (by 
    simp [cand, cand50]
    repeat first
      | rw [extract_hi (h := by decide)]
      | rw [extract_lo (h := by decide)]
    try simp)
theorem vneg (ty : ElemType) (dst a : VReg) (mask : BitVec 3) (z : Bool) (rnd : Rounding) (fzi fzo sat : Bool) : Statement (.vneg ty dst a mask z rnd fzi fzo sat) :=
  of_cand rfl (by 
    simp [cand, cand50]
    repeat first
      | rw [extract_hi (h := by decide)]
      | rw [extract_lo (h := by decide)]
    try simp)
theorem vand (ty : ElemType) (dst a b : VReg) (mask : BitVec 3) (z : Bool) : Statement (.vand ty dst a b mask z) :=
  of_cand rfl (by 
    simp [cand, cand51]
    repeat first
      | rw [extract_hi (h := by decide)]
      | rw [extract_lo (h := by decide)]
    try simp)
theorem vor (ty : ElemType) (dst a b : VReg) (mask : BitVec 3) (z : Bool) : Statement (.vor ty dst a b mask z) :=
  of_cand rfl (by 
    simp [cand, cand51]
    repeat first
      | rw [extract_hi (h := by decide)]
      | rw [extract_lo (h := by decide)]
    try simp)
theorem vxor (ty : ElemType) (dst a b : VReg) (mask : BitVec 3) (z : Bool) : Statement (.vxor ty dst a b mask z) :=
  of_cand rfl (by 
    simp [cand, cand51]
    repeat first
      | rw [extract_hi (h := by decide)]
      | rw [extract_lo (h := by decide)]
    try simp)
theorem vshl (ty : ElemType) (dst a b : VReg) (mask : BitVec 3) (z immk : Bool) (k : BitVec 5) : Statement (.vshl ty dst a b mask z immk k) :=
  of_cand rfl (by 
    simp [cand, cand51]
    repeat first
      | rw [extract_hi (h := by decide)]
      | rw [extract_lo (h := by decide)]
    try simp)
theorem vshr (ty : ElemType) (dst a b : VReg) (mask : BitVec 3) (z immk : Bool) (k : BitVec 5) : Statement (.vshr ty dst a b mask z immk k) :=
  of_cand rfl (by 
    simp [cand, cand51]
    repeat first
      | rw [extract_hi (h := by decide)]
      | rw [extract_lo (h := by decide)]
    try simp)
theorem vsar (ty : ElemType) (dst a b : VReg) (mask : BitVec 3) (z immk : Bool) (k : BitVec 5) : Statement (.vsar ty dst a b mask z immk k) :=
  of_cand rfl (by 
    simp [cand, cand51]
    repeat first
      | rw [extract_hi (h := by decide)]
      | rw [extract_lo (h := by decide)]
    try simp)
theorem vcmp (ty : ElemType) (dst : MReg) (a b : VReg) (p : Pred) (mask : BitVec 3) (z : Bool) : Statement (.vcmp ty dst a b p mask z) :=
  of_cand rfl (by 
    simp [cand, cand52]
    repeat first
      | rw [extract_hi (h := by decide)]
      | rw [extract_lo (h := by decide)]
    try simp)
theorem vsel (ty : ElemType) (dst a b : VReg) (mc : MReg) (mask : BitVec 3) (z : Bool) : Statement (.vsel ty dst a b mc mask z) :=
  of_cand rfl (by 
    simp [cand, cand52]
    repeat first
      | rw [extract_hi (h := by decide)]
      | rw [extract_lo (h := by decide)]
    try simp)
theorem vmov (ty : ElemType) (dst a : VReg) (mask : BitVec 3) (z : Bool) : Statement (.vmov ty dst a mask z) :=
  of_cand rfl (by 
    simp [cand, cand52]
    repeat first
      | rw [extract_hi (h := by decide)]
      | rw [extract_lo (h := by decide)]
    try simp)
theorem vmovToMask (dst : MReg) (a : VReg) : Statement (.vmovToMask dst a) :=
  of_cand rfl (by 
    simp [cand, cand52]
    repeat first
      | rw [extract_hi (h := by decide)]
      | rw [extract_lo (h := by decide)]
    try simp)
theorem vmovFromMask (dst : VReg) (a : MReg) : Statement (.vmovFromMask dst a) :=
  of_cand rfl (by 
    simp [cand, cand52]
    repeat first
      | rw [extract_hi (h := by decide)]
      | rw [extract_lo (h := by decide)]
    try simp)
theorem vmovsToScalar (ty : ElemType) (dst : SReg) (a : VReg) (k : SReg) : Statement (.vmovsToScalar ty dst a k) :=
  of_cand rfl (by 
    simp [cand, cand52]
    repeat first
      | rw [extract_hi (h := by decide)]
      | rw [extract_lo (h := by decide)]
    try simp)
theorem vmovsToVector (ty : ElemType) (dst : VReg) (a k : SReg) : Statement (.vmovsToVector ty dst a k) :=
  of_cand rfl (by 
    simp [cand, cand52]
    repeat first
      | rw [extract_hi (h := by decide)]
      | rw [extract_lo (h := by decide)]
    try simp)
theorem vbcast (ty : ElemType) (dst : VReg) (a : SReg) (mask : BitVec 3) (z : Bool) : Statement (.vbcast ty dst a mask z) :=
  of_cand rfl (by 
    simp [cand, cand52]
    repeat first
      | rw [extract_hi (h := by decide)]
      | rw [extract_lo (h := by decide)]
    try simp)
theorem viota (ty : ElemType) (dst : VReg) (a : SReg) (mask : BitVec 3) (z : Bool) : Statement (.viota ty dst a mask z) :=
  of_cand rfl (by 
    simp [cand, cand52]
    repeat first
      | rw [extract_hi (h := by decide)]
      | rw [extract_lo (h := by decide)]
    try simp)
theorem vcvt (ty : ElemType) (dst a : VReg) (src : ElemType) (mask : BitVec 3) (z : Bool) (rnd : Rounding) (fzi fzo sat nov : Bool) : Statement (.vcvt ty dst a src mask z rnd fzi fzo sat nov) :=
  of_cand rfl (by 
    simp [cand, cand53]
    repeat first
      | rw [extract_hi (h := by decide)]
      | rw [extract_lo (h := by decide)]
    try simp)
theorem vwmul (ty : ElemType) (dst a b : VReg) (mask : BitVec 3) (z : Bool) (rnd : Rounding) (fzi fzo : Bool) : Statement (.vwmul ty dst a b mask z rnd fzi fzo) :=
  of_cand rfl (by 
    simp [cand, cand53]
    repeat first
      | rw [extract_hi (h := by decide)]
      | rw [extract_lo (h := by decide)]
    try simp)
theorem vwadd (ty : ElemType) (dst a b : VReg) (mask : BitVec 3) (z : Bool) (rnd : Rounding) (fzi fzo : Bool) : Statement (.vwadd ty dst a b mask z rnd fzi fzo) :=
  of_cand rfl (by 
    simp [cand, cand53]
    repeat first
      | rw [extract_hi (h := by decide)]
      | rw [extract_lo (h := by decide)]
    try simp)
theorem vnarrow (ty : ElemType) (dst a : VReg) (sh : BitVec 5) (mode : BitVec 2) (mask : BitVec 3) (z sat : Bool) : Statement (.vnarrow ty dst a sh mode mask z sat) :=
  of_cand rfl (by 
    simp [cand, cand53]
    repeat first
      | rw [extract_hi (h := by decide)]
      | rw [extract_lo (h := by decide)]
    try simp)
theorem vdot (la : BitVec 4) (ty : ElemType) (dst : SReg) (a b : VReg) (len : SReg) (rnd : Rounding) (fzi fzo sat : Bool) : Statement (.vdot la ty dst a b len rnd fzi fzo sat) :=
  of_cand rfl (by 
    simp [cand, cand54]
    repeat first
      | rw [extract_hi (h := by decide)]
      | rw [extract_lo (h := by decide)]
    try simp)
theorem vred (la : BitVec 4) (ty : ElemType) (dst : SReg) (a : VReg) (op mask : BitVec 3) (rnd : Rounding) (fzi fzo sat : Bool) : Statement (.vred la ty dst a op mask rnd fzi fzo sat) :=
  of_cand rfl (by 
    simp [cand, cand54]
    repeat first
      | rw [extract_hi (h := by decide)]
      | rw [extract_lo (h := by decide)]
    try simp)
theorem vscan (la : BitVec 4) (ty : ElemType) (dst a : VReg) (init : SReg) (op mask : BitVec 3) (z : Bool) (rnd : Rounding) (fzi fzo sat excl : Bool) : Statement (.vscan la ty dst a init op mask z rnd fzi fzo sat excl) :=
  of_cand rfl (by 
    simp [cand, cand54]
    repeat first
      | rw [extract_hi (h := by decide)]
      | rw [extract_lo (h := by decide)]
    try simp)
theorem vperm (ty : ElemType) (dst a b : VReg) (mask : BitVec 3) (z : Bool) : Statement (.vperm ty dst a b mask z) :=
  of_cand rfl (by 
    simp [cand, cand55]
    repeat first
      | rw [extract_hi (h := by decide)]
      | rw [extract_lo (h := by decide)]
    try simp)
theorem vrot (ty : ElemType) (dst a : VReg) (k : SReg) (mask : BitVec 3) (z : Bool) : Statement (.vrot ty dst a k mask z) :=
  of_cand rfl (by 
    simp [cand, cand55]
    repeat first
      | rw [extract_hi (h := by decide)]
      | rw [extract_lo (h := by decide)]
    try simp)
theorem vcompr (ty : ElemType) (dst a : VReg) (mask : BitVec 3) (z : Bool) : Statement (.vcompr ty dst a mask z) :=
  of_cand rfl (by 
    simp [cand, cand55]
    repeat first
      | rw [extract_hi (h := by decide)]
      | rw [extract_lo (h := by decide)]
    try simp)
theorem vexpand (ty : ElemType) (dst a : VReg) (mask : BitVec 3) (z : Bool) : Statement (.vexpand ty dst a mask z) :=
  of_cand rfl (by 
    simp [cand, cand55]
    repeat first
      | rw [extract_hi (h := by decide)]
      | rw [extract_lo (h := by decide)]
    try simp)
theorem vexp2 (la : BitVec 4) (ty : ElemType) (dst a : VReg) (mask : BitVec 3) (z fzi fzo : Bool) : Statement (.vexp2 la ty dst a mask z fzi fzo) :=
  of_cand rfl (by 
    simp [cand, cand80]
    repeat first
      | rw [extract_hi (h := by decide)]
      | rw [extract_lo (h := by decide)]
    try simp)
theorem vexp (la : BitVec 4) (ty : ElemType) (dst a : VReg) (mask : BitVec 3) (z fzi fzo : Bool) : Statement (.vexp la ty dst a mask z fzi fzo) :=
  of_cand rfl (by 
    simp [cand, cand80]
    repeat first
      | rw [extract_hi (h := by decide)]
      | rw [extract_lo (h := by decide)]
    try simp)
theorem vlog2 (la : BitVec 4) (ty : ElemType) (dst a : VReg) (mask : BitVec 3) (z fzi fzo : Bool) : Statement (.vlog2 la ty dst a mask z fzi fzo) :=
  of_cand rfl (by 
    simp [cand, cand80]
    repeat first
      | rw [extract_hi (h := by decide)]
      | rw [extract_lo (h := by decide)]
    try simp)
theorem vlog (la : BitVec 4) (ty : ElemType) (dst a : VReg) (mask : BitVec 3) (z fzi fzo : Bool) : Statement (.vlog la ty dst a mask z fzi fzo) :=
  of_cand rfl (by 
    simp [cand, cand80]
    repeat first
      | rw [extract_hi (h := by decide)]
      | rw [extract_lo (h := by decide)]
    try simp)
theorem vrcp (la : BitVec 4) (ty : ElemType) (dst a : VReg) (mask : BitVec 3) (z fzi fzo : Bool) : Statement (.vrcp la ty dst a mask z fzi fzo) :=
  of_cand rfl (by 
    simp [cand, cand80]
    repeat first
      | rw [extract_hi (h := by decide)]
      | rw [extract_lo (h := by decide)]
    try simp)
theorem vrsq (la : BitVec 4) (ty : ElemType) (dst a : VReg) (mask : BitVec 3) (z fzi fzo : Bool) : Statement (.vrsq la ty dst a mask z fzi fzo) :=
  of_cand rfl (by 
    simp [cand, cand80]
    repeat first
      | rw [extract_hi (h := by decide)]
      | rw [extract_lo (h := by decide)]
    try simp)
theorem vsqrt (la : BitVec 4) (ty : ElemType) (dst a : VReg) (mask : BitVec 3) (z fzi fzo : Bool) : Statement (.vsqrt la ty dst a mask z fzi fzo) :=
  of_cand rfl (by 
    simp [cand, cand80]
    repeat first
      | rw [extract_hi (h := by decide)]
      | rw [extract_lo (h := by decide)]
    try simp)
theorem vtanh (la : BitVec 4) (ty : ElemType) (dst a : VReg) (mask : BitVec 3) (z fzi fzo : Bool) : Statement (.vtanh la ty dst a mask z fzi fzo) :=
  of_cand rfl (by 
    simp [cand, cand80]
    repeat first
      | rw [extract_hi (h := by decide)]
      | rw [extract_lo (h := by decide)]
    try simp)
theorem gang : Statement .gang :=
  of_cand rfl (by 
    simp [cand, cand90]
    repeat first
      | rw [extract_hi (h := by decide)]
      | rw [extract_lo (h := by decide)]
    try simp)
theorem mzero (ty : ElemType) (dst : AReg) (n : SReg) : Statement (.mzero ty dst n) :=
  of_cand rfl (by 
    simp [cand, cand90]
    repeat first
      | rw [extract_hi (h := by decide)]
      | rw [extract_lo (h := by decide)]
    try simp)
theorem mldb (la : BitVec 4) (ty : ElemType) (base n stride : SReg) (pair : BitVec 1) (sp : Bool) : Statement (.mldb la ty base n stride pair sp) :=
  of_cand rfl (by 
    simp [cand, cand90]
    repeat first
      | rw [extract_hi (h := by decide)]
      | rw [extract_lo (h := by decide)]
    try simp)
theorem mgath (la : BitVec 4) (ty : ElemType) (base : SReg) (idx : VReg) (extent : SReg) (pair : BitVec 1) (imm : BitVec 32) : Statement (.mgath la ty base idx extent pair imm) :=
  of_cand rfl (by 
    simp [cand, cand90]
    repeat first
      | rw [extract_hi (h := by decide)]
      | rw [extract_lo (h := by decide)]
    try simp)
theorem mma (la : BitVec 4) (ty : ElemType) (dst : AReg) (n : SReg) (rnd : Rounding) (fzi fzo sat zs : Bool) (pair : BitVec 1) : Statement (.mma la ty dst n rnd fzi fzo sat zs pair) :=
  of_cand rfl (by 
    simp [cand, cand90]
    repeat first
      | rw [extract_hi (h := by decide)]
      | rw [extract_lo (h := by decide)]
    try simp)
theorem mmas (la : BitVec 4) (ty : ElemType) (dst : AReg) (n : SReg) (vm : VReg) (rnd : Rounding) (fzi fzo sat zs : Bool) (pair : BitVec 1) (s48 : Bool) : Statement (.mmas la ty dst n vm rnd fzi fzo sat zs pair s48) :=
  of_cand rfl (by 
    simp [cand, cand90]
    repeat first
      | rw [extract_hi (h := by decide)]
      | rw [extract_lo (h := by decide)]
    try simp)
theorem mcomp (la : BitVec 4) (ty : ElemType) (dst : VReg) (a b p : SReg) (s48 : Bool) : Statement (.mcomp la ty dst a b p s48) :=
  of_cand rfl (by 
    simp [cand, cand90]
    repeat first
      | rw [extract_hi (h := by decide)]
      | rw [extract_lo (h := by decide)]
    try simp)
theorem mscale (ty : ElemType) (a : VReg) (pair : BitVec 1) (bside : Bool) : Statement (.mscale ty a pair bside) :=
  of_cand rfl (by 
    simp [cand, cand90]
    repeat first
      | rw [extract_hi (h := by decide)]
      | rw [extract_lo (h := by decide)]
    try simp)
theorem mdrain (la : BitVec 4) (ty : ElemType) (dst : VReg) (cell scale : SReg) (rnd : Rounding) (fzo sat nov nskip : Bool) (scope : Scope) (acc : BitVec 2) (row blk : BitVec 4) : Statement (.mdrain la ty dst cell scale rnd fzo sat nov nskip scope acc row blk) :=
  of_cand rfl (by 
    simp [cand, cand90]
    repeat first
      | rw [extract_hi (h := by decide)]
      | rw [extract_lo (h := by decide)]
    try simp)
theorem mdrainVault (la : BitVec 4) (ty : ElemType) (dst base cell scale : SReg) (rnd : Rounding) (fzo sat nov nskip : Bool) (scope : Scope) (acc : BitVec 2) : Statement (.mdrainVault la ty dst base cell scale rnd fzo sat nov nskip scope acc) :=
  of_cand rfl (by 
    simp [cand, cand90]
    repeat first
      | rw [extract_hi (h := by decide)]
      | rw [extract_lo (h := by decide)]
    try simp)
theorem copy (h : HReg) (d src len : SReg) (req : ReqType) (scope : Scope) (drain : Bool) : Statement (.copy h d src len req scope drain) :=
  of_cand rfl (by 
    simp [cand, candA0]
    repeat first
      | rw [extract_hi (h := by decide)]
      | rw [extract_lo (h := by decide)]
    try simp)
theorem copy2d (h : HReg) (d src p : SReg) (req : ReqType) (scope : Scope) (drain : Bool) : Statement (.copy2d h d src p req scope drain) :=
  of_cand rfl (by 
    simp [cand, candA0]
    repeat first
      | rw [extract_hi (h := by decide)]
      | rw [extract_lo (h := by decide)]
    try simp)
theorem put (h : HReg) (r l n : SReg) (req : ReqType) (scope : Scope) (sig : Bool) (ep : BitVec 16) : Statement (.put h r l n req scope sig ep) :=
  of_cand rfl (by 
    simp [cand, candA1]
    repeat first
      | rw [extract_hi (h := by decide)]
      | rw [extract_lo (h := by decide)]
    try simp)
theorem get (h : HReg) (l r n : SReg) (req : ReqType) (scope : Scope) (ep : BitVec 16) : Statement (.get h l r n req scope ep) :=
  of_cand rfl (by 
    simp [cand, candA1]
    repeat first
      | rw [extract_hi (h := by decide)]
      | rw [extract_lo (h := by decide)]
    try simp)
theorem radd (ty : ElemType) (h : HReg) (r b : SReg) (acc : Access) (ep : BitVec 16) : Statement (.radd ty h r b acc ep) :=
  of_cand rfl (by 
    simp [cand, candA1]
    repeat first
      | rw [extract_hi (h := by decide)]
      | rw [extract_lo (h := by decide)]
    try simp)
theorem trig (h : HReg) (a : SReg) (acc : Access) : Statement (.trig h a acc) :=
  of_cand rfl (by 
    simp [cand, candA1]
    repeat first
      | rw [extract_hi (h := by decide)]
      | rw [extract_lo (h := by decide)]
    try simp)
theorem cnti (c : BitVec 8) (b : SReg) (scope : Scope) (set : Bool) : Statement (.cnti c b scope set) :=
  of_cand rfl (by 
    simp [cand, candA2]
    repeat first
      | rw [extract_hi (h := by decide)]
      | rw [extract_lo (h := by decide)]
    try simp)
theorem cntr (dst : SReg) (c : BitVec 8) : Statement (.cntr dst c) :=
  of_cand rfl (by 
    simp [cand, candA2]
    repeat first
      | rw [extract_hi (h := by decide)]
      | rw [extract_lo (h := by decide)]
    try simp)
theorem htest (dst : SReg) (h : HReg) : Statement (.htest dst h) :=
  of_cand rfl (by 
    simp [cand, candA3]
    repeat first
      | rw [extract_hi (h := by decide)]
      | rw [extract_lo (h := by decide)]
    try simp)
theorem hcancel (h : HReg) : Statement (.hcancel h) :=
  of_cand rfl (by 
    simp [cand, candA3]
    repeat first
      | rw [extract_hi (h := by decide)]
      | rw [extract_lo (h := by decide)]
    try simp)
theorem hwait (dst : SReg) (h : HReg) : Statement (.hwait dst h) :=
  of_cand rfl (by 
    simp [cand, candA3]
    repeat first
      | rw [extract_hi (h := by decide)]
      | rw [extract_lo (h := by decide)]
    try simp)
theorem hwaitToken (dst k : SReg) : Statement (.hwaitToken dst k) :=
  of_cand rfl (by 
    simp [cand, candA3]
    repeat first
      | rw [extract_hi (h := by decide)]
      | rw [extract_lo (h := by decide)]
    try simp)
theorem hmov (dst h : HReg) : Statement (.hmov dst h) :=
  of_cand rfl (by 
    simp [cand, candA3]
    repeat first
      | rw [extract_hi (h := by decide)]
      | rw [extract_lo (h := by decide)]
    try simp)
theorem htok (dst : SReg) (h : HReg) : Statement (.htok dst h) :=
  of_cand rfl (by 
    simp [cand, candA3]
    repeat first
      | rw [extract_hi (h := by decide)]
      | rw [extract_lo (h := by decide)]
    try simp)
theorem rgrp (dst spec : SReg) : Statement (.rgrp dst spec) :=
  of_cand rfl (by 
    simp [cand, candB0]
    repeat first
      | rw [extract_hi (h := by decide)]
      | rw [extract_lo (h := by decide)]
    try simp)
theorem rgrpFree (dst g : SReg) : Statement (.rgrpFree dst g) :=
  of_cand rfl (by 
    simp [cand, candB0]
    repeat first
      | rw [extract_hi (h := by decide)]
      | rw [extract_lo (h := by decide)]
    try simp)
theorem nload (dst g a n : SReg) : Statement (.nload dst g a n) :=
  of_cand rfl (by 
    simp [cand, candB0]
    repeat first
      | rw [extract_hi (h := by decide)]
      | rw [extract_lo (h := by decide)]
    try simp)
theorem redcfg (dst g c a : SReg) : Statement (.redcfg dst g c a) :=
  of_cand rfl (by 
    simp [cand, candB0]
    repeat first
      | rw [extract_hi (h := by decide)]
      | rw [extract_lo (h := by decide)]
    try simp)
theorem rstep (h : HReg) (g a : SReg) : Statement (.rstep h g a) :=
  of_cand rfl (by 
    simp [cand, candB0]
    repeat first
      | rw [extract_hi (h := by decide)]
      | rw [extract_lo (h := by decide)]
    try simp)
theorem rstat (dst g : SReg) (sel : BitVec 32) : Statement (.rstat dst g sel) :=
  of_cand rfl (by 
    simp [cand, candB0]
    repeat first
      | rw [extract_hi (h := by decide)]
      | rw [extract_lo (h := by decide)]
    try simp)
theorem sqins (ty : ElemType) (dst a : VReg) (mask : BitVec 3) : Statement (.sqins ty dst a mask) :=
  of_cand rfl (by 
    simp [cand, candC0]
    repeat first
      | rw [extract_hi (h := by decide)]
      | rw [extract_lo (h := by decide)]
    try simp)
theorem shins (ty : ElemType) (dst a : VReg) (mask : BitVec 3) : Statement (.shins ty dst a mask) :=
  of_cand rfl (by 
    simp [cand, candC0]
    repeat first
      | rw [extract_hi (h := by decide)]
      | rw [extract_lo (h := by decide)]
    try simp)
theorem sdins (ty : ElemType) (dst a : VReg) (mask : BitVec 3) : Statement (.sdins ty dst a mask) :=
  of_cand rfl (by 
    simp [cand, candC0]
    repeat first
      | rw [extract_hi (h := by decide)]
      | rw [extract_lo (h := by decide)]
    try simp)
theorem smerge (la : BitVec 4) (dst a b : VReg) (kind : BitVec 2) : Statement (.smerge la dst a b kind) :=
  of_cand rfl (by 
    simp [cand, candC0]
    repeat first
      | rw [extract_hi (h := by decide)]
      | rw [extract_lo (h := by decide)]
    try simp)
theorem sqq (la : BitVec 4) (dst : SReg) (a : VReg) (q : SReg) : Statement (.sqq la dst a q) :=
  of_cand rfl (by 
    simp [cand, candC0]
    repeat first
      | rw [extract_hi (h := by decide)]
      | rw [extract_lo (h := by decide)]
    try simp)
theorem sqrank (la : BitVec 4) (dst : SReg) (a : VReg) (x : SReg) : Statement (.sqrank la dst a x) :=
  of_cand rfl (by 
    simp [cand, candC0]
    repeat first
      | rw [extract_hi (h := by decide)]
      | rw [extract_lo (h := by decide)]
    try simp)
theorem shtop (dst : SReg) (a : VReg) (j : SReg) : Statement (.shtop dst a j) :=
  of_cand rfl (by 
    simp [cand, candC0]
    repeat first
      | rw [extract_hi (h := by decide)]
      | rw [extract_lo (h := by decide)]
    try simp)
theorem sdest (dst : SReg) (a : VReg) : Statement (.sdest dst a) :=
  of_cand rfl (by 
    simp [cand, candC0]
    repeat first
      | rw [extract_hi (h := by decide)]
      | rw [extract_lo (h := by decide)]
    try simp)
theorem scoin (dst : VReg) (a : SReg) (init : Bool) : Statement (.scoin dst a init) :=
  of_cand rfl (by 
    simp [cand, candC0]
    repeat first
      | rw [extract_hi (h := by decide)]
      | rw [extract_lo (h := by decide)]
    try simp)
theorem gnode (dst a : SReg) : Statement (.gnode dst a) :=
  of_cand rfl (by 
    simp [cand, candD0]
    repeat first
      | rw [extract_hi (h := by decide)]
      | rw [extract_lo (h := by decide)]
    try simp)
theorem gdep (dst a b : SReg) : Statement (.gdep dst a b) :=
  of_cand rfl (by 
    simp [cand, candD0]
    repeat first
      | rw [extract_hi (h := by decide)]
      | rw [extract_lo (h := by decide)]
    try simp)
theorem gsub (h : HReg) (a : SReg) : Statement (.gsub h a) :=
  of_cand rfl (by 
    simp [cand, candD0]
    repeat first
      | rw [extract_hi (h := by decide)]
      | rw [extract_lo (h := by decide)]
    try simp)
theorem crew (dst : SReg) (imm : BitVec 32) : Statement (.crew dst imm) :=
  of_cand rfl (by 
    simp [cand, candD0]
    repeat first
      | rw [extract_hi (h := by decide)]
      | rw [extract_lo (h := by decide)]
    try simp)
theorem yield (imm : BitVec 32) : Statement (.yield imm) :=
  of_cand rfl (by 
    simp [cand, candD0]
    repeat first
      | rw [extract_hi (h := by decide)]
      | rw [extract_lo (h := by decide)]
    try simp)
theorem rdc (dst : SReg) (num : BitVec 12) : Statement (.rdc dst num) :=
  of_cand rfl (by 
    simp [cand, candE0]
    repeat first
      | rw [extract_hi (h := by decide)]
      | rw [extract_lo (h := by decide)]
    try simp)
theorem wrc (num : BitVec 12) (a : SReg) : Statement (.wrc num a) :=
  of_cand rfl (by 
    simp [cand, candE0]
    repeat first
      | rw [extract_hi (h := by decide)]
      | rw [extract_lo (h := by decide)]
    try simp)
theorem trap (code : BitVec 16) : Statement (.trap code) :=
  of_cand rfl (by 
    simp [cand, candE0]
    repeat first
      | rw [extract_hi (h := by decide)]
      | rw [extract_lo (h := by decide)]
    try simp)
theorem pair (dst : SReg) (dir : BitVec 2) : Statement (.pair dst dir) :=
  of_cand rfl (by 
    simp [cand, candE0]
    repeat first
      | rw [extract_hi (h := by decide)]
      | rw [extract_lo (h := by decide)]
    try simp)
theorem unpair (dst : SReg) : Statement (.unpair dst) :=
  of_cand rfl (by 
    simp [cand, candE0]
    repeat first
      | rw [extract_hi (h := by decide)]
      | rw [extract_lo (h := by decide)]
    try simp)
theorem idle (dst : SReg) (imm : BitVec 32) : Statement (.idle dst imm) :=
  of_cand rfl (by 
    simp [cand, candE0]
    repeat first
      | rw [extract_hi (h := by decide)]
      | rw [extract_lo (h := by decide)]
    try simp)
theorem svres (dst a : SReg) (op : BitVec 2) (mask : BitVec 4) : Statement (.svres dst a op mask) :=
  of_cand rfl (by 
    simp [cand, candE0]
    repeat first
      | rw [extract_hi (h := by decide)]
      | rw [extract_lo (h := by decide)]
    try simp)
theorem newtWord (bank : Nat) : Statement (.newtWord bank) := of_event rfl
theorem newtResultReady (bank : Nat) (unit : Nat) : Statement (.newtResultReady bank unit) := of_event rfl
theorem stepLeaveArmed (die : Nat) (grp : Nat) : Statement (.stepLeaveArmed die grp) := of_event rfl
theorem stepMoveComplete (die : Nat) (grp : Nat) : Statement (.stepMoveComplete die grp) := of_event rfl
theorem stepPublishComplete (die : Nat) (grp : Nat) : Statement (.stepPublishComplete die grp) := of_event rfl
theorem stepTimeout (die : Nat) (grp : Nat) : Statement (.stepTimeout die grp) := of_event rfl
theorem nloadCopyDone (cid : Nat) : Statement (.nloadCopyDone cid) := of_event rfl
theorem powerUpBoot : Statement .powerUpBoot := of_event rfl
theorem firmwareUpdate (image : Nat) (sig : Nat) (key : Nat) : Statement (.firmwareUpdate image sig key) := of_event rfl
theorem attestationRequest (challenge : Nat) : Statement (.attestationRequest challenge) := of_event rfl
theorem debugAuthenticate (key : Nat) (sig : Nat) : Statement (.debugAuthenticate key sig) := of_event rfl
theorem lifecycleAdvance (stage : Nat) : Statement (.lifecycleAdvance stage) := of_event rfl
theorem registerWrite (pa : Nat) (size : Nat) (val : Nat) : Statement (.registerWrite pa size val) := of_event rfl
theorem supervisorGo (die : Nat) : Statement (.supervisorGo die) := of_event rfl
theorem tlbInvalidateGo (die : Nat) (val : Nat) : Statement (.tlbInvalidateGo die val) := of_event rfl
theorem tlbInvalidateDone (die : Nat) : Statement (.tlbInvalidateDone die) := of_event rfl
theorem pageWalkComplete (die : Nat) (walker : Nat) : Statement (.pageWalkComplete die walker) := of_event rfl
theorem formatWindowDisable (stack : Nat) (win : Nat) : Statement (.formatWindowDisable stack win) := of_event rfl
theorem formatWindowDisableAck (stack : Nat) (win : Nat) : Statement (.formatWindowDisableAck stack win) := of_event rfl
theorem inboundRemoteWrite (io : Nat) (key : Nat) (off : Nat) (data : List (BitVec 8)) : Statement (.inboundRemoteWrite io key off data) := of_event rfl
theorem inboundRemoteRead (io : Nat) (key : Nat) (off : Nat) (len : Nat) : Statement (.inboundRemoteRead io key off len) := of_event rfl
theorem inboundRemoteAtomic (io : Nat) (key : Nat) (off : Nat) (size : Nat) (op : Nat) (a : Nat) (b : Nat) : Statement (.inboundRemoteAtomic io key off size op a b) := of_event rfl
theorem homeRequest (idx : Nat) : Statement (.homeRequest idx) := of_event rfl
theorem dirtyFifoAck (core : Nat) : Statement (.dirtyFifoAck core) := of_event rfl
theorem releaseComplete (core : Nat) : Statement (.releaseComplete core) := of_event rfl
theorem remoteLoadReply (cid : Nat) : Statement (.remoteLoadReply cid) := of_event rfl
theorem bankOperation (bank : Nat) : Statement (.bankOperation bank) := of_event rfl
theorem refresh (bank : Nat) : Statement (.refresh bank) := of_event rfl
theorem patrolScrub (bank : Nat) : Statement (.patrolScrub bank) := of_event rfl
theorem shmodeWrite (bank : Nat) (val : Nat) : Statement (.shmodeWrite bank val) := of_event rfl
theorem bkmodeClearRefused (bank : Nat) : Statement (.bkmodeClearRefused bank) := of_event rfl
theorem shmodeChangeDone (bank : Nat) : Statement (.shmodeChangeDone bank) := of_event rfl
theorem rowRetireGo (bank : Nat) (prow : Nat) : Statement (.rowRetireGo bank prow) := of_event rfl
theorem rowRetireDone (bank : Nat) : Statement (.rowRetireDone bank) := of_event rfl
theorem tileArrival (op : Nat) : Statement (.tileArrival op) := of_event rfl
theorem engineOperationComplete (op : Nat) : Statement (.engineOperationComplete op) := of_event rfl
theorem copyEngineStart (die : Nat) : Statement (.copyEngineStart die) := of_event rfl
theorem tideArrival (die : Nat) : Statement (.tideArrival die) := of_event rfl
theorem ebbComplete (die : Nat) (entry : Nat) : Statement (.ebbComplete die entry) := of_event rfl
theorem domainEnable (die : Nat) (entry : Nat) (val : Nat) : Statement (.domainEnable die entry val) := of_event rfl
theorem domainAbort (die : Nat) (entry : Nat) : Statement (.domainAbort die entry) := of_event rfl
theorem deferredCompletionStore (idx : Nat) : Statement (.deferredCompletionStore idx) := of_event rfl
theorem fetchPortServe (gang : Nat) : Statement (.fetchPortServe gang) := of_event rfl
theorem icacheFill (gang : Nat) : Statement (.icacheFill gang) := of_event rfl
theorem lineRefetch (cid : Nat) : Statement (.lineRefetch cid) := of_event rfl
theorem alignRelease (cid : Nat) : Statement (.alignRelease cid) := of_event rfl
theorem alignBoundExpiry (cid : Nat) : Statement (.alignBoundExpiry cid) := of_event rfl
theorem repPassIssue (cid : Nat) : Statement (.repPassIssue cid) := of_event rfl
theorem barrierWaitTimeout (cid : Nat) : Statement (.barrierWaitTimeout cid) := of_event rfl
theorem waitwTimeout (cid : Nat) : Statement (.waitwTimeout cid) := of_event rfl
theorem waitwWindowPoll (cid : Nat) : Statement (.waitwWindowPoll cid) := of_event rfl
theorem yieldExpiry (cid : Nat) : Statement (.yieldExpiry cid) := of_event rfl
theorem idleTimeout (cid : Nat) : Statement (.idleTimeout cid) := of_event rfl
theorem pairTimeout (cid : Nat) : Statement (.pairTimeout cid) := of_event rfl
theorem gangBarrierComplete (gang : Nat) : Statement (.gangBarrierComplete gang) := of_event rfl
theorem matrixOperandLoadDone (core : Nat) : Statement (.matrixOperandLoadDone core) := of_event rfl
theorem successorReleaseMessage (die : Nat) : Statement (.successorReleaseMessage die) := of_event rfl
theorem priorityAging (die : Nat) (entry : Nat) : Statement (.priorityAging die entry) := of_event rfl
theorem dispatchTask (die : Nat) : Statement (.dispatchTask die) := of_event rfl
theorem dispatchGangtask (die : Nat) : Statement (.dispatchGangtask die) := of_event rfl
theorem dispatchCrew (die : Nat) : Statement (.dispatchCrew die) := of_event rfl
theorem dispatchStep (die : Nat) : Statement (.dispatchStep die) := of_event rfl
theorem dispatchCopy (die : Nat) : Statement (.dispatchCopy die) := of_event rfl
theorem queueEnable (io : Nat) (q : Nat) (val : Nat) : Statement (.queueEnable io q val) := of_event rfl
theorem queueSwitchOut (io : Nat) (q : Nat) : Statement (.queueSwitchOut io q) := of_event rfl
theorem queueSwitchIn (io : Nat) (q : Nat) : Statement (.queueSwitchIn io q) := of_event rfl
theorem queueVisit (io : Nat) : Statement (.queueVisit io) := of_event rfl
theorem tranarNop (io : Nat) : Statement (.tranarNop io) := of_event rfl
theorem tranarGraph (io : Nat) : Statement (.tranarGraph io) := of_event rfl
theorem tranarCopy (io : Nat) : Statement (.tranarCopy io) := of_event rfl
theorem tranarStore (io : Nat) : Statement (.tranarStore io) := of_event rfl
theorem faultPacketDelivery (die : Nat) : Statement (.faultPacketDelivery die) := of_event rfl
theorem faultRingEnable (die : Nat) (sup : Nat) (val : Nat) : Statement (.faultRingEnable die sup val) := of_event rfl
theorem debugUnpark (cid : Nat) : Statement (.debugUnpark cid) := of_event rfl
theorem debugEvict (cid : Nat) : Statement (.debugEvict cid) := of_event rfl
theorem debugPcWrite (cid : Nat) (pc : Nat) : Statement (.debugPcWrite cid pc) := of_event rfl
theorem automaticEviction (die : Nat) : Statement (.automaticEviction die) := of_event rfl
theorem contextRestore (cid : Nat) : Statement (.contextRestore cid) := of_event rfl
theorem wakeEventRetry (die : Nat) : Statement (.wakeEventRetry die) := of_event rfl
theorem breakwaterFence (die : Nat) (bw : Nat) : Statement (.breakwaterFence die bw) := of_event rfl
theorem breakwaterReset (die : Nat) (bw : Nat) : Statement (.breakwaterReset die bw) := of_event rfl
theorem breakwaterResetDone (die : Nat) (bw : Nat) : Statement (.breakwaterResetDone die bw) := of_event rfl
theorem breakwaterRelease (die : Nat) (bw : Nat) : Statement (.breakwaterRelease die bw) := of_event rfl
theorem pairIntervalClose (cid : Nat) : Statement (.pairIntervalClose cid) := of_event rfl
theorem pairFingerprintExchange (cid : Nat) : Statement (.pairFingerprintExchange cid) := of_event rfl
theorem redundantRunGo (die : Nat) : Statement (.redundantRunGo die) := of_event rfl
theorem redundantRunCompare (die : Nat) : Statement (.redundantRunCompare die) := of_event rfl
theorem counterPersist (unit : Nat) : Statement (.counterPersist unit) := of_event rfl
theorem orderlyPowerDown : Statement .orderlyPowerDown := of_event rfl
theorem linkDown (link : Nat) : Statement (.linkDown link) := of_event rfl
theorem linkErrorRateReplan (link : Nat) : Statement (.linkErrorRateReplan link) := of_event rfl
theorem powerGrantRequest : Statement .powerGrantRequest := of_event rfl
theorem packageEnterP3 : Statement .packageEnterP3 := of_event rfl
theorem packageLeaveP3 : Statement .packageLeaveP3 := of_event rfl
theorem powerMeasurementInterval (dies : List Nat) (stks : List Nat) : Statement (.powerMeasurementInterval dies stks) := of_event rfl
theorem dieReturnToP0 (die : Nat) : Statement (.dieReturnToP0 die) := of_event rfl
theorem unitWithdraw (unit : Nat) : Statement (.unitWithdraw unit) := of_event rfl
theorem unitReturn (unit : Nat) : Statement (.unitReturn unit) := of_event rfl
theorem checkpointGo : Statement .checkpointGo := of_event rfl
theorem checkpointComplete (ok : Bool) : Statement (.checkpointComplete ok) := of_event rfl
theorem longLatencyInstructionComplete (cid : Nat) : Statement (.longLatencyInstructionComplete cid) := of_event rfl
theorem powerLoss : Statement .powerLoss := of_event rfl
theorem thermalExcursion (die : Nat) (bucket : Nat) : Statement (.thermalExcursion die bucket) := of_event rfl
theorem supplyDroop (die : Nat) (bucket : Nat) : Statement (.supplyDroop die bucket) := of_event rfl
theorem linkRetry (link : Nat) : Statement (.linkRetry link) := of_event rfl
theorem linkReenable (link : Nat) : Statement (.linkReenable link) := of_event rfl
theorem unitWithdrawalComplete (unit : Nat) : Statement (.unitWithdrawalComplete unit) := of_event rfl
theorem unitReturnComplete (unit : Nat) : Statement (.unitReturnComplete unit) := of_event rfl
theorem inboundUnsupportedPacket (io : Nat) : Statement (.inboundUnsupportedPacket io) := of_event rfl

end Sys2Proof.Laws.RoundTrip
end

