-- ==== Sys2Proof/Safety.lean ====
section
/-! DEFINITION. What counts as a safe run and the terms that the statements use: an instruction that completes, one that traps,
exact results of the scalar operations, what an element-wise instruction leaves, and the memory's invariant. -/

namespace Sys2Proof.Claims
open Sys2Proof Sys2Proof.Machine

/-! ## Outcomes -/

/-- An instruction or event answers a next state. -/
abbrev Runs (i : Instr) (s t : State) : Prop := Sys2Proof.Machine.exec i s = Host.Outcome.next t

/-- An instruction raises a fault: its entry is taken, once the earlier bank operations of the context are served (R378,
R379). -/
abbrev Traps (i : Instr) (s : State) (t : Trap) : Prop :=
  Sys2Proof.Machine.exec i s = Host.Outcome.next (stopNow s (.trap t))

/-- The invariant of memory: addresses strictly rising, and no entry equal to what an unlisted address reads as. -/
abbrev Inv (s : State) : Prop := s.mem.wf = true

/-! ## Exact scalar results -/

/-- An integer brought within bounds. -/
def clamp (lo hi x : Int) : Int := if hi < x then hi else if x < lo then lo else x

/-- An exact signed result in a scalar register: wrapped, or saturated (R8, R218). -/
def res64 (sat : Bool) (x : Int) : Word :=
  BitVec.ofInt 64 (if sat then clamp (-(2 ^ 63)) (2 ^ 63 - 1) x else x)

/-- The operations of two scalar operands that are not long-latency (R218). -/
inductive BinOp where
  | mulh | mulhu | and | or | xor | andn | shl | shr | sar | rot | min | max | minu | maxu | seq | slt | sltu
  deriving DecidableEq, Repr

/-- A comparison's result (R218). -/
def flag64 (p : Prop) [Decidable p] : Word := if p then 1#64 else 0#64

/-- The result of an operation, by the integers that its operands are (R218, R219). -/
def BinOp.val : BinOp → Word → Word → Word
  | .mulh, x, y => BitVec.ofInt 64 (x.toInt * y.toInt / 2 ^ 64)
  | .mulhu, x, y => BitVec.ofNat 64 (x.toNat * y.toNat / 2 ^ 64)
  | .and, x, y => x &&& y
  | .or, x, y => x ||| y
  | .xor, x, y => x ^^^ y
  | .andn, x, y => x &&& ~~~y
  | .shl, x, y => BitVec.ofNat 64 (x.toNat * 2 ^ (y.toNat % 64))
  | .shr, x, y => BitVec.ofNat 64 (x.toNat / 2 ^ (y.toNat % 64))
  | .sar, x, y => BitVec.ofInt 64 (x.toInt / 2 ^ (y.toNat % 64))
  | .rot, x, y => BitVec.ofNat 64 (x.toNat * 2 ^ (y.toNat % 64) + x.toNat / 2 ^ (64 - y.toNat % 64))
  | .min, x, y => if x.toInt ≤ y.toInt then x else y
  | .max, x, y => if x.toInt ≤ y.toInt then y else x
  | .minu, x, y => if x.toNat ≤ y.toNat then x else y
  | .maxu, x, y => if x.toNat ≤ y.toNat then y else x
  | .seq, x, y => flag64 (x = y)
  | .slt, x, y => flag64 (x.toInt < y.toInt)
  | .sltu, x, y => flag64 (x.toNat < y.toNat)

/-- The register form of an operation. -/
def BinOp.reg : BinOp → SReg → SReg → SReg → Instr
  | .mulh => .mulh | .mulhu => .mulhu | .and => .andR | .or => .orR | .xor => .xorR | .andn => .andn | .shl => .shl
  | .shr => .shr | .sar => .sar | .rot => .rot | .min => .minS | .max => .maxS | .minu => .minu | .maxu => .maxu
  | .seq => .seq | .slt => .slt | .sltu => .sltu

/-- The immediate form of an operation. -/
def BinOp.imm : BinOp → SReg → SReg → BitVec 32 → Instr
  | .mulh => .mulhImm | .mulhu => .mulhuImm | .and => .andImm | .or => .orImm | .xor => .xorImm | .andn => .andnImm
  | .shl => .shlImm | .shr => .shrImm | .sar => .sarImm | .rot => .rotImm | .min => .minImm | .max => .maxImm
  | .minu => .minuImm | .maxu => .maxuImm | .seq => .seqImm | .slt => .sltImm | .sltu => .sltuImm

/-- The operations whose immediate amount must lie within 0 to 63 (R219). -/
def BinOp.isShift : BinOp → Bool
  | .shl | .shr | .sar | .rot => true
  | .mulh | .mulhu | .and | .or | .xor | .andn | .min | .max | .minu | .maxu | .seq | .slt | .sltu => false

/-- The value of an immediate (R208). -/
def immVal (imm : BitVec 32) : Word := BitVec.ofInt 64 imm.toInt

/-- The four divisions (R219). -/
inductive DivOp where
  | div | divu | rem | remu
  deriving DecidableEq, Repr

/-- Quotients rounded toward zero and their remainders; a zero divisor gives all ones or the dividend (R219). -/
def DivOp.val : DivOp → Word → Word → Word
  | .div, x, y => if y = 0#64 then BitVec.ofInt 64 (-1) else BitVec.ofInt 64 (x.toInt.tdiv y.toInt)
  | .divu, x, y => if y = 0#64 then BitVec.ofInt 64 (-1) else BitVec.ofNat 64 (x.toNat / y.toNat)
  | .rem, x, y => if y = 0#64 then x else BitVec.ofInt 64 (x.toInt - y.toInt * x.toInt.tdiv y.toInt)
  | .remu, x, y => if y = 0#64 then x else BitVec.ofNat 64 (x.toNat % y.toNat)

/-- The register form of a division. -/
def DivOp.reg : DivOp → BitVec 4 → SReg → SReg → SReg → Instr
  | .div => .div | .divu => .divu | .rem => .rem | .remu => .remu

/-- The immediate form of a division. -/
def DivOp.imm : DivOp → BitVec 4 → SReg → SReg → BitVec 32 → Instr
  | .div => .divImm | .divu => .divuImm | .rem => .remImm | .remu => .remuImm

/-- The state after a long-latency instruction that writes one scalar register (R213, R214): written at once without
lookahead, otherwise owed by a window of that length. -/
def afterLongS (s : State) (la : BitVec 4) (d : SReg) (v : Word) (t : State) : Prop :=
  (la = 0#4 → t = finish (s.setS d v)) ∧
  (la ≠ 0#4 → t = (finish s).modMe fun c =>
    { c with windows := c.windows ++ [{ left := la.toNat, dests := [.s d], writes := [.s d v] }] })

/-- A relative branch target (R209): the displaced line plus 12 bytes a slot. -/
def target (pc : Nat) (imm : BitVec 32) : Nat :=
  (((pc / 64 * 64 : Nat) + 64 * (imm.toInt / 8) + 12 * (imm.toInt % 8)) % 2 ^ 64 : Int).toNat

/-! ## Element-wise results -/

/-- Element i of a type in a vector register (R4, R150). -/
def el (ty : ElemType) (v : Vec) (i : Nat) : Nat := v.toNat / 2 ^ (ty.width * i) % 2 ^ ty.width

/-- Whether element i is active under a mask field (R267). -/
def active (s : State) (mask : BitVec 3) (i : Nat) : Bool := mask == 0#3 || (s.rm mask).toNat.testBit i

/-- What an element-wise instruction leaves (R267, R269): active elements hold their results, inactive ones are kept or
zeroed, and the flags are those of the active elements. -/
def ElementWise (s : State) (ty : ElemType) (d : VReg) (mask : BitVec 3) (z : Bool) (f : Nat → Nat × Nat)
    (t : State) : Prop :=
  ∃ v fl, t = finish (raiseFlags (s.setV d v) fl) ∧
    (∀ i, i < ty.count → el ty v i =
      if active s mask i then (f i).1 % 2 ^ ty.width else if z then 0 else el ty (s.rv d) i) ∧
    (∀ k, fl.testBit k = true ↔ ∃ i, i < ty.count ∧ active s mask i = true ∧ (f i).2.testBit k = true)

/-- The same for a long-latency instruction of floating-point results (R213, R214). -/
def LongElementWise (s : State) (la : BitVec 4) (float : Bool) (ty : ElemType) (d : VReg) (mask : BitVec 3) (z : Bool)
    (f : Nat → Nat × Nat) (t : State) : Prop :=
  ∃ v fl, t = finishLong s la (if float then [.v d, .fpflags] else [.v d])
      (if float then [.v d v, .fpflags fl] else [.v d v]) ∧
    (∀ i, i < ty.count → el ty v i =
      if active s mask i then (f i).1 % 2 ^ ty.width else if z then 0 else el ty (s.rv d) i) ∧
    (∀ k, fl.testBit k = true ↔ ∃ i, i < ty.count ∧ active s mask i = true ∧ (f i).2.testBit k = true)

/-- The range of an integer type (R150, R153). -/
def lo (ty : ElemType) : Int := if ty.signed then -(2 ^ (ty.width - 1)) else 0
/-- The range of an integer type (R150, R153). -/
def hi (ty : ElemType) : Int := if ty.signed then 2 ^ (ty.width - 1) - 1 else 2 ^ ty.width - 1

/-- The integer that an element's bits are (R150, R153). -/
def val (ty : ElemType) (x : Nat) : Int := if (x : Int) ≤ hi ty then x else (x : Int) - 2 ^ ty.width

/-- The element that an exact integer becomes: wrapped, or saturated (R8, R153). -/
def fit (ty : ElemType) (sat : Bool) (x : Int) : Nat :=
  ((if sat then clamp (lo ty) (hi ty) x else x) % 2 ^ ty.width).toNat

/-! ## Memory -/

/-- Nothing of an earlier access is under way that concerns the current context: no race record, pending sector, engine
operation, posted write-back, upset or poisoned word, declared tile, tidal store or unacknowledged store, and the context is
unpaired and in no graph. -/
structure Quiet (s : State) : Prop where
  races : s.races = []
  pend : s.pend = []
  ops : s.ops = []
  homeq : s.homeq = []
  upsets : s.upsets = []
  poison : s.poison = []
  tiles : s.tiles = []
  tidal : (s.core (coreOf s.cur)).tidal = []
  fifo : (s.core (coreOf s.cur)).fifo = []
  pair : (s.core (coreOf s.cur)).pair = none
  node : s.me.node = none
  mid : s.me.mid = .none

/-- The n bytes at a virtual address lie in one sector of a vault, at the region-form address a, that serves the current
context: named through the vault window (R26), of a unit in service and powered. -/
structure InVault (s : State) (va n a : Nat) : Prop where
  low : va < 2 ^ 48
  window : va / 2 ^ 40 = 0xFF
  named : vaultWindow s.cur va = some a
  sector : va % 64 + n ≤ 64
  some : 0 < n
  serves : refuses s (dieOf s.cur) (.vault a) = false
  powered : parkedAt s (.vault a) = none

/-- The n bytes at an address lie in one sector of DRAM, at the bank-local address a, that serves the current supervisor
context, which does not translate (R176): no L1 and no L2 holds a line, and the bank is neither busy nor in a live step. -/
structure InDram (s : State) (va n a : Nat) : Prop where
  raw : untranslated s s.cur = true
  place : physLoc s va = Option.some (.dram a)
  sector : va % 64 + n ≤ 64
  some : 0 < n
  serves : refuses s (dieOf s.cur) (.dram a) = false
  powered : parkedAt s (.dram a) = none
  bank : (s.bank (bankKey a)).shBusy = false ∧ (s.bank (bankKey a)).rtBusy = false
  step : bankInStep s (bankKey a) = false
  l1 : ∀ k, (s.core k).l1 = []
  l2 : s.l2 = []

/-- A store's effect on memory and registers: n bytes at a hold the new bytes, every other byte reads as before, and no
register or flag has changed. -/
def StoredOnly (s t : State) (a : Nat) (bs : List Byte) : Prop :=
  t.mem.readN a bs.length = bs ∧ (∀ b, (b < a ∨ a + bs.length ≤ b) → t.mem.read b = s.mem.read b) ∧
  t.me.sregs = s.me.sregs ∧ t.me.vregs = s.me.vregs ∧ t.me.mregs = s.me.mregs ∧ t.me.hregs = s.me.hregs ∧
  t.me.fpflags = s.me.fpflags ∧ t.me.round = s.me.round ∧ t.me.mode = s.me.mode ∧ t.me.doms = s.me.doms

/-- The bytes of a scalar type (R211). -/
def sizeOf' : ElemType → Nat
  | .s8 | .u8 => 1
  | .s16 | .u16 => 2
  | .s32 | .u32 => 4
  | .s64 | .u64 => 8
  | .s4 | .u4 | .e4m3 | .bf16 | .fp16 | .fp32 => 0

/-- An element extended to a scalar register by its type (R153). -/
def extend (ty : ElemType) (x : Nat) : Word := BitVec.ofInt 64 (if ty.isInt then val ty x else (x : Int))

/-- The active elements of a vector access, lowest first. -/
def onElems (s : State) (ty : ElemType) (mask : BitVec 3) : List Nat := (List.range ty.count).filter fun i => active s mask i

/-- The active lanes of a gather or scatter: of the first 128 (R245). -/
def onLanes (s : State) (mask : BitVec 3) : List Nat := (List.range 128).filter fun i => active s mask i

/-- What a vector load leaves in its register: the loaded elements, and the others kept or zeroed (R243). -/
def LoadedAs (s : State) (ty : ElemType) (d : VReg) (z : Bool) (on : List Nat) (bss : List (List Byte)) (v : Vec) : Prop :=
  (∀ p ∈ on.zip bss, el ty v p.1 = (if ty.width = 4 then bytesToNat p.2 / 16 ^ (p.1 % 2) % 16 else bytesToNat p.2) %
    2 ^ ty.width) ∧
  (∀ i, i < ty.count → i ∉ on → el ty v i = if z then 0 else el ty (s.rv d) i)

/-- The bytes of an element's access: 4-bit elements lie two to a byte (R152). -/
def accBytes (ty : ElemType) : Nat := if ty.width = 4 then 1 else ty.width / 8

/-- The address of element i of a contiguous access (R152, R243). -/
def elemAddr (ty : ElemType) (va i : Nat) : Nat := (va + (if ty.width = 4 then i / 2 else i * (ty.width / 8))) % 2 ^ 64

/-- The alignment of a contiguous vector access (R243). -/
def contigAligned (ty : ElemType) (va : Nat) : Prop :=
  ty ≠ .s64 ∧ ty ≠ .u64 ∧ if ty.width ≤ 8 then va % 64 = 0 else va % (ty.width / 8) = 0

/-- What GATH and SCAT take: a type of 8 to 32 bits, an extent from 1 to 2^32 − 1, an aligned address (R245). -/
def laneOk (ty : ElemType) (va : Nat) (ext : Word) : Prop :=
  ty ≠ .s64 ∧ ty ≠ .u64 ∧ ty.width ≠ 4 ∧ 0 < ext.toNat ∧ ext.toNat < 2 ^ 32 ∧ va % (ty.width / 8) = 0

/-- The address of a lane: its index modulo the extent (R245). -/
def laneAt (ty : ElemType) (va : Nat) (idx : Vec) (ext : Word) (i : Nat) : Nat :=
  (va + el .u32 idx i % ext.toNat * (ty.width / 8)) % 2 ^ 64

/-- An order that acquires (R106). -/
def acquires (o : Order) : Prop := o = .acq ∨ o = .ar ∨ o = .sc
/-- An order that releases (R106). -/
def releases (o : Order) : Prop := o = .rel ∨ o = .ar ∨ o = .sc

/-- A state with the memory of another, and with its current context at the same instruction with the same registers. -/
def Kept (s u : State) : Prop :=
  u.mem = s.mem ∧ u.cur = s.cur ∧ u.me.pc = s.me.pc ∧ u.me.sregs = s.me.sregs ∧ u.me.vregs = s.me.vregs ∧
  u.me.mregs = s.me.mregs ∧ u.me.hregs = s.me.hregs

/-- A context that waited goes on at its instruction with what an event recorded for it, its registers and memory as
before (R182). -/
def Goes (s t : State) (cid : Nat) (m : Mid) : Prop :=
  (t.ctx cid).st = .ready ∧ (t.ctx cid).mid = m ∧ (t.ctx cid).pc = (s.ctx cid).pc ∧
  (t.ctx cid).sregs = (s.ctx cid).sregs ∧ t.mem = s.mem

/-- The context k has arrived for the context cid that waits at ALIGN, or is none that it waits for (R180, R185). -/
def Arrived (s : State) (cid k : Nat) : Prop :=
  k = cid ∨ (s.ctx k).asid ≠ (s.ctx cid).asid ∨ (s.ctx k).pc / 64 = (s.ctx cid).pc / 64 ∨
  match (s.ctx k).st with
  | .idle | .evicted | .blocked | .parked | .frozen => True
  | .stalled => (s.ctx k).mid = .waiting 185
  | .ready => False

/-- The condition of R185 for a context; a supervisor core has no gang. -/
def AllArrived (s : State) (cid : Nat) : Prop := isSup cid = true ∨ ∀ k ∈ ctxsOfGang (gangOf cid), Arrived s cid k

/-- A core that has nothing to release and no copy to drop: no unacknowledged store, no L1 line and no tidal store. -/
def Settled (s : State) (core : Nat) : Prop :=
  (s.core core).fifo = [] ∧ (s.core core).l1 = [] ∧ (s.core core).tidal = []

/-- A state in which nothing makes a commit wait (R56, R62, R68, R95, R121): no posted request and no L1 copy, no more race records than
one record store takes, and no pending sector whose bank or die holds requests back. -/
structure Committable (s : State) : Prop where
  posted : s.homeq = []
  copies : ∀ k, (s.core k).l1 = []
  records : s.races.length ≤ 16384
  served : ∀ p ∈ s.pend, heldAt s .store (sectorLoc p.sector) = none

/-- The n bytes at an address are translated without a page walk: for a space that does not translate, or when every page lies
outside the translated addresses (R26, R38, R176). -/
def Direct (sp : Option Space) (va n : Nat) : Prop :=
  ∀ x, sp = some x → x.raw = true ∨
    ∀ p ∈ pagePieces (va % 2 ^ 64) (max n 1), 2 ^ 48 ≤ p.1 % 2 ^ 64 ∨ p.1 % 2 ^ 64 / 2 ^ 40 = 0xFF

/-- A context with no enabled floating-point condition that its open windows or itself have yet to park for (R389). -/
def NoEvent (c : Ctx) : Prop := c.ev = 0 ∧ ∀ w ∈ c.windows, ∀ b, RegWrite.fpflags b ∉ w.writes

/-- An instruction that only reads and writes registers and the program counter: the scalar, branch, vector, special-function
and summary groups of the opcode map (R208). -/
def RegisterOnly (i : Instr) : Prop :=
  ∃ w, encode i = some w ∧
    let m := (w.extractLsb' 88 8).toNat
    (1 ≤ m ∧ m < 0x22) ∨ (0x50 ≤ m ∧ m ≤ 0x80) ∨ m = 0xC0

/-- The register that a pending write writes. -/
def written : RegWrite → RegName
  | .s r _ => .s r
  | .v r _ => .v r
  | .fpflags _ => .fpflags

/-- A register that an open lookahead window of the current context has yet to write (R214). -/
def Owed (s : State) (r : RegName) : Prop := ∃ w ∈ s.me.windows, ∃ x ∈ w.writes, written x = r

/-- The magnitude of a value. -/
def absFp : Fp → Fp
  | .nan b => .nan b
  | .inf _ => .inf false
  | .fin _ m e => .fin false m e

/-! ## Matrix operands -/

/-- What MMA and MMAS require of a member in an interval (R300): the slice of this width and class, the A latch and all eight
eighths of the B pair loaded, in one form, wide enough and of one class, and no outstanding load of the A latch. -/
structure MmaReady (s : State) (cls : ElemType) (dst : AReg) (w : Nat) (pair : BitVec 1) (sp : Bool) : Prop where
  member : isMember s s.cur = true
  interval : s.me.interval ≠ 0
  width : w ≤ 512
  slice : (sliceOf s dst).valid = true ∧ (sliceOf s dst).n = w ∧ (sliceOf s dst).cls = cls
  a : (s.core (coreOf s.cur)).alatch[pairIx pair].st = .loaded
  settled : aLoading s pair = false
  b : ∀ e ∈ (s.gang (gangOf s.cur)).bpub[pairIx pair].eighths.toList, e.st = .loaded ∧ e.sp = sp ∧ w ≤ e.n ∧
    e.ty = (s.gang (gangOf s.cur)).bpub[pairIx pair].eighths[0].ty
  same : mclass (s.core (coreOf s.cur)).alatch[pairIx pair].ty =
    mclass (s.gang (gangOf s.cur)).bpub[pairIx pair].eighths[0].ty
  cls : (mclass (s.core (coreOf s.cur)).alatch[pairIx pair].ty = .int ∧ cls = .s32) ∨
    ((mclass (s.core (coreOf s.cur)).alatch[pairIx pair].ty = .fp8 ∨
      mclass (s.core (coreOf s.cur)).alatch[pairIx pair].ty = .bf16) ∧ cls = .fp32)

/-- What a product leaves (R300): every element of the slice by its own block of the A row and the column, its flags, the
slice's class and width as before, and the words of columns outside the width too (R9). -/
def Multiplied (i : Instr) (s : State) (la : BitVec 4) (cls : ElemType) (dst : AReg) (w : Nat) (pair : BitVec 1) (k : FpCtl)
    (sat zs : Bool) (col : Nat → List Nat) : Prop :=
  let a := (s.core (coreOf s.cur)).alatch[pairIx pair]
  let b := (s.gang (gangOf s.cur)).bpub[pairIx pair]
  ∃ x fl, Runs i s (finishLong (setSlice s dst x) la (.a dst :: if cls = .fp32 then [.fpflags] else [])
      (if cls = .fp32 then [.fpflags fl] else [])) ∧
    x.valid = true ∧ x.cls = cls ∧ x.n = w ∧
    (∀ r c, r < a.rows.length → c < w → SMap.getD x.words (512 * r + c) 0#32 = BitVec.ofNat 32
      (blockStep k sat zs a.ty b.eighths[0].ty (SMap.getD (sliceOf s dst).words (512 * r + c) 0#32).toNat
        (unpackElems a.ty.width 64 (a.rows.getD r 0)) (col c) (a.scales.getD r one32) (b.scales.getD (c / 128) one32)).1) ∧
    ∀ r c, r < a.rows.length → w ≤ c → c < 512 →
      SMap.getD x.words (512 * r + c) 0#32 = SMap.getD (sliceOf s dst).words (512 * r + c) 0#32

end Sys2Proof.Claims
end

