-- ==== Sys2Proof/Certificates/Slice0/Obligations.lean ====
section
/-! DEFINITION. The statements for the provers. -/

open Sys2Proof Sys2Proof.Machine Sys2Proof.Claims

/-- For every constructor of Instr and every value of its fields that WellFormed admits, if encode gives a slot then
the decoder reads exactly that instruction from it; so no bit of an encoding is dropped. -/
def Obligations.EncodingRoundTrip : Prop :=
  ∀ i : Instr, i.wf = true → ∀ w : Slot, encode i = some w → decodeSlot w = .ok i

/-- If the decoder reads an instruction from a slot, then that instruction is well formed and its encoding is that
very slot: no slot with a bit set in an unused field, an unassigned code or an out-of-range register is read as a
neighbouring instruction. A slot whose major opcode is none of those of the opcode map raises the
undefined-instruction fault, code 0x10, whatever its other bits. -/
def Obligations.DecodeEncodes : Prop :=
  (∀ (w : Slot) (i : Instr), decodeSlot w = .ok i → i.wf = true ∧ encode i = some w) ∧
  (∀ w : Slot, w.extractLsb' 88 8 ∉ ([0x01#8, 0x02#8, 0x03#8, 0x04#8, 0x08#8, 0x20#8, 0x21#8, 0x22#8, 0x30#8, 0x31#8, 0x32#8,
      0x33#8, 0x34#8, 0x3A#8, 0x40#8, 0x41#8, 0x42#8, 0x43#8, 0x50#8, 0x51#8, 0x52#8, 0x53#8, 0x54#8, 0x55#8, 0x80#8, 0x90#8,
      0xA0#8, 0xA1#8, 0xA2#8, 0xA3#8, 0xB0#8, 0xC0#8, 0xD0#8, 0xE0#8] : List (BitVec 8)) → decodeSlot w = .error .undefinedInstruction ∧
      slotInstr w = .error 0x10)

/-- Eleven slots written out in the spec, one for each variant and several groups, decode to the instruction that
stands beside them there. -/
def Obligations.WorkedEncodings : Prop :=
  decodeSlot 0x0101000C1080000000000000#96 = .ok (.add 3 1 2 false) ∧
  decodeSlot 0x020100FFF0000000FFFFFFC0#96 = .ok (.addi 63 63 0xFFFFFFC0#32) ∧
  decodeSlot 0x3001271C4000000000000010#96 = .ok (.ld 2 .u32 7 4 16 .own .thr .rlx) ∧
  decodeSlot 0x30020D004240041100000008#96 = .ok (.st .u64 4 9 8 .wt .pkg .rel) ∧
  decodeSlot 0x50040B201083588000000000#96 = .ok (.vfma .fp32 8 1 2 3 2 true .rna false true false) ∧
  decodeSlot 0x2004000010800000FFFFFFF3#96 = .ok (.blt 1 2 0xFFFFFFF3#32) ∧
  decodeSlot 0x90090918024A00380000000D#96 = .ok (.mdrain 0 .bf16 6 9 10 .rne false false false true .die 1 3 0) ∧
  decodeSlot 0xA001000861C8002000000000#96 = .ok (.copy 2 6 7 8 .own .thr true) ∧
  decodeSlot 0xB0030008A30D000000000000#96 = .ok (.redcfg 2 10 12 13) ∧
  decodeSlot 0xC00420104140000000000000#96 = .ok (.smerge 2 4 4 5 0) ∧
  decodeSlot 0xE00200009000000000000001#96 = .ok (.wrc 1 9)

/-- When the next turn is that of a ready context of an unpaired core that runs, first in its core's rotation, which
holds the entered line of its program counter and reaches it in sequence, with no repetition or replay under way, no
open lookahead window, no floating-point event owed, no upset register, no summary instruction of its core that i
would have to wait for and a legal rounding mode, and the slot at its program counter decodes to i, then the step
performs i (exec) in the state in which that context is current, and the core's rotation moves on. Where the line
pairs the slot with the next one and they may issue together, the same step issues that one too. How turns are chosen
is the model's choice of log entry 1. -/
def Obligations.StepRunsDecoded : Prop :=
  ∀ (s : State) (cid : Nat) (r : List Turn) (l : LineBuf) (i : Instr) (u : State),
    s.turns = .issue cid :: r → validCtx cid = true → dieRuns s (dieOf cid) = true →
    (s.core (coreOf cid)).frozen = false → (s.core (coreOf cid)).pair = none →
    (s.ctx cid).st = .ready → firstReady s (coreOf cid) = some cid →
    (s.ctx cid).rep.body = [] → (s.ctx cid).windows = [] → (s.ctx cid).upsets = [] → (s.ctx cid).passing = false →
    (s.ctx cid).ev = 0 → (s.ctx cid).replayV = false → (s.core (coreOf cid)).accUpsets = [] →
    (isSummary i = true → summaryBusy s (coreOf cid) = false) → (s.ctx cid).round.toNat % 8 ≤ 4 →
    (s.ctx cid).line = some l → l.va = (s.ctx cid).pc / 64 * 64 → (s.ctx cid).checked = false → (s.ctx cid).entry = .seq →
    slotInstr (slotBits l.bytes ((s.ctx cid).pc % 64 / 12)) = .ok i →
    Runs i (noteLook (beginIssue { s with turns := r } cid) i) u →
    let v := afterIssue (beginIssue { s with turns := r } cid) cid i u
    (pairReady { s with turns := r } v cid = false → step s = .next (endTurn (rotate v cid))) ∧
    (∀ w, pairReady { s with turns := r } v cid = true → issueSlot v cid = .next w →
      step s = .next (endTurn (rotate (if (w.ctx cid).st = .stalled then v else w) cid)))

/-- When the next turn is an event of another agent that may happen, the step performs it (exec); otherwise the step
only ends the turn. With firmware in force and debug open, outside P3 and recovery, what has no encoding may happen,
and an instruction of a program never. In P3 and in recovery only the events of the boot ROM, IO0's firmware, the
management endpoint and the supply, the debugger's and register writes may; the debugger's only where debug is open,
and a register write only where debug is open or firmware is in force. What every turn ends with follows: save images
take the events that reached them, and a die whose supervisor cores are both frozen is withdrawn. That turns are
listed in the state is the model's choice of log entry 1, and which events P3, recovery and the debug port hold back
that of log entry 50. -/
def Obligations.StepHappens : Prop :=
  ∀ (s : State) (i : Instr) (r : List Turn), s.turns = .event i :: r →
    (eventHappens s i = true → ∀ u, Runs i { s with turns := r } u → step s = .next (endTurn u)) ∧
    (eventHappens s i = false → step s = .next (endTurn { s with turns := r })) ∧
    (s.pkg.firmware.isSome = true → s.pkg.debugOpen = true → s.pkg.p3 = false → s.pkg.recovery = false →
      (eventHappens s i = true ↔ encode i = none)) ∧
    (eventHappens s i = true → encode i = none ∧ (debuggerEvent i = true → s.pkg.debugOpen = true) ∧
      (∀ key n v, i = .registerWrite key n v → s.pkg.firmware.isSome = true ∨ s.pkg.debugOpen = true) ∧
      (s.pkg.p3 = true ∨ s.pkg.recovery = true → firmwareEvent i = true ∨ debuggerEvent i = true ∨
        ∃ key n v, i = .registerWrite key n v))

/-- After reset every context is idle with its control registers zero, its handles idle and no reservation of windows;
no core is frozen; every tile entry is free; no node, graph or rank group exists; no unit is out; each die's share is
515 W and each stack's 80 W. The zero of the general registers and of DRAM is the model's choice (log entries 2 and
8). -/
def Obligations.ResetState : Prop :=
  (∀ k, (State.reset.ctx k).st = .idle ∧ (State.reset.ctx k).pc = 0 ∧ (State.reset.ctx k).round = 0#64 ∧
    (State.reset.ctx k).fpflags = 0#64 ∧ (State.reset.ctx k).fpen = 0#64 ∧ (State.reset.ctx k).mode = 0#64 ∧
    (State.reset.ctx k).icount = 0#64 ∧ (∀ h : HReg, (State.reset.ctx k).getH h = .idle) ∧
    (∀ r : SReg, (State.reset.ctx k).getS r = 0#64) ∧ (State.reset.ctx k).windows = []) ∧
  (∀ k, (State.reset.core k).frozen = false ∧ (State.reset.core k).l1 = [] ∧ (State.reset.core k).fifo = []) ∧
  (∀ k, (State.reset.tile k).st = .free) ∧
  (∀ k, (State.reset.die k).pool = [] ∧ (State.reset.die k).groups = [] ∧ (State.reset.die k).svRun = false) ∧
  (∀ a, State.reset.mem.read a = 0#8) ∧
  (∀ (d : Nat) (h : d < 12), State.reset.pkg.dieShare[d] = 515) ∧
  (∀ (k : Nat) (h : k < 24), State.reset.pkg.stkShare[k] = 80) ∧
  (∀ (u : Nat) (h : u < 38), State.reset.pkg.svuState[u] = 0) ∧ State.reset.pkg.lifecycle = .manufacture

/-- If memory's list of addresses is strictly rising and holds no entry equal to what an unlisted address reads as,
then so it is after every step that answers a next state, whatever turn is taken. The form is the model's own; it
makes equal memories equal data. -/
def Obligations.MemoryInvariant : Prop :=
  ∀ s t : State, Inv s → Sys2Proof.Machine.step s = .next t → Inv t

/-- The invariant of memory holds of the state after reset and of every state in which withFetchWord places an
instruction in it. -/
def Obligations.MemoryInvariantReset : Prop :=
  Inv State.reset ∧ ∀ nbits w, Inv (State.reset.withFetchWord nbits w)

/-- Each instruction answers a next state, in which its destination holds the exact signed sum, difference, product or
multiply-add, wrapped to 64 bits or, with SAT, saturated once; a write to s0 is discarded, because setS discards it.
-/
def Obligations.ScalarArithmetic : Prop :=
  ∀ (s : State) (d a b c : SReg) (imm : BitVec 32) (sat : Bool),
    Runs (.add d a b sat) s (finish (s.setS d (res64 sat ((s.rs a).toInt + (s.rs b).toInt)))) ∧
    Runs (.sub d a b sat) s (finish (s.setS d (res64 sat ((s.rs a).toInt - (s.rs b).toInt)))) ∧
    Runs (.mul d a b sat) s (finish (s.setS d (res64 sat ((s.rs a).toInt * (s.rs b).toInt)))) ∧
    Runs (.addi d a imm) s (finish (s.setS d (res64 false ((s.rs a).toInt + imm.toInt)))) ∧
    Runs (.subImm d a imm) s (finish (s.setS d (res64 false ((s.rs a).toInt - imm.toInt)))) ∧
    Runs (.mulImm d a imm) s (finish (s.setS d (res64 false ((s.rs a).toInt * imm.toInt)))) ∧
    Runs (.mad d a b c sat) s (finish (s.setS d (res64 sat ((s.rs a).toInt * (s.rs b).toInt + (s.rs c).toInt))))

/-- For each of MULH, MULHU, AND, OR, XOR, ANDN, SHL, SHR, SAR, ROT, MIN, MAX, MINU, MAXU, SEQ, SLT and SLTU the
register form answers a next state whose destination holds the table's result; so does the immediate form with the
sign-extended immediate, except that a shift or rotation amount outside 0 to 63 raises the illegal-operand fault. -/
def Obligations.ScalarOperations : Prop :=
  ∀ (op : BinOp) (s : State) (d a b : SReg) (imm : BitVec 32),
    Runs (op.reg d a b) s (finish (s.setS d (op.val (s.rs a) (s.rs b)))) ∧
    ((op.isShift = true → imm.toNat ≤ 63) →
      Runs (op.imm d a imm) s (finish (s.setS d (op.val (s.rs a) (immVal imm))))) ∧
    (op.isShift = true → 63 < imm.toNat → Traps (op.imm d a imm) s { code := 0x12 })

/-- The register and immediate forms of the four divisions answer a next state with the quotient rounded toward zero
or its remainder, with all ones or the dividend for a zero divisor, and with -2^63 and 0 for -2^63 divided by -1;
without lookahead the result is written at once, with it a window of that length owes it. -/
def Obligations.ScalarDivision : Prop :=
  (∀ (op : DivOp) (s : State) (la : BitVec 4) (d a b : SReg) (imm : BitVec 32),
    (∃ t, Runs (op.reg la d a b) s t ∧ afterLongS s la d (op.val (s.rs a) (s.rs b)) t) ∧
    (∃ t, Runs (op.imm la d a imm) s t ∧ afterLongS s la d (op.val (s.rs a) (immVal imm)) t)) ∧
  DivOp.div.val (BitVec.intMin 64) (BitVec.ofInt 64 (-1)) = BitVec.intMin 64 ∧
  DivOp.rem.val (BitVec.intMin 64) (BitVec.ofInt 64 (-1)) = 0#64

/-- CLZ counts the zero bits above the highest one bit; POPC counts one bits; BREV moves bit i to 63 - i; EXTS and
EXTU read a field by sign or by zero and INS replaces one, each refusing a width of 0, a width above 64 or a field
that passes bit 63 with the illegal-operand fault; SEL chooses by a non-zero third operand; LI loads a sign-extended
constant; LIH replaces the high half; ADDR adds a displacement to the address of the instruction's line. -/
def Obligations.ScalarShapes : Prop :=
  ∀ (s : State) (d a b c : SReg) (imm : BitVec 32) (pos : BitVec 6) (w : BitVec 7),
    (∃ n, Runs (.clz d a) s (finish (s.setS d (BitVec.ofNat 64 n))) ∧
      (s.rs a = 0#64 → n = 64) ∧ (s.rs a ≠ 0#64 → n < 64 ∧ 2 ^ (63 - n) ≤ (s.rs a).toNat ∧ (s.rs a).toNat < 2 ^ (64 - n))) ∧
    Runs (.popc d a) s (finish (s.setS d
      (BitVec.ofNat 64 ((List.range 64).filter fun i => (s.rs a).getLsbD i).length))) ∧
    (∃ v, Runs (.brev d a) s (finish (s.setS d v)) ∧ ∀ i, i < 64 → v.getLsbD i = (s.rs a).getLsbD (63 - i)) ∧
    ((w = 0#7 ∨ 64 < pos.toNat + w.toNat) → Traps (.exts d a pos w) s { code := 0x12 } ∧
      Traps (.extu d a pos w) s { code := 0x12 } ∧ Traps (.ins d a pos w) s { code := 0x12 }) ∧
    (0 < w.toNat → pos.toNat + w.toNat ≤ 64 →
      (∃ v, Runs (.exts d a pos w) s (finish (s.setS d v)) ∧ ∀ i, i < 64 → v.getLsbD i =
        (s.rs a).getLsbD (pos.toNat + min i (w.toNat - 1))) ∧
      (∃ v, Runs (.extu d a pos w) s (finish (s.setS d v)) ∧ ∀ i, i < 64 → v.getLsbD i =
        (decide (i < w.toNat) && (s.rs a).getLsbD (pos.toNat + i))) ∧
      (∃ v, Runs (.ins d a pos w) s (finish (s.setS d v)) ∧ ∀ i, i < 64 → v.getLsbD i =
        if pos.toNat ≤ i ∧ i < pos.toNat + w.toNat then (s.rs a).getLsbD (i - pos.toNat) else (s.rs d).getLsbD i)) ∧
    Runs (.sel d a b c) s (finish (s.setS d (if s.rs c = 0#64 then s.rs b else s.rs a))) ∧
    Runs (.li d imm) s (finish (s.setS d (BitVec.ofInt 64 imm.toInt))) ∧
    Runs (.lih d imm) s (finish (s.setS d (BitVec.ofNat 64 (imm.toNat * 2 ^ 32 + (s.rs d).toNat % 2 ^ 32)))) ∧
    (s.me.passing = false →
      Runs (.addr d imm) s (finish (s.setS d (BitVec.ofInt 64 ((s.me.pc / 64 * 64 : Nat) + imm.toInt)))))

/-- BR, BEQ, BNE, BLT, BGE, BLTU, BGEU, BZ and BNZ answer a next state at the relative target, or at the next slot
when the condition fails; JMP, CALL and RET transfer, the first two writing the next slot's address to the link
register; a CALL that links to s0 raises the illegal-operand fault. -/
def Obligations.BranchTargets : Prop :=
  ∀ (s : State) (d a b : SReg) (imm : BitVec 32),
    let go := fun (p : Prop) [Decidable p] => if p then finishTo s (target s.me.pc imm) else finish s
    let ret := BitVec.ofNat 64 (if s.me.pc % 64 = 48 then s.me.pc + 16 else s.me.pc + 12)
    Runs (.br imm) s (go True) ∧
    Runs (.beq a b imm) s (go (s.rs a = s.rs b)) ∧
    Runs (.bne a b imm) s (go (s.rs a ≠ s.rs b)) ∧
    Runs (.blt a b imm) s (go ((s.rs a).toInt < (s.rs b).toInt)) ∧
    Runs (.bge a b imm) s (go ((s.rs b).toInt ≤ (s.rs a).toInt)) ∧
    Runs (.bltu a b imm) s (go ((s.rs a).toNat < (s.rs b).toNat)) ∧
    Runs (.bgeu a b imm) s (go ((s.rs b).toNat ≤ (s.rs a).toNat)) ∧
    Runs (.bz a imm) s (go (s.rs a = 0#64)) ∧
    Runs (.bnz a imm) s (go (s.rs a ≠ 0#64)) ∧
    Runs (.jmp d a) s (finishTo (s.setS d ret) (s.rs a).toNat) ∧
    Runs (.ret a) s (finishTo s (s.rs a).toNat) ∧
    (d ≠ 0#6 → Runs (.call d imm) s (finishTo (s.setS d ret) (target s.me.pc imm))) ∧
    (d = 0#6 → Traps (.call d imm) s { code := 0x12 })

/-- A slot of major 0x22, minor 0x01 whose fields Dst, lookahead, type, src2, src3 and [47:32] are zero decodes to
LOOP with its counter register in src1 and its displacement in imm32, and with a non-zero bit in one of them raises
the reserved-field fault. LOOP on s0 raises the illegal-operand fault; on another register it writes the counter less
1, wrapped to 64 bits, and goes to its target unless that is zero, in which case it goes on in sequence: with a
counter of 1 it ends the loop and with a counter of 0 it leaves 2^64 - 1 and continues. A line whose template pairs a
slot of major 0x22 with a neighbour fails the template check. -/
def Obligations.LoopInstruction : Prop :=
  (∀ w : BitVec 96, w.extractLsb' 80 16 = 0x2201#16 →
    (w.extractLsb' 66 14 = 0#14 → w.extractLsb' 32 28 = 0#28 →
      decode (natToBytes 12 w.toNat) = .ok (.loop (w.extractLsb' 60 6) (w.extractLsb' 0 32), [])) ∧
    (w.extractLsb' 66 14 ≠ 0#14 ∨ w.extractLsb' 32 28 ≠ 0#28 →
      decode (natToBytes 12 w.toNat) = .error .reservedField)) ∧
  (∀ (s : State) (a : SReg) (imm : BitVec 32),
    (a = 0#6 → Traps (.loop a imm) s { code := 0x12 }) ∧
    (a ≠ 0#6 → s.rs a - 1#64 ≠ 0#64 →
      Runs (.loop a imm) s (finishTo (s.setS a (s.rs a - 1#64)) (target s.me.pc imm))) ∧
    (a ≠ 0#6 → s.rs a - 1#64 = 0#64 → Runs (.loop a imm) s (finish (s.setS a 0#64))) ∧
    (a ≠ 0#6 → s.rs a = 0#64 →
      Runs (.loop a imm) s (finishTo (s.setS a (BitVec.ofNat 64 (2 ^ 64 - 1))) (target s.me.pc imm))) ∧
    (a ≠ 0#6 → ∀ n, 0 < n → n < 2 ^ 64 → s.rs a = BitVec.ofNat 64 n →
      s.me.ev = 0 → s.me.passing = false →
      ∃ t, Runs (.loop a imm) s t ∧ t.me.getS a = BitVec.ofNat 64 (n - 1) ∧
        t.me.pc = (if n = 1 then (if s.me.pc % 64 = 48 then s.me.pc / 64 * 64 + 64 else s.me.pc + 12)
          else target s.me.pc imm))) ∧
  (∀ (bs : List Byte) (k : Nat), k < 4 → bit (lineWord bs) (8 + k) = true →
    (slotMajor (slotBits bs k) = 0x22 ∨ slotMajor (slotBits bs (k + 1)) = 0x22) → templateOk bs = false)

/-- In a context that is not in a repetition and owes no floating-point message, NOP answers a next state with
c.icount one more, the program counter at the next slot (or the next line's first), the context ready, its registers,
flags and handles as before, and memory, cores and every other context as before; a taken transfer does the same with
the program counter at its target and the branch remembered for the entry checks. -/
def Obligations.EndOfInstruction : Prop :=
  ∀ (s : State) (p : Nat), s.me.ev = 0 → s.me.passing = false →
    Runs .nop s (finish s) ∧
    ∀ u, (u = finish s ∨ u = finishTo s p) →
      u.me.icount = s.me.icount + 1#64 ∧ u.me.st = .ready ∧
      u.me.sregs = s.me.sregs ∧ u.me.vregs = s.me.vregs ∧ u.me.mregs = s.me.mregs ∧ u.me.hregs = s.me.hregs ∧
      u.me.fpflags = s.me.fpflags ∧ u.me.round = s.me.round ∧ u.me.fpen = s.me.fpen ∧ u.me.mode = s.me.mode ∧
      u.mem = s.mem ∧ u.cores = s.cores ∧ u.gangs = s.gangs ∧ u.tiles = s.tiles ∧ u.dies = s.dies ∧
      (∀ k, k ≠ s.cur → u.ctx k = s.ctx k) ∧
      (u = finish s → u.me.pc = (if s.me.pc % 64 = 48 then s.me.pc / 64 * 64 + 64 else s.me.pc + 12) ∧ u.me.entry = .seq) ∧
      (u = finishTo s p → u.me.pc = p ∧ u.me.entry = .branch ∧ u.me.srcPc = some s.me.pc)

/-- With type E4M3 or an integer type every one but FCVT raises the illegal-operand fault, and FCVT does so with S4 or
U4; otherwise each answers a next state whose destination holds the result of the element operation on the low bits of
its sources under the rounding mode in force, with that operation's flags added to c.fpflags; FCMP writes 0 or 1 and
FCVT extends an integer result by its type. -/
def Obligations.ScalarFloat : Prop :=
  ∀ (s : State) (d a b c : SReg) (ty src : ElemType) (p : Pred) (rnd : Rounding) (fzi fzo sat nov : Bool),
    let k : FpCtl := { mode := modeOf s rnd, fzi := fzi, fzo := fzo }
    let x := fun (r : SReg) => (s.rs r).toNat % 2 ^ ty.width
    let fin := fun (r : Nat × Nat) => finish (raiseFlags (s.setS d (BitVec.ofNat 64 r.1)) r.2)
    ((ty = .bf16 ∨ ty = .fp16 ∨ ty = .fp32) →
      Runs (.fadd d a b ty rnd fzi fzo) s (fin (fpAdd ty k (x a) (x b))) ∧
      Runs (.fsub d a b ty rnd fzi fzo) s (fin (fpSub ty k (x a) (x b))) ∧
      Runs (.fmul d a b ty rnd fzi fzo) s (fin (fpMul ty k (x a) (x b))) ∧
      Runs (.ffma d a b c ty rnd fzi fzo) s (fin (fpFma ty k (x a) (x b) (x c))) ∧
      Runs (.fmin d a b ty rnd fzi fzo) s (fin (fpMinMax ty k false (x a) (x b))) ∧
      Runs (.fmax d a b ty rnd fzi fzo) s (fin (fpMinMax ty k true (x a) (x b))) ∧
      Runs (.fcmp d a b ty p fzi fzo) s
        (fin (if (fpCompare ty { k with mode := .rne } p (x a) (x b)).1 then 1 else 0,
          (fpCompare ty { k with mode := .rne } p (x a) (x b)).2))) ∧
    (¬(ty = .bf16 ∨ ty = .fp16 ∨ ty = .fp32) →
      Traps (.fadd d a b ty rnd fzi fzo) s { code := 0x12 } ∧ Traps (.fsub d a b ty rnd fzi fzo) s { code := 0x12 } ∧
      Traps (.fmul d a b ty rnd fzi fzo) s { code := 0x12 } ∧ Traps (.ffma d a b c ty rnd fzi fzo) s { code := 0x12 } ∧
      Traps (.fmin d a b ty rnd fzi fzo) s { code := 0x12 } ∧ Traps (.fmax d a b ty rnd fzi fzo) s { code := 0x12 } ∧
      Traps (.fcmp d a b ty p fzi fzo) s { code := 0x12 }) ∧
    (ty ≠ .s4 → ty ≠ .u4 → src ≠ .s4 → src ≠ .u4 →
      Runs (.fcvt d a ty src rnd fzi fzo sat nov) s
        (fin ((if ty.isInt then BitVec.ofInt 64 (val ty ((convertElem ty src { k with nov := nov } sat
            ((s.rs a).toNat % 2 ^ src.width)).1)) else BitVec.ofNat 64 (convertElem ty src { k with nov := nov } sat
            ((s.rs a).toNat % 2 ^ src.width)).1).toNat,
          (convertElem ty src { k with nov := nov } sat ((s.rs a).toNat % 2 ^ src.width)).2))) ∧
    ((ty = .s4 ∨ ty = .u4 ∨ src = .s4 ∨ src = .u4) → Traps (.fcvt d a ty src rnd fzi fzo sat nov) s { code := 0x12 })

/-- For each floating-point format and each rounding mode, rounding the exact value of a finite encoding to that
format gives that very encoding and sets no flag, when no flushing is asked for; the sum of x and a zero of its sign,
and the product of x and one, are x without a flag for a finite x. Whenever an addition, subtraction, multiplication,
fused multiply-add, minimum or maximum gives a NaN, the encoding is 0x7F for E4M3, 0x7FC0 for BF16, 0x7E00 for FP16
and 0x7FC0_0000 for FP32, and any operand that is a signalling NaN, the addend of a fused multiply-add too, sets the
invalid flag. -/
def Obligations.RoundingExact : Prop :=
  (∀ (ty : ElemType) (x : Nat) (n : Bool) (m : Nat) (e : Int) (mode : Rounding), ty.isFloat = true → x < 2 ^ ty.width →
     fpValue (fmtOf ty) false x = .fin n m e →
       roundFin (fmtOf ty) mode false false n m e = (x, 0) ∧
       fpAdd ty { mode := mode } x ((fmtOf ty).signBit n) = (x, 0) ∧
       fpMul ty { mode := mode } x ((fmtOf ty).bias * 2 ^ (fmtOf ty).mbits) = (x, 0)) ∧
  (∀ (ty : ElemType) (k : FpCtl) (x y z : Nat), ty.isFloat = true →
     let nan := (match ty with | .e4m3 => 0x7F | .bf16 => 0x7FC0 | .fp16 => 0x7E00 | _ => 0x7FC00000)
     let ok := fun (vs : List Nat) (r : Nat × Nat) =>
       ((fpValue (fmtOf ty) false r.1).isNan = true → r.1 = nan) ∧
       ∀ v ∈ vs, (fpValue (fmtOf ty) false v).isSnan = true → r.2.testBit 0 = true
     ok [x, y] (fpAdd ty k x y) ∧ ok [x, y] (fpSub ty k x y) ∧ ok [x, y] (fpMul ty k x y) ∧ ok [x, y, z] (fpFma ty k x y z) ∧
     ok [x, y] (fpMinMax ty k false x y) ∧ ok [x, y] (fpMinMax ty k true x y))

/-- For a finite exact value that does not overflow, the encoding that RTZ gives has a magnitude at most the exact
one, RDN gives a value at most the exact one and RUP one at least the exact one; the result is inexact exactly when it
differs from the exact value. -/
def Obligations.RoundingDirections : Prop :=
  ∀ (ty : ElemType) (n : Bool) (m : Nat) (e : Int), ty.isFloat = true →
    let f := fmtOf ty
    let le := fun (a b : Fp) => fpLess b a = false
    let r := fun (mode : Rounding) => roundFin f mode false false n m e
    (∀ mode, (r mode).2.testBit 2 = false →
      ∃ n' m' e', fpValue f false (r mode).1 = .fin n' m' e' ∧
        ((r mode).2.testBit 4 = false ↔ fpEqual (.fin n' m' e') (.fin n m e) = true)) ∧
    ((r .rtz).2.testBit 2 = false → le (absFp (fpValue f false (r .rtz).1)) (.fin false m e)) ∧
    ((r .rdn).2.testBit 2 = false → le (fpValue f false (r .rdn).1) (.fin n m e)) ∧
    ((r .rup).2.testBit 2 = false → le (.fin n m e) (fpValue f false (r .rup).1))

/-- With a type that major 0x50 takes (the integer types of up to 32 bits, BF16, FP16, FP32) each answers a next state
in which every active element is the element operation of its sources, every inactive one is kept or zeroed, and the
flags of the active elements are added; with any other type each raises the illegal-operand fault. On an integer type
an element is the exact result wrapped, or saturated to the type's range, and no flag arises. -/
def Obligations.VectorArithmetic : Prop :=
  ∀ (s : State) (ty : ElemType) (d a b c : VReg) (mask : BitVec 3) (z : Bool) (rnd : Rounding) (fzi fzo sat : Bool),
    let k : FpCtl := { mode := modeOf s rnd, fzi := fzi, fzo := fzo }
    let x := fun i => el ty (s.rv a) i
    let y := fun i => el ty (s.rv b) i
    let w := fun i => el ty (s.rv c) i
    let int := fun (r : Int) => (fit ty sat r, 0)
    let X := fun i => val ty (x i)
    let Y := fun i => val ty (y i)
    let W := fun i => val ty (w i)
    let done := fun (i : Instr) (f : Nat → Nat × Nat) => ∃ t, Runs i s t ∧ ElementWise s ty d mask z f t
    ((ty.isFloat = false ∧ ty ≠ .s64 ∧ ty ≠ .u64) →
      done (.vadd ty d a b mask z rnd fzi fzo sat) (fun i => int (X i + Y i)) ∧
      done (.vsub ty d a b mask z rnd fzi fzo sat) (fun i => int (X i - Y i)) ∧
      done (.vmul ty d a b mask z rnd fzi fzo sat) (fun i => int (X i * Y i)) ∧
      done (.vfma ty d a b c mask z rnd fzi fzo sat) (fun i => int (X i * Y i + W i)) ∧
      done (.vmin ty d a b mask z rnd fzi fzo sat) (fun i => (if X i < Y i then x i else y i, 0)) ∧
      done (.vmax ty d a b mask z rnd fzi fzo sat) (fun i => (if X i < Y i then y i else x i, 0)) ∧
      done (.vabs ty d a mask z rnd fzi fzo sat) (fun i => int (if X i < 0 then -X i else X i)) ∧
      done (.vneg ty d a mask z rnd fzi fzo sat) (fun i => int (-X i))) ∧
    ((ty = .bf16 ∨ ty = .fp16 ∨ ty = .fp32) →
      done (.vadd ty d a b mask z rnd fzi fzo sat) (fun i => fpAdd ty k (x i) (y i)) ∧
      done (.vsub ty d a b mask z rnd fzi fzo sat) (fun i => fpSub ty k (x i) (y i)) ∧
      done (.vmul ty d a b mask z rnd fzi fzo sat) (fun i => fpMul ty k (x i) (y i)) ∧
      done (.vfma ty d a b c mask z rnd fzi fzo sat) (fun i => fpFma ty k (x i) (y i) (w i)) ∧
      done (.vmin ty d a b mask z rnd fzi fzo sat) (fun i => fpMinMax ty k false (x i) (y i)) ∧
      done (.vmax ty d a b mask z rnd fzi fzo sat) (fun i => fpMinMax ty k true (x i) (y i)) ∧
      done (.vabs ty d a mask z rnd fzi fzo sat) (fun i => fpSign ty k false (x i)) ∧
      done (.vneg ty d a mask z rnd fzi fzo sat) (fun i => fpSign ty k true (x i))) ∧
    ((ty = .e4m3 ∨ ty = .s64 ∨ ty = .u64) → ∀ i ∈ [Instr.vadd ty d a b mask z rnd fzi fzo sat,
      .vsub ty d a b mask z rnd fzi fzo sat, .vmul ty d a b mask z rnd fzi fzo sat, .vfma ty d a b c mask z rnd fzi fzo sat,
      .vmin ty d a b mask z rnd fzi fzo sat, .vmax ty d a b mask z rnd fzi fzo sat, .vabs ty d a mask z rnd fzi fzo sat,
      .vneg ty d a mask z rnd fzi fzo sat], Traps i s { code := 0x12 })

/-- With a type of up to 32 bits the logic operations, and with an integer type of up to 32 bits the shifts, answer a
next state in which every active element is the operation of its sources' bits; a shift amount, from an element or
from the constant, counts modulo the width, and VSAR copies the element's top bit whatever the type's signedness;
other types raise the illegal-operand fault. -/
def Obligations.VectorLogicShifts : Prop :=
  ∀ (s : State) (ty : ElemType) (d a b : VReg) (mask : BitVec 3) (z immk : Bool) (k : BitVec 5),
    let x := fun i => el ty (s.rv a) i
    let y := fun i => el ty (s.rv b) i
    let n := fun i => (if immk then k.toNat else y i) % ty.width
    let top := fun i => if 2 * x i < 2 ^ ty.width then (x i : Int) else x i - 2 ^ ty.width
    let done := fun (i : Instr) (f : Nat → Nat) => ∃ t, Runs i s t ∧ ElementWise s ty d mask z (fun j => (f j, 0)) t
    ((ty ≠ .s64 ∧ ty ≠ .u64) →
      done (.vand ty d a b mask z) (fun i => x i &&& y i) ∧ done (.vor ty d a b mask z) (fun i => x i ||| y i) ∧
      done (.vxor ty d a b mask z) (fun i => x i ^^^ y i)) ∧
    ((ty.isFloat = false ∧ ty ≠ .s64 ∧ ty ≠ .u64) →
      done (.vshl ty d a b mask z immk k) (fun i => x i * 2 ^ n i) ∧
      done (.vshr ty d a b mask z immk k) (fun i => x i / 2 ^ n i) ∧
      done (.vsar ty d a b mask z immk k) (fun i => ((top i / 2 ^ n i) % 2 ^ ty.width).toNat)) ∧
    ((ty = .s64 ∨ ty = .u64) → ∀ i ∈ [Instr.vand ty d a b mask z, .vor ty d a b mask z, .vxor ty d a b mask z,
      .vshl ty d a b mask z immk k, .vshr ty d a b mask z immk k, .vsar ty d a b mask z immk k], Traps i s { code := 0x12 }) ∧
    (ty.isFloat = true → ∀ i ∈ [Instr.vshl ty d a b mask z immk k, .vshr ty d a b mask z immk k,
      .vsar ty d a b mask z immk k], Traps i s { code := 0x12 })

/-- VCMP writes a bit for each element of its mask register, kept or zeroed where inactive, and zeroes the bits from
the count on; VSEL chooses elements by a mask register; VMOV copies elements, or the low 1,024 bits to or from a mask
register; VMOVS moves one element, its index modulo the count, to a scalar extended by its type or from a scalar's low
bits; VBCAST repeats a scalar's low bits; VIOTA numbers the active elements from a scalar. Types of 64 bits, an
unordered predicate on integers, and VIOTA on floats raise the illegal-operand fault. -/
def Obligations.VectorMoves : Prop :=
  ∀ (s : State) (ty : ElemType) (d a b : VReg) (m mc : MReg) (r j : SReg) (p : Pred) (mask : BitVec 3) (z : Bool),
    let x := fun i => el ty (s.rv a) i
    let y := fun i => el ty (s.rv b) i
    let at' := (s.rs j).toNat % ty.count
    let rank := fun i => ((List.range i).filter fun q => active s mask q).length
    let done := fun (i : Instr) (f : Nat → Nat) => ∃ t, Runs i s t ∧ ElementWise s ty d mask z (fun q => (f q, 0)) t
    ((ty ≠ .s64 ∧ ty ≠ .u64) →
      ((ty.isFloat = true ∨ p ≠ .un) → ∃ (v : Mask) (fl : Nat),
        Runs (.vcmp ty m a b p mask z) s (finish (raiseFlags (s.setM m v) fl)) ∧
        (∀ i, i < 1024 → v.getLsbD i = (decide (i < ty.count) &&
          if active s mask i then (elCmp ty p (x i) (y i)).1 == 1 else !z && (s.rm m).getLsbD i)) ∧
        (∀ q, fl.testBit q = true ↔ ∃ i, i < ty.count ∧ active s mask i = true ∧ (elCmp ty p (x i) (y i)).2.testBit q = true)) ∧
      done (.vsel ty d a b mc mask z) (fun i => if (s.rm mc).getLsbD i then x i else y i) ∧
      done (.vmov ty d a mask z) x ∧
      Runs (.vmovsToScalar ty r a j) s (finish (s.setS r
        (if ty.isInt then BitVec.ofInt 64 (val ty (x at')) else BitVec.ofNat 64 (x at')))) ∧
      (∃ v, Runs (.vmovsToVector ty d r j) s (finish (raiseFlags (s.setV d v) 0)) ∧ ∀ i, i < ty.count → el ty v i =
        if i = at' then (s.rs r).toNat % 2 ^ ty.width else el ty (s.rv d) i) ∧
      done (.vbcast ty d r mask z) (fun _ => (s.rs r).toNat % 2 ^ ty.width) ∧
      (ty.isFloat = false → done (.viota ty d r mask z) (fun i => (s.rs r).toNat + rank i))) ∧
    Runs (.vmovToMask m a) s (finish (s.setM m (BitVec.ofNat 1024 (s.rv a).toNat))) ∧
    Runs (.vmovFromMask d m) s (finish (s.setV d (BitVec.ofNat 4096 (s.rm m).toNat))) ∧
    ((ty = .s64 ∨ ty = .u64 ∨ (ty.isFloat = false ∧ p = .un)) → Traps (.vcmp ty m a b p mask z) s { code := 0x12 }) ∧
    ((ty = .s64 ∨ ty = .u64) → ∀ i ∈ [Instr.vsel ty d a b mc mask z, .vmov ty d a mask z, .vmovsToScalar ty r a j,
      .vmovsToVector ty d r j, .vbcast ty d r mask z], Traps i s { code := 0x12 }) ∧
    ((ty = .s64 ∨ ty = .u64 ∨ ty.isFloat = true) → Traps (.viota ty d r mask z) s { code := 0x12 })

/-- Element i of a group of k registers is element i div k of register i mod k. VCVT between types of up to 32 bits
whose groups are aligned answers a next state with each active element converted; VWMUL and VWADD give exact products
and sums in a pair of the next wider type; VNARROW divides the elements of a pair by a power of two, rounds by its
mode and wraps or saturates them; inactive elements are kept or zeroed. A group that is not aligned, and a VCVT
between types whose widths differ eightfold or of 64 bits, raises the illegal-operand fault. For a shift of n bits,
mode 0 gives the integer below or at x / 2^n, mode 1 the nearest integer with a tie going up, and mode 2 the nearest
integer with a tie going to the even one. -/
def Obligations.VectorWidths : Prop :=
  (∀ (s : State) (ty src : ElemType) (d a b : VReg) (mask : BitVec 3) (z : Bool) (rnd : Rounding) (fzi fzo sat nov : Bool)
    (sh : BitVec 5) (mode : BitVec 2),
    let k : FpCtl := { mode := modeOf s rnd, fzi := fzi, fzo := fzo }
    let of := fun (t : ElemType) (g : Nat) (r : VReg) (s : State) (i : Nat) => el t (s.rv (r + BitVec.ofNat 5 (i % g))) (i / g)
    let done := fun (i : Instr) (t : ElemType) (n g : Nat) (f : Nat → Nat × Nat) => ∃ (u : State) (fl : Nat),
      Runs i s (finish (raiseFlags u fl)) ∧
      (∀ i, i < n → of t g d u i = if active s mask i then (f i).1 % 2 ^ t.width else if z then 0 else of t g d s i) ∧
      (∀ r, (∀ j, j < g → r ≠ d + BitVec.ofNat 5 j) → u.rv r = s.rv r) ∧ u.mem = s.mem ∧ u.me.sregs = s.me.sregs ∧
      (∀ q, fl.testBit q = true ↔ ∃ i, i < n ∧ active s mask i = true ∧ (f i).2.testBit q = true)
    let small := fun (t : ElemType) => t ≠ .s64 ∧ t ≠ .u64
    let n := max ty.count src.count
    (small ty → small src → n * ty.width ≤ 4 * 4096 → n * src.width ≤ 4 * 4096 →
      d.toNat % (n * ty.width / 4096) = 0 → a.toNat % (n * src.width / 4096) = 0 →
      done (.vcvt ty d a src mask z rnd fzi fzo sat nov) ty n (n * ty.width / 4096)
        (fun i => convertElem ty src { k with nov := nov } sat (of src (n * src.width / 4096) a s i))) ∧
    (small ty → small src → (d.toNat % (n * ty.width / 4096) ≠ 0 ∨ a.toNat % (n * src.width / 4096) ≠ 0 ∨
        4 * 4096 < n * ty.width ∨ 4 * 4096 < n * src.width) →
      Traps (.vcvt ty d a src mask z rnd fzi fzo sat nov) s { code := 0x12 }) ∧
    (¬small ty ∨ ¬small src → Traps (.vcvt ty d a src mask z rnd fzi fzo sat nov) s { code := 0x12 }) ∧
    (∀ w, wideOf ty = some w → d.toNat % 2 = 0 →
      done (.vwmul ty d a b mask z rnd fzi fzo) w ty.count 2 (fun i =>
        if ty.isFloat then roundOut w k (mulFp (fpIn ty k (el ty (s.rv a) i)) (fpIn ty k (el ty (s.rv b) i)))
        else (fit w false (val ty (el ty (s.rv a) i) * val ty (el ty (s.rv b) i)), 0)) ∧
      done (.vwadd ty d a b mask z rnd fzi fzo) w ty.count 2 (fun i =>
        if ty.isFloat then roundOut w k (addFp k.mode (fpIn ty k (el ty (s.rv a) i)) (fpIn ty k (el ty (s.rv b) i)))
        else (fit w false (val ty (el ty (s.rv a) i) + val ty (el ty (s.rv b) i)), 0))) ∧
    (∀ w, ty.isFloat = false → wideOf ty = some w → a.toNat % 2 = 0 → sh.toNat < w.width →
      ∃ t, Runs (.vnarrow ty d a sh mode mask z sat) s t ∧ ElementWise s ty d mask z
        (fun i => (fit ty sat (narrowShift mode.toNat sh.toNat (val w (of w 2 a s i))), 0)) t) ∧
    (d.toNat % 2 = 1 → Traps (.vwmul ty d a b mask z rnd fzi fzo) s { code := 0x12 } ∧
      Traps (.vwadd ty d a b mask z rnd fzi fzo) s { code := 0x12 }) ∧
    (a.toNat % 2 = 1 → Traps (.vnarrow ty d a sh mode mask z sat) s { code := 0x12 })) ∧
  (∀ (n : Nat) (x : Int),
    (let q := narrowShift 0 n x; q * 2 ^ n ≤ x ∧ x < (q + 1) * 2 ^ n) ∧
    (let q := narrowShift 1 n x; 2 * q * 2 ^ n - 2 ^ n ≤ 2 * x ∧ 2 * x < 2 * q * 2 ^ n + 2 ^ n) ∧
    (let q := narrowShift 2 n x; 2 * q * 2 ^ n - 2 ^ n ≤ 2 * x ∧ 2 * x ≤ 2 * q * 2 ^ n + 2 ^ n ∧
      (2 * x = 2 * q * 2 ^ n - 2 ^ n ∨ 2 * x = 2 * q * 2 ^ n + 2 ^ n → q % 2 = 0)))

/-- VDOT of integers gives the exact sum of the products of its first s[src3] elements, wrapped or saturated to 64
bits, and of floats the ordered tree of the exact products in FP32, with the tree's flags and invalid where a product
is. VRED gives the sum of the active elements, exact for integers and the ordered tree with inactive terms absent for
floats; their minimum or maximum, from the type's bound or infinity where none is active; or their AND, OR or XOR,
extended by the type; with the flags of its steps. VSCAN gives at each active element the reduction of the initial
scalar with the active elements up to it, or before it, and the flags of every step. Each answers a next state, by a
lookahead window if it has one; a length above the count and an operation that the type does not take raise the
illegal-operand fault. -/
def Obligations.VectorReductions : Prop :=
  ∀ (s : State) (la : BitVec 4) (ty : ElemType) (r n : SReg) (d a b : VReg) (op mask : BitVec 3) (z : Bool) (rnd : Rounding)
    (fzi fzo sat excl : Bool),
    let k : FpCtl := { mode := modeOf s rnd, fzi := fzi, fzo := fzo }
    let x := fun i => el ty (s.rv a) i
    let y := fun i => el ty (s.rv b) i
    let on := (List.range ty.count).filter fun i => active s mask i
    let sum := fun (l : List Int) => BitVec.ofInt 64 (if sat then
      (if ty.signed then clamp (-(2 ^ 63)) (2 ^ 63 - 1) l.sum else clamp 0 (2 ^ 64 - 1) l.sum) else l.sum)
    let small := ty ≠ .s64 ∧ ty ≠ .u64
    let opOk := op = 0#3 ∨ ty.isFloat = false ∨ ((op = 1#3 ∨ op = 2#3) ∧ ty ≠ .e4m3)
    let step := fun (p q : Nat) =>
      if op = 0#3 then (if ty.isFloat then fpAdd ty k p q else (fit ty sat (val ty p + val ty q), 0))
      else if op = 1#3 then (if ty.isFloat then fpMinMax ty k false p q else (if val ty p < val ty q then p else q, 0))
      else if op = 2#3 then (if ty.isFloat then fpMinMax ty k true p q else (if val ty p < val ty q then q else p, 0))
      else (if op = 3#3 then p &&& q else if op = 4#3 then p ||| q else p ^^^ q, 0)
    let products := (List.range (s.rs n).toNat).map fun i => mulFp (fpIn ty k (x i)) (fpIn ty k (y i))
    let dot := orderedTree k (products.map fun p => some p.1)
    let red := if op = 0#3 then
        orderedTree k ((List.range ty.count).map fun i => if active s mask i then some (fpIn ty k (x i)) else none)
      else (on.map x).foldl (fun p q => ((step p.1 q).1, p.2 ||| (step p.1 q).2)) ((fmtOf ty).inf (op = 2#3), 0)
    let before := fun (i : Nat) => (((List.range i).filter fun q => active s mask q).map x).foldl
      (fun p q => (step p q).1) ((s.rs n).toNat % 2 ^ ty.width)
    (small → (s.rs n).toNat ≤ ty.count →
      (ty.isFloat = false → ∃ t, Runs (.vdot la ty r a b n rnd fzi fzo sat) s t ∧
        afterLongS s la r (sum ((List.range (s.rs n).toNat).map fun i => val ty (x i) * val ty (y i))) t) ∧
      (ty.isFloat = true → ∃ fl, Runs (.vdot la ty r a b n rnd fzi fzo sat) s
          (finishLong s la [.s r, .fpflags] [.s r (BitVec.ofNat 64 dot.1), .fpflags fl]) ∧
        ∀ q, fl.testBit q = true ↔ dot.2.testBit q = true ∨ (q = 0 ∧ ∃ p ∈ products, p.2 = true))) ∧
    (ty.count < (s.rs n).toNat → Traps (.vdot la ty r a b n rnd fzi fzo sat) s { code := 0x12 }) ∧
    (small → ty.isFloat = false →
      ∃ v t, Runs (.vred la ty r a op mask rnd fzi fzo sat) s t ∧ afterLongS s la r v t ∧
        (op = 0#3 → v = sum (on.map fun i => val ty (x i))) ∧
        (op = 1#3 → v.toInt = (on.map fun i => val ty (x i)).foldl min (hi ty)) ∧
        (op = 2#3 → v.toInt = (on.map fun i => val ty (x i)).foldl max (lo ty)) ∧
        (3 ≤ op.toNat → v = extend ty ((on.map x).foldl (fun p q => (step p q).1)
          (if op = 3#3 then 2 ^ ty.width - 1 else 0)))) ∧
    (small → ty.isFloat = true → opOk → Runs (.vred la ty r a op mask rnd fzi fzo sat) s
      (finishLong s la [.s r, .fpflags] [.s r (BitVec.ofNat 64 (if op = 0#3 then red.1 else red.1 % 2 ^ ty.width)),
        .fpflags red.2])) ∧
    (small → opOk → ty ≠ .e4m3 → ∃ t f, Runs (.vscan la ty d a n op mask z rnd fzi fzo sat excl) s t ∧
      LongElementWise s la ty.isFloat ty d mask z f t ∧
      ∀ i, i < ty.count → active s mask i = true → (f i).1 = (if excl then before i else (step (before i) (x i)).1) ∧
        (f i).2 = (step (before i) (x i)).2) ∧
    (¬small ∨ ¬opOk → Traps (.vred la ty r a op mask rnd fzi fzo sat) s { code := 0x12 } ∧
      Traps (.vscan la ty d a n op mask z rnd fzi fzo sat excl) s { code := 0x12 })

/-- VPERM takes for each active element the source element that the index element names, modulo the count, with 16-bit
indices from a pair for 8-bit types; VROT takes the element a signed scalar further on, modulo the count; VCOMPR packs
the active elements to the bottom and keeps or zeroes the rest; VEXPAND gives the active elements in turn the source
elements from the bottom. Types of 64 bits, VPERM of 4-bit types and an odd index pair raise the illegal-operand
fault. -/
def Obligations.VectorPermutes : Prop :=
  ∀ (s : State) (ty : ElemType) (d a b : VReg) (r : SReg) (mask : BitVec 3) (z : Bool),
    let x := fun i => el ty (s.rv a) i
    let rank := fun i => ((List.range i).filter fun q => active s mask q).length
    let total := rank ty.count
    let done := fun (i : Instr) (f : Nat → Nat) => ∃ t, Runs i s t ∧ ElementWise s ty d mask z (fun q => (f q, 0)) t
    let small := ty ≠ .s64 ∧ ty ≠ .u64
    (small → ty.width ≠ 4 → (ty.width = 8 → b.toNat % 2 = 0) → done (.vperm ty d a b mask z) (fun i => x
      ((if ty.width = 8 then el .u16 (s.rv (if i < 256 then b else b + 1#5)) (i % 256) else el ty (s.rv b) i) % ty.count))) ∧
    (small → done (.vrot ty d a r mask z) (fun i => x (((i : Int) + (s.rs r).toInt) % (ty.count : Int)).toNat)) ∧
    (small → ∃ v, Runs (.vcompr ty d a mask z) s (finish (raiseFlags (s.setV d v) 0)) ∧
      (∀ i, i < ty.count → active s mask i = true → el ty v (rank i) = x i) ∧
      (∀ i, total ≤ i → i < ty.count → el ty v i = if z then 0 else el ty (s.rv d) i)) ∧
    (small → done (.vexpand ty d a mask z) (fun i => x (rank i))) ∧
    (¬small → ∀ i ∈ [Instr.vperm ty d a b mask z, .vrot ty d a r mask z, .vcompr ty d a mask z, .vexpand ty d a mask z],
      Traps i s { code := 0x12 }) ∧
    ((ty.width = 4 ∨ (ty.width = 8 ∧ b.toNat % 2 = 1)) → Traps (.vperm ty d a b mask z) s { code := 0x12 })

/-- VEXP2, VEXP, VLOG2, VLOG, VRCP, VRSQ, VSQRT and VTANH of BF16, FP16 or FP32 answer a next state with one result
for each active element; a zero, an infinity, a NaN, signalling or quiet, and a negative operand of a logarithm or
root give what the table says, with its divide-by-zero or invalid flag, and a subnormal operand whose inputs are
flushed what the zero of its sign gives. Elsewhere the result is a free value within the rule's bound, which no clause
here names (log entry 13). -/
def Obligations.SpecialFunctions : Prop :=
  ∀ (s : State) (la : BitVec 4) (ty : ElemType) (d a : VReg) (mask : BitVec 3) (z fzi fzo : Bool),
    (ty = .bf16 ∨ ty = .fp16 ∨ ty = .fp32) →
    let f := fmtOf ty
    let one := f.bias * 2 ^ f.mbits
    let k : FpCtl := { fzi := fzi, fzo := fzo }
    let done := fun (i : Instr) (g : Nat → Nat × Nat) => ∃ t, Runs i s t ∧
      LongElementWise s la true ty d mask z (fun j => g (el ty (s.rv a) j)) t
    done (.vexp2 la ty d a mask z fzi fzo) (specialElem .exp2 ty k) ∧
    done (.vexp la ty d a mask z fzi fzo) (specialElem .exp ty k) ∧
    done (.vlog2 la ty d a mask z fzi fzo) (specialElem .log2 ty k) ∧
    done (.vlog la ty d a mask z fzi fzo) (specialElem .log ty k) ∧
    done (.vrcp la ty d a mask z fzi fzo) (specialElem .rcp ty k) ∧
    done (.vrsq la ty d a mask z fzi fzo) (specialElem .rsq ty k) ∧
    done (.vsqrt la ty d a mask z fzi fzo) (specialElem .sqrt ty k) ∧
    done (.vtanh la ty d a mask z fzi fzo) (specialElem .tanh ty k) ∧
    (∀ n : Bool, specialElem .exp2 ty k (f.signBit n) = (one, 0) ∧ specialElem .exp ty k (f.signBit n) = (one, 0) ∧
      specialElem .log2 ty k (f.signBit n) = (f.inf true, 2) ∧ specialElem .log ty k (f.signBit n) = (f.inf true, 2) ∧
      specialElem .rcp ty k (f.signBit n) = (f.inf n, 2) ∧ specialElem .rsq ty k (f.signBit n) = (f.inf n, 2) ∧
      specialElem .sqrt ty k (f.signBit n) = (f.signBit n, 0) ∧ specialElem .tanh ty k (f.signBit n) = (f.signBit n, 0) ∧
      specialElem .exp2 ty k (f.inf n) = (if n then 0 else f.inf false, 0) ∧
      specialElem .exp ty k (f.inf n) = (if n then 0 else f.inf false, 0) ∧
      specialElem .log2 ty k (f.inf n) = (if n then (f.nan, 1) else (f.inf false, 0)) ∧
      specialElem .log ty k (f.inf n) = (if n then (f.nan, 1) else (f.inf false, 0)) ∧
      specialElem .rcp ty k (f.inf n) = (f.signBit n, 0) ∧ specialElem .rsq ty k (f.inf n) = (if n then (f.nan, 1) else (0, 0)) ∧
      specialElem .sqrt ty k (f.inf n) = (if n then (f.nan, 1) else (f.inf false, 0)) ∧
      specialElem .tanh ty k (f.inf n) = (f.signBit n + one, 0)) ∧
    (∀ g x signalling, fpValue f false x = .nan signalling → specialElem g ty k x = (f.nan, if signalling then 1 else 0)) ∧
    (fzi = true → ∀ g x, x % 2 ^ (f.width - 1) < 2 ^ f.mbits →
      specialElem g ty k x = specialElem g ty k (f.signBit (x.testBit (f.width - 1)))) ∧
    (∀ x m e, fpValue f false x = .fin true m e → m ≠ 0 → fzi = false →
      specialElem .log2 ty k x = (f.nan, 1) ∧ specialElem .log ty k x = (f.nan, 1) ∧
      specialElem .rsq ty k x = (f.nan, 1) ∧ specialElem .sqrt ty k x = (f.nan, 1))

/-- With well-formed operands of the instruction's kind and a type that it takes, each answers a next state with its
result in its destination: the active elements inserted in element order, the merge, the quantile, the rank, the j-th
entry of the canonical order, the estimate, or the coin set; an operand that is not well formed raises the
illegal-operand fault with no effect. The merge of two distinct-count arrays holds in each register the larger of both
and is the same in either order, and inserting a key again changes only the count of insertions; inserting a key into
a heavy-hitter list whose counted keys are distinct, with zero keys where the count is zero, leaves such a list of 63
entries; a coin that is not fast is bit 31 of COIN times 0x2C9277B5 plus 1, which becomes COIN, and a fast one sets
FAST. -/
def Obligations.SummaryInstructions : Prop :=
  (∀ (s : State) (la : BitVec 4) (ty : ElemType) (d a b : VReg) (r q : SReg) (mask : BitVec 3),
    let D := (s.rv d).toNat
    let A := (s.rv a).toNat
    let B := (s.rv b).toNat
    let arg := (s.rs q).toNat % 2 ^ 32
    let on := ((List.range ty.count).filter fun i => active s mask i).map fun i => el ty (s.rv a) i
    let keys := ty = .s32 ∨ ty = .u32 ∨ ty = .fp32
    let put := fun (x : Nat) => finish (s.setV d (BitVec.ofNat 4096 x))
    let drawn := fun (n : Nat) => { s with free := n }
    let coin : Coin := { fast := s.me.mode.getLsbD 1, drawn := s.free }
    (ty.isFloat = true → sketchOk D = true → ∃ x n fl, Runs (.sqins ty d a mask) s
      (finish (raiseFlags { s.setV d (BitVec.ofNat 4096 x) with free := n } fl)) ∧
      (on.all (fun e => !(isNan32 (convertElem .fp32 ty {} false e).1)) = true →
        fl = 0 ∧ ∃ c, on.foldl (fun (p : Sketch × Coin) e => insertSketch p.2 p.1 (convertElem .fp32 ty {} false e).1)
          (Sketch.ofBits D, coin) = c ∧ x = c.1.bits ∧ n = c.2.drawn)) ∧
    (keys → hittersOk D = true → Runs (.shins ty d a mask) s (put (on.foldl insertHitter (Hitters.ofBits D)).bits)) ∧
    (keys → distinctOk D = true → Runs (.sdins ty d a mask) s (put (on.foldl insertDistinct (Distinct.ofBits D)).bits)) ∧
    (sketchOk A = true → sketchOk B = true → ∃ p, mergeSketch coin (Sketch.ofBits A) (Sketch.ofBits B) = p ∧
      Runs (.smerge la d a b 0) s (finishLong (drawn p.2.drawn) la [.v d] [.v d (BitVec.ofNat 4096 p.1.bits)])) ∧
    (hittersOk A = true → hittersOk B = true → Runs (.smerge la d a b 1) s (finishLong s la [.v d]
      [.v d (BitVec.ofNat 4096 (mergeHitters (Hitters.ofBits A) (Hitters.ofBits B)).bits)])) ∧
    (distinctOk A = true → distinctOk B = true → Runs (.smerge la d a b 2) s (finishLong s la [.v d]
      [.v d (BitVec.ofNat 4096 (mergeDistinct (Distinct.ofBits A) (Distinct.ofBits B)).bits)])) ∧
    (sketchOk A = true →
      Runs (.sqq la r a q) s (finishLong s la [.s r, .fpflags]
        [.s r (BitVec.ofNat 64 (quantile (Sketch.ofBits A) arg).1), .fpflags (quantile (Sketch.ofBits A) arg).2]) ∧
      Runs (.sqrank la r a q) s (finishLong s la [.s r, .fpflags]
        [.s r (BitVec.ofNat 64 (rankOf (Sketch.ofBits A) arg).1), .fpflags (rankOf (Sketch.ofBits A) arg).2])) ∧
    (hittersOk A = true → Runs (.shtop r a q) s (finish (s.setS r (BitVec.ofNat 64
      (let e := (canonical (Hitters.ofBits A).entries).getD (s.rs q).toNat (0, 0); e.1 + e.2 * 2 ^ 32))))) ∧
    (distinctOk A = true → Runs (.sdest r a) s (finish (s.setS r (BitVec.ofNat 64 (estimate (Distinct.ofBits A)))))) ∧
    Runs (.scoin d q true) s (put ({ coin := arg } : Sketch).bits) ∧
    (sketchOk D = true → ∃ v, Runs (.scoin d q false) s (finish (s.setV d v)) ∧
      ∀ i, i < 4096 → v.getLsbD i = if 160 ≤ i ∧ i < 192 then (s.rs q).getLsbD (i - 160) else (s.rv d).getLsbD i) ∧
    (sketchOk D = false → Traps (.sqins ty d a mask) s { code := 0x12 } ∧ Traps (.scoin d q false) s { code := 0x12 }) ∧
    (hittersOk D = false → Traps (.shins ty d a mask) s { code := 0x12 }) ∧
    (distinctOk D = false → Traps (.sdins ty d a mask) s { code := 0x12 }) ∧
    (sketchOk A = false → Traps (.sqq la r a q) s { code := 0x12 } ∧ Traps (.sqrank la r a q) s { code := 0x12 } ∧
      Traps (.smerge la d a b 0) s { code := 0x12 }) ∧
    (hittersOk A = false → Traps (.shtop r a q) s { code := 0x12 } ∧ Traps (.smerge la d a b 1) s { code := 0x12 }) ∧
    (distinctOk A = false → Traps (.sdest r a) s { code := 0x12 } ∧ Traps (.smerge la d a b 2) s { code := 0x12 })) ∧
  ((∀ a b : Distinct, a.regs.length = 640 → b.regs.length = 640 →
    mergeDistinct a b = mergeDistinct b a ∧
    ∀ j, j < 640 → (mergeDistinct a b).regs.getD j 0 = max (a.regs.getD j 0) (b.regs.getD j 0)) ∧
  (∀ (d : Distinct) (key : Nat), (insertDistinct (insertDistinct d key) key).regs = (insertDistinct d key).regs) ∧
  (∀ (h : Hitters) (key : Nat), h.entries.length = 63 →
    h.entries.all (fun e => e.2 != 0 || e.1 == 0) = true → keysDistinct h.entries = true →
    (insertHitter h key).entries.length = 63 ∧
    (insertHitter h key).entries.all (fun e => e.2 != 0 || e.1 == 0) = true ∧
    keysDistinct (insertHitter h key).entries = true) ∧
  (∀ (c : Coin) (q : Sketch), c.fast = false → flip c q =
    ((q.coin * 0x2C9277B5 + 1) % 2 ^ 32 / 2 ^ 31, { q with coin := (q.coin * 0x2C9277B5 + 1) % 2 ^ 32 }, c)) ∧
  (∀ (c : Coin) (q : Sketch), c.fast = true → (flip c q).2.1 = { q with fast := true } ∧ (flip c q).1 < 2))

/-- For a scalar type of 1, 2, 4 or 8 bytes and an address whose bytes lie in one sector of a vault that serves the
context, with nothing of an earlier access under way: LD of any request type with an order that does not acquire
answers a next state with the published bytes, extended by the type, in its destination, and memory as before; ST that
does not release answers a next state in which exactly its bytes hold the register's low bytes, no register has
changed, and its store, unless UNC, is the one open race record. For a type of 8, 16 or 32 bits and a 64-byte-aligned
address whose 512 bytes lie in a vault that serves the context, with nothing of an earlier access under way, STV of
any request type answers a next state in which each active element's bytes hold that element and every other byte of
memory reads as before; and no register has changed. -/
def Obligations.VaultScalarAccess : Prop :=
  (∀ (s : State) (la : BitVec 4) (ty : ElemType) (d base data : SReg) (imm : BitVec 32) (req : ReqType) (scope : Scope)
    (ord : Order) (a : Nat),
    let va := (s.rs base + immVal imm).toNat
    let n := sizeOf' ty
    Quiet s → InVault s va n a →
    (¬acquires ord → Runs (.ld la ty d base imm req scope ord) s
      (finishLong s la [.s d] [.s d (extend ty (bytesToNat (s.mem.readN a n)))])) ∧
    (¬releases ord → ∃ t, Runs (.st ty base data imm req scope ord) s t ∧
      StoredOnly s t a (natToBytes n (s.rs data).toNat) ∧
      (req ≠ .unc → t.races =
        [{ sector := a / 64, ctx := s.cur, opn := (2 ^ n - 1) * 2 ^ (a % 64), closed := 0, scope := .thr }]) ∧
      (req = .unc → t.races = []))) ∧
  (∀ (s : State) (ty : ElemType) (base : SReg) (data : VReg) (imm : BitVec 32) (mask : BitVec 3) (req : ReqType) (a : Nat),
    let va := (s.rs base + immVal imm).toNat
    let n := ty.width / 8
    (ty.width = 8 ∨ ty.width = 16 ∨ ty.width = 32) → va % 64 = 0 → Quiet s → InVault s va 64 a →
    a % 2 ^ 24 + 512 ≤ 0xC00000 →
    ∃ t, Runs (.stv ty base data imm mask req) s t ∧
      (∀ i, i < ty.count → active s mask i = true → t.mem.readN (a + i * n) n = natToBytes n (el ty (s.rv data) i)) ∧
      (∀ b, (∀ i, i < ty.count → active s mask i = true → ¬(a + i * n ≤ b ∧ b < a + i * n + n)) →
        t.mem.read b = s.mem.read b) ∧
      t.me.sregs = s.me.sregs ∧ t.me.vregs = s.me.vregs ∧ t.me.mregs = s.me.mregs ∧ t.me.fpflags = s.me.fpflags)

/-- For a supervisor context that does not translate, an address whose bytes lie in one sector of DRAM that serves it,
empty L1 and L2 caches and nothing under way: LD.OWN with an order that does not acquire answers a next state whose
destination holds the published bytes extended by the type, with memory as before, and ST.OWN that does not release
one in which exactly its bytes hold the register's low bytes and no register has changed. That the bytes of an owned
copy stand in memory at once is the model's choice of log entry 12: a copy equals its home, and its bytes are stored
once. -/
def Obligations.DramScalarAccess : Prop :=
  ∀ (s : State) (ty : ElemType) (d base data : SReg) (imm : BitVec 32) (scope : Scope) (ord : Order) (a : Nat),
    let va := (s.rs base + immVal imm).toNat
    let n := sizeOf' ty
    Quiet s → InDram s va n a →
    (¬acquires ord → ∃ u : State, Runs (.ld 0 ty d base imm .own scope ord) s
        (finish (u.setS d (extend ty (bytesToNat (s.mem.readN a n))))) ∧ u.mem = s.mem ∧ u.ctxs = s.ctxs ∧ u.cur = s.cur) ∧
    (¬releases ord → ∃ t, Runs (.st ty base data imm .own scope ord) s t ∧
      StoredOnly s t a (natToBytes n (s.rs data).toNat))

/-- For an aligned location of 4 or 8 bytes in a vault that serves the context, with nothing under way, each of
AMO.ADD, MIN, MAX, AND, OR, XOR and SWAP and CAS with a relaxed order answers a next state whose destination holds the
old value extended by the type, with exactly the location's bytes changed to the update, CAS leaving them where the
comparison fails; AMAXF does so on 8 bytes with the cell's rule; an unaligned address or another type raises the
illegal-operand fault. That the old value is extended by the type and that a CAS that fails stores nothing is log
entry 20, that AMAXF takes no type but FP32 log entry 30, read by inference. -/
def Obligations.VaultAtomics : Prop :=
  ∀ (s : State) (ty : ElemType) (d base b c : SReg) (imm : BitVec 32) (req : ReqType) (scope : Scope) (nskip : Bool) (a : Nat),
    let va := (s.rs base + immVal imm).toNat
    let n := sizeOf' ty
    let old := bytesToNat (s.mem.readN a n)
    let B := (s.rs b).toNat % 2 ^ ty.width
    let C := (s.rs c).toNat % 2 ^ ty.width
    let done := fun (i : Instr) (new : Nat) => ∃ u : State, Runs i s (finish (u.setS d (extend ty old))) ∧
      StoredOnly s u a (natToBytes n new) ∧ u.cur = s.cur
    ((ty = .s32 ∨ ty = .u32 ∨ ty = .s64 ∨ ty = .u64) → va % n = 0 → Quiet s → InVault s va n a →
      done (.amoAdd 0 ty d base b imm req scope .rlx) ((old + B) % 2 ^ ty.width) ∧
      done (.amoMin 0 ty d base b imm req scope .rlx) (if val ty old ≤ val ty B then old else B) ∧
      done (.amoMax 0 ty d base b imm req scope .rlx) (if val ty old ≤ val ty B then B else old) ∧
      done (.amoAnd 0 ty d base b imm req scope .rlx) (old &&& B) ∧
      done (.amoOr 0 ty d base b imm req scope .rlx) (old ||| B) ∧
      done (.amoXor 0 ty d base b imm req scope .rlx) (old ^^^ B) ∧
      done (.amoSwap 0 ty d base b imm req scope .rlx) B ∧
      done (.cas 0 ty d base b c imm req scope .rlx) (if old = B then C else old)) ∧
    (va % 8 = 0 → Quiet s → InVault s va 8 a → ∃ u : State,
      Runs (.amaxf 0 .fp32 d base b imm req scope .rlx nskip) s
        (finish (u.setS d (BitVec.ofNat 64 (bytesToNat (s.mem.readN a 8))))) ∧
      StoredOnly s u a (natToBytes 8 (absmaxCell (bytesToNat (s.mem.readN a 8)) ((s.rs b).toNat % 2 ^ 32) nskip)) ∧
      u.cur = s.cur) ∧
    (¬(ty = .s32 ∨ ty = .u32 ∨ ty = .s64 ∨ ty = .u64) ∨ va % n ≠ 0 → ∀ i ∈ [Instr.amoAdd 0 ty d base b imm req scope .rlx,
      .amoMin 0 ty d base b imm req scope .rlx, .amoMax 0 ty d base b imm req scope .rlx,
      .amoAnd 0 ty d base b imm req scope .rlx, .amoOr 0 ty d base b imm req scope .rlx,
      .amoXor 0 ty d base b imm req scope .rlx, .amoSwap 0 ty d base b imm req scope .rlx,
      .cas 0 ty d base b c imm req scope .rlx], Traps i s { code := 0x12 }) ∧
    ((ty ≠ .fp32 ∨ va % 8 ≠ 0) → Traps (.amaxf 0 ty d base b imm req scope .rlx nskip) s { code := 0x12 })

/-- When the elements of a load, at the addresses that its rule gives its active elements, pass the checks and are
read (loadElems answers their bytes), the load answers a next state: the scalar extended by its type, or a vector
register with each active element in its place and the others kept or zeroed; an acquiring LD also acquires. LDVS with
a stride of zero reads the element once. A type, an alignment or an extent outside the rule raises the illegal-operand
fault. -/
def Obligations.LoadsComplete : Prop :=
  ∀ (s s1 s2 : State) (la : BitVec 4) (ty : ElemType) (r base k : SReg) (d idx : VReg) (imm : BitVec 32) (mask : BitVec 3)
    (z : Bool) (req : ReqType) (scope : Scope) (ord : Order) (bss : List (List Byte)),
    let va := (s.rs base + immVal imm).toNat
    let es := fun (on : List Nat) (f : Nat → Nat) => on.map fun i => ({ idx := i, va := f i, n := accBytes ty } : Elem)
    let w := Wake.remote d.toNat true ty.code.toNat
    let stride := fun i => (s.rs base + immVal imm + BitVec.ofNat 64 i * s.rs k).toNat
    let strided := ty ≠ .s64 ∧ ty ≠ .u64 ∧ ty.width ≠ 4 ∧ va % (ty.width / 8) = 0 ∧ (s.rs k).toNat % (ty.width / 8) = 0
    let done := fun (i : Instr) (u : State) (on : List Nat) =>
      ∃ v, Runs i s (finishLong u la [.v d] [.v d v]) ∧ LoadedAs s ty d z on bss v
    (0 < sizeOf' ty → loadElems mmioOps s s.cur req [{ idx := 0, va := va, n := sizeOf' ty }]
        (.remote r.toNat false ty.code.toNat) = .ok (bss, s1) →
      (¬acquires ord → Runs (.ld la ty r base imm req scope ord) s
        (finishLong s1 la [.s r] [.s r (extendElem ty (bytesToNat bss.flatten))])) ∧
      (acquires ord → acquire s1 scope = .ok s2 → Runs (.ld la ty r base imm req scope ord) s
        (finishLong s2 la [.s r] [.s r (extendElem ty (bytesToNat bss.flatten))]))) ∧
    (contigAligned ty va → loadElems mmioOps s s.cur req (es (onElems s ty mask) (elemAddr ty va)) w = .ok (bss, s1) →
      done (.ldv la ty d base imm mask z req) s1 (onElems s ty mask)) ∧
    (strided → s.rs k ≠ 0#64 → loadElems mmioOps s s.cur req (es (onElems s ty mask) stride) w = .ok (bss, s1) →
      done (.ldvs la ty d base k imm mask z req) s1 (onElems s ty mask)) ∧
    (strided → s.rs k = 0#64 → loadElems mmioOps s s.cur req (es ((onElems s ty mask).take 1) stride) w = .ok (bss, s1) →
      ∃ v, Runs (.ldvs la ty d base k imm mask z req) s (finishLong s1 la [.v d] [.v d v]) ∧
        ∀ i, i < ty.count → el ty v i = if active s mask i then bytesToNat bss.flatten % 2 ^ ty.width
          else if z then 0 else el ty (s.rv d) i) ∧
    (laneOk ty va (s.rs k) →
      loadElems mmioOps s s.cur req (es (onLanes s mask) (laneAt ty va (s.rv idx) (s.rs k))) w = .ok (bss, s1) →
      done (.gath la ty d base idx k imm mask z req) s1 (onLanes s mask)) ∧
    (contigAligned ty va → wholeTile s ty (actives s ty mask) va .load = .ok s2 →
      loadElems mmioOps s2 s.cur .own (es (onElems s ty mask) (elemAddr ty va)) w = .ok (bss, s1) →
      done (.ldt la ty d base imm mask z) s1 (onElems s ty mask)) ∧
    (sizeOf' ty = 0 → Traps (.ld la ty r base imm req scope ord) s { code := 0x12 }) ∧
    (¬contigAligned ty va → Traps (.ldv la ty d base imm mask z req) s { code := 0x12 } ∧
      Traps (.ldt la ty d base imm mask z) s { code := 0x12 }) ∧
    (¬strided → Traps (.ldvs la ty d base k imm mask z req) s { code := 0x12 }) ∧
    (¬laneOk ty va (s.rs k) → Traps (.gath la ty d base idx k imm mask z req) s { code := 0x12 })

/-- When the elements of a store, at the addresses that its rule gives its active elements, pass the checks and are
stored (storeElems answers a state), with for 4-bit elements the other half of each byte kept, the store answers a
next state that differs from that one by the end of the instruction alone; a releasing ST releases first. SCAT_ACC
whose lanes pass the checks of atomics, are found at their homes and have nothing to wait for performs its adds in
lane order. A type, an alignment or an extent outside the rule raises the illegal-operand fault. -/
def Obligations.StoresComplete : Prop :=
  ∀ (s s1 s2 s3 : State) (ty : ElemType) (base data k : SReg) (v idx : VReg) (imm : BitVec 32) (mask : BitVec 3) (req : ReqType)
    (scope : Scope) (ord : Order) (rnd : Rounding) (fzi fzo : Bool) (pss : List (List Part)) (fl : Nat),
    let va := (s.rs base + immVal imm).toNat
    let n := accBytes ty
    let es := fun (on : List Nat) (f : Nat → Nat) =>
      on.map fun i => (({ idx := i, va := f i, n := n } : Elem), natToBytes n (el ty (s.rv v) i))
    let stride := fun i => (s.rs base + immVal imm + BitVec.ofNat 64 i * s.rs k).toNat
    let strided := ty ≠ .s64 ∧ ty ≠ .u64 ∧ ty.width ≠ 4 ∧ va % (ty.width / 8) = 0 ∧ (s.rs k).toNat % (ty.width / 8) = 0
    (0 < sizeOf' ty → ¬releases ord → storeElems mmioOps s s.cur req [({ idx := 0, va := va, n := sizeOf' ty },
        natToBytes (sizeOf' ty) (s.rs data).toNat)] = .ok s1 → Runs (.st ty base data imm req scope ord) s (finish s1)) ∧
    (contigAligned ty va → ty.width ≠ 4 →
      storeElems mmioOps s s.cur req (es (onElems s ty mask) (elemAddr ty va)) = .ok s1 →
      Runs (.stv ty base v imm mask req) s (finish s1)) ∧
    (contigAligned ty va → ty.width = 4 →
      storeWith mmioOps s s.cur req (nibbleElems va 0 (actives s ty mask) (vElems ty (s.rv v))) (nibbleByte s.cur) = .ok s1 →
      Runs (.stv ty base v imm mask req) s (finish s1)) ∧
    (strided → storeElems mmioOps s s.cur req (es (onElems s ty mask) stride) = .ok s1 →
      Runs (.stvs ty base v k imm mask req) s (finish s1)) ∧
    (laneOk ty va (s.rs k) →
      storeElems mmioOps s s.cur req (es (onLanes s mask) (laneAt ty va (s.rv idx) (s.rs k))) = .ok s1 →
      Runs (.scat ty base idx v k imm mask req) s (finish s1)) ∧
    (contigAligned ty va → ty.width ≠ 4 → wholeTile s ty (actives s ty mask) va .store = .ok s2 →
      storeElems mmioOps s2 s.cur .own (es (onElems s ty mask) (elemAddr ty va)) = .ok s1 →
      Runs (.stt ty base v imm mask) s (finish s1)) ∧
    (laneOk ty va (s.rs k) → ty ≠ .e4m3 →
      checkAll s ((es (onLanes s mask) (laneAt ty va (s.rv idx) (s.rs k))).map (·.1))
        (fun s e => checkStore s s.cur .atomic req true e) = .ok (pss, s2) → fifoFull s2 s.cur = false →
      typeWaits s2 s.cur req pss.flatten = false → lanesFound s2 req pss.flatten = .ok s3 →
      lanesAdded s3 req ty { mode := modeOf s rnd, fzi := fzi, fzo := fzo } ((List.range ty.count).map (el ty (s.rv v)))
        (((es (onLanes s mask) (laneAt ty va (s.rv idx) (s.rs k))).map (·.1)).zip pss) = .ok (s1, fl) →
      Runs (.scatAcc ty base idx v k imm mask req scope rnd fzi fzo) s (finish (raiseFlags s1 fl))) ∧
    (sizeOf' ty = 0 → Traps (.st ty base data imm req scope ord) s { code := 0x12 }) ∧
    (¬contigAligned ty va → Traps (.stv ty base v imm mask req) s { code := 0x12 } ∧
      Traps (.stt ty base v imm mask) s { code := 0x12 }) ∧
    (¬strided → Traps (.stvs ty base v k imm mask req) s { code := 0x12 }) ∧
    (¬laneOk ty va (s.rs k) → Traps (.scat ty base idx v k imm mask req) s { code := 0x12 } ∧
      Traps (.scatAcc ty base idx v k imm mask req scope rnd fzi fzo) s { code := 0x12 })

/-- A load or store of a scalar type whose address has a bit above bit 47 set, or lies in the vault window without
being a form of it, raises the address-form fault with the address in its packet; an access by an untranslated
supervisor context to an address of no region raises the physical-address fault. Memory and the scalar, vector and
mask registers stay as they were, but for a register that an earlier long-latency instruction has yet to write. -/
def Obligations.AddressForms : Prop :=
  ∀ (s : State) (la : BitVec 4) (ty : ElemType) (d base data : SReg) (imm : BitVec 32) (req : ReqType) (scope : Scope),
    let va := (s.rs base + immVal imm).toNat
    let both := fun (c : Nat) => Traps (.ld la ty d base imm req scope .rlx) s { code := c, addr := va } ∧
      Traps (.st ty base data imm req scope .rlx) s { code := c, addr := va }
    0 < sizeOf' ty → va % 64 + sizeOf' ty ≤ 64 →
    (2 ^ 48 ≤ va → both 1) ∧
    (va < 2 ^ 48 → va / 2 ^ 40 = 0xFF → vaultWindow s.cur va = none → both 1) ∧
    (va < 2 ^ 48 → va / 2 ^ 40 ≠ 0xFF → untranslated s s.cur = true → req = .unc → physLoc s va = none → both 7) ∧
    (∀ k : Trap, (stopNow s (.trap k)).mem = s.mem ∧
      (∀ r, ¬Owed s (.s r) → (stopNow s (.trap k)).me.getS r = s.rs r) ∧
      (∀ r, ¬Owed s (.v r) → (stopNow s (.trap k)).me.getV r = s.rv r) ∧
      ∀ r, (stopNow s (.trap k)).me.getM r = s.rm r)

/-- With a base address in the vault window of a vault that serves the context, and in the forms that release nothing
to release: TDECL of a free entry with a legal range that overlaps no declared tile makes it empty with its base, size
and mode, and otherwise raises the illegal-operand fault or the tile-access fault at the vault address; TSTATE_READ
returns the entry's 128 bits in an even register pair; TSTATE_ARM, TSTATE_READY and TSTATE_EMPTY return the entry as
their event leaves it; TFREE frees a ready entry. An odd destination raises the illegal-operand fault. -/
def Obligations.TileLifecycle : Prop :=
  ∀ (s : State) (d base n : SReg) (mode : BitVec 2) (e : BitVec 7) (a : Nat),
    let va := (s.rs base).toNat
    let k := vaultNo a * 128 + e.toNat
    let size := (s.rs n).toNat
    let off := a % 2 ^ 24
    let legal := off % 64 = 0 ∧ size ≠ 0 ∧ size % 64 = 0 ∧ off + size ≤ 0xC00000
    InVault s va 1 a →
    (mode ≠ 0#2 → legal → (s.tile k).st = .free → tilesTouched s (vaultNo a) off size = [] →
      ∃ t, Runs (.tdecl base n mode e) s (finish t) ∧ t.tile k =
        { st := .empty, w := mode.getLsbD 1, f := mode.getLsbD 0, base := off, size := size } ∧ (∀ j, j ≠ k → t.tile j = s.tile j) ∧ t.mem = s.mem) ∧
    (mode = 0#2 ∨ ¬legal → Traps (.tdecl base n mode e) s { code := 0x12 }) ∧
    (mode ≠ 0#2 → legal → ((s.tile k).st ≠ .free ∨ tilesTouched s (vaultNo a) off size ≠ []) →
      Traps (.tdecl base n mode e) s { code := 0x21, addr := a, info := e.toNat, sub := 2 }) ∧
    (d.toNat % 2 = 0 → Runs (.tstateRead d base e) s (finish ((s.setS d (BitVec.ofNat 64 (s.tile k).bits)).setS (d + 1#6)
      (BitVec.ofNat 64 ((s.tile k).bits / 2 ^ 64))))) ∧
    (s.me.mid = .released → d.toNat % 2 = 0 → ∀ ev i x, ((ev = .arm size ∧ i = Instr.tstateArm d base n e) ∨
        (ev = .markReady ∧ i = Instr.tstateReady d base e) ∨ (ev = .markEmpty ∧ i = Instr.tstateEmpty d base e)) →
      tileStep (s.tile k) ev = .ok x → ∃ t : State, t.tile k = x ∧ (∀ j, j ≠ k → t.tile j = s.tile j) ∧ t.mem = s.mem ∧
        Runs i s (finish ((t.setS d (BitVec.ofNat 64 x.bits)).setS (d + 1#6) (BitVec.ofNat 64 (x.bits / 2 ^ 64))))) ∧
    (s.me.mid = .released → (s.tile k).st = .ready → ∃ t, Runs (.tfree base e) s (finish t) ∧
      t.tile k = { s.tile k with st := .free } ∧ (∀ j, j ≠ k → t.tile j = s.tile j) ∧ t.mem = s.mem) ∧
    (d.toNat % 2 = 1 → Traps (.tstateRead d base e) s { code := 0x12 } ∧ Traps (.tstateArm d base n e) s { code := 0x12 } ∧
      Traps (.tstateReady d base e) s { code := 0x12 } ∧ Traps (.tstateEmpty d base e) s { code := 0x12 })

/-- For a supervisor context that does not translate, whose core holds no V sector and no tidal store, with no request
posted to a home, and a range of DRAM: CINV drops the core's sectors that the range touches; CFLUSH keeps the copies,
clean, and leaves no L2 line that the range touches dirty; CINV_I has no cache of a supervisor core to act on, and on
a mesh core a length of zero empties its gang's cache. Each answers a next state with memory and registers as before.
CINV_I whose length register holds zero empties the instruction cache of a mesh core's gang and changes nothing else.
-/
def Obligations.CacheMaintenance : Prop :=
  ∀ (s s1 : State) (base len : SReg) (imm : BitVec 32) (ps : List (Nat × Nat)),
    let va := (s.rs base + immVal imm).toNat
    let core := coreOf s.cur
    let same := fun (t : State) => t.mem = s.mem ∧ t.me.sregs = s.me.sregs ∧ t.me.vregs = s.me.vregs
    (rangePieces s va (s.rs len).toNat = .ok (ps, s1) → isSup s.cur = true → s1 = s → s.homeq = [] →
    (∀ l ∈ (s.core core).l1, ∀ (i : Nat) (h : i < 4), l.sec[i].st ≠ .v) → (s.core core).tidal = [] →
    (∃ t, Runs (.cinv base len imm) s t ∧ same t ∧
      ∀ x, inPieces ps (x * 64) 64 = true → (l1Sec (t.core core) x).st = .i) ∧
    (∃ t, Runs (.cflush base len imm) s t ∧ same t ∧
      (∀ kv ∈ t.l2, ∀ l ∈ kv.2, inPieces ps (l.line * 256) 256 = true → l.dirty = false) ∧
      (∀ x, (l1Sec (t.core core) x).st = .i ↔ (l1Sec (s.core core) x).st = .i)) ∧
    Runs (.cinvI base len imm) s (finish s)) ∧
    (isSup s.cur = false → s.rs len = 0#64 →
      Runs (.cinvI base len imm) s (finish (s.modGang (gangOf s.cur) fun g => { g with icache := [] })) ∧
      ((finish (s.modGang (gangOf s.cur) fun g => { g with icache := [] })).gang (gangOf s.cur)).icache = [])

/-- With an empty dirty-address FIFO, no V or tidal sector in the core and no release under way, FENCE of each order
answers a next state; if it releases, the context's open race bytes become closed at its scope, so that a context that
the scope covers no longer conflicts with them. With stores unacknowledged, a release places its marker at the FIFO's
tail where it has room and the context stalls; the marker at the head of the FIFO completes it. PUBL of a valid level
whose release is complete, where no home and no bank holds them back, commits the pending sectors that its context has
not sent to an arrival at another domain; a level out of range or whose domain is not valid raises the illegal-operand
fault, and so does any level in a supervisor context. That last refusal, and that stores are named for a domain as
each arrival is sent, is the model's reading of log entry 40. -/
def Obligations.ReleasesAndAcquires : Prop :=
  ∀ (s : State) (scope : Scope) (ord : Order) (level : BitVec 32) (x cid : Nat) (rest : List FifoEntry),
    let core := coreOf s.cur
    ((s.core core).fifo = [] → (s.core core).l1 = [] → (s.core core).tidal = [] → s.me.mid = .none →
      ∃ t, Runs (.fence scope ord) s (finish t) ∧ t.mem = s.mem ∧
        (releases ord → t.races = (raceClose s s.cur scope).races) ∧ (¬releases ord → t.races = s.races)) ∧
    ((s.core core).fifo ≠ [] → (s.core core).fifo.length < 64 → (s.core core).l1 = [] →
      (s.core core).tidal = [] → s.me.mid = .none → releases ord → ∃ t, Runs (.fence scope ord) s t ∧
        t.me.st = .stalled ∧ t.me.mid = .marker ∧ t.me.pc = s.me.pc ∧ t.mem = s.mem ∧
        (t.core core).fifo = (s.core core).fifo ++ [.marker s.cur scope]) ∧
    ((s.core x).fifo = .marker cid scope :: rest → (s.ctx cid).mid = .marker → (s.ctx cid).st = .stalled →
      ∃ t, Runs (.releaseComplete x) s t ∧ (t.core x).fifo = rest ∧ (t.ctx cid).mid = .released ∧ (t.ctx cid).st = .ready ∧
        t.races = (raceClose s cid scope).races ∧ t.mem = s.mem) ∧
    (∀ sec k req, (s.core x).fifo = .store sec k req :: rest → req ≠ .sinv →
      ∃ t, Runs (.dirtyFifoAck x) s t ∧ (t.core x).fifo = rest ∧ t.mem = s.mem ∧ t.ctxs = s.ctxs ∧
        (t.core x).fifoLeft = (s.core x).fifoLeft + 1) ∧
    (s.me.mid = .released → isSup s.cur = false → Committable s → ∀ k : Fin 4, level.toNat = k.val + 1 → s.me.doms[k].getLsbD 51 = true →
      ∃ t, Runs (.publ scope level) s (finish t) ∧ ∀ p ∈ t.pend, p ∈ s.pend ∧
        ∀ d i, p.owner = .tidal s.cur s.me.incarnation d i → d ≠ noDomain ∧ d ≠ s.me.doms[k].toNat % 2 ^ 16) ∧
    ((level.toNat = 0 ∨ 4 < level.toNat ∨ isSup s.cur = true ∨
      ∃ k : Fin 4, level.toNat = k.val + 1 ∧ s.me.doms[k].getLsbD 51 = false) → Traps (.publ scope level) s { code := 0x12 })

/-- For a 16-byte-aligned object in a vault that serves the context, with nothing under way and no copy held: BARI
writes EXPECT and BOUND and clears the other fields; an arrival returns the old low 64 bits and adds to ARRIVED, or,
completing the phase, clears ARRIVED and the gangs and advances PHASE; an arrival beyond EXPECT sets OVR and raises
the barrier-overrun fault; a wait ends at once with 0 when the phase has passed, with 2 on an overrun, and otherwise
blocks until the phase, keeping the time at which it began, from which the object's bound counts; WBAR arrives as BARA
does, goes on with 0 where it completes the phase, and else waits as BARW does. An unaligned object, a zero EXPECT,
and a count of 0 or above 1023 raise the illegal-operand fault. -/
def Obligations.BarrierObjects : Prop :=
  ∀ (s : State) (d base n : SReg) (imm : BitVec 32) (req : ReqType) (scope : Scope) (a : Nat),
    let va := (s.rs base + immVal imm).toNat
    let obj := bytesToNat (s.mem.readN a 16)
    let k := (s.rs n).toNat
    let expect := obj % 2 ^ 10
    let arrived := obj / 2 ^ 10 % 2 ^ 10
    let phase := obj / 2 ^ 20 % 16
    let gang := if isSup s.cur then 0 else 2 ^ (gangOf s.cur % 64)
    let put := fun (u : State) (w : Nat) => StoredOnly s u a (natToBytes 16 w) ∧ u.cur = s.cur
    let arrives := fun (w : Nat) => w % 2 ^ 10 = expect ∧ w / 2 ^ 10 % 2 ^ 10 = arrived + k ∧
      w / 2 ^ 20 % 2 ^ 44 = obj / 2 ^ 20 % 2 ^ 44 ∧ w / 2 ^ 64 = obj / 2 ^ 64 ||| gang
    let now := if isSup s.cur then cycleOf s (dieOf s.cur) else ungatedOf s (dieOf s.cur)
    let status := fun (i : Instr) (v : Word) => ∃ u, Runs i s (finish (u.setS d v)) ∧ Kept s u
    ((va % 16 ≠ 0 ∨ k % 2 ^ 10 = 0 ∨ k / 2 ^ 10 % 2 ^ 22 ≠ 0) → Traps (.bari base n imm req scope) s { code := 0x12 }) ∧
    (s.me.mid = .none → va % 16 ≠ 0 → Traps (.bara d base n imm req scope) s { code := 0x12 } ∧
      Traps (.barw d base n imm req scope) s { code := 0x12 } ∧ Traps (.wbar d base n imm req scope) s { code := 0x12 }) ∧
    (s.me.mid = .none → (k = 0 ∨ 1023 < k) → Traps (.bara d base n imm req scope) s { code := 0x12 } ∧
      Traps (.wbar d base n imm req scope) s { code := 0x12 }) ∧
    (Quiet s → Settled s (coreOf s.cur) → InVault s va 16 a → va % 16 = 0 →
      (k % 2 ^ 10 ≠ 0 → k / 2 ^ 10 % 2 ^ 22 = 0 → ∃ u, Runs (.bari base n imm req scope) s (finish u) ∧
        put u (k % 2 ^ 10 + k / 2 ^ 32 * 2 ^ 32)) ∧
      (k ≠ 0 → arrived + k < expect → ∃ u w,
        Runs (.bara d base n imm req scope) s (finish (u.setS d (BitVec.ofNat 64 obj))) ∧ put u w ∧ arrives w) ∧
      (k ≠ 0 → arrived + k < expect → obj / 2 ^ 24 % 2 = 0 → ∃ t w, Runs (.wbar d base n imm req scope) s t ∧ put t w ∧
        arrives w ∧ t.me.st = .blocked ∧ t.me.wake = .barrier va phase ∧ t.me.deadline = now) ∧
      (k ≠ 0 → arrived + k < expect → obj / 2 ^ 24 % 2 = 1 → ∃ u w,
        Runs (.wbar d base n imm req scope) s (finish (u.setS d 2#64)) ∧ put u w ∧ arrives w) ∧
      (k ≠ 0 → arrived + k = expect → ∃ w, w % 2 ^ 10 = expect ∧ w / 2 ^ 10 % 2 ^ 10 = 0 ∧ w / 2 ^ 20 % 16 = (phase + 1) % 16 ∧
        w / 2 ^ 24 % 2 ^ 40 = obj / 2 ^ 24 % 2 ^ 40 ∧ w / 2 ^ 64 = 0 ∧
        (∃ u, Runs (.bara d base n imm req scope) s (finish (u.setS d (BitVec.ofNat 64 obj))) ∧ put u w) ∧
        (∃ u, Runs (.wbar d base n imm req scope) s (finish (u.setS d 0#64)) ∧ put u w)) ∧
      (k ≠ 0 → k ≤ 1023 → expect < arrived + k → awaitsBank s = false → ∃ u w, put u w ∧ w % 2 ^ 24 = obj % 2 ^ 24 ∧
        w / 2 ^ 24 % 2 = 1 ∧ w / 2 ^ 25 = obj / 2 ^ 25 ∧
        ∀ i ∈ [Instr.bara d base n imm req scope, .wbar d base n imm req scope],
          Runs i s (takeFault u s.cur { code := 0x22, addr := va, info := w % 2 ^ 64 })) ∧
      (k < 16 → phase ≠ k → status (.barw d base n imm req scope) 0#64) ∧
      (k < 16 → phase = k → obj / 2 ^ 24 % 2 = 1 → status (.barw d base n imm req scope) 2#64) ∧
      (k < 16 → phase = k → obj / 2 ^ 24 % 2 = 0 → ∃ t, Runs (.barw d base n imm req scope) s t ∧ Kept s t ∧
        t.me.st = .blocked ∧ t.me.wake = .barrier va k ∧
        t.me.deadline = now)) ∧
    (16 ≤ k → s.me.mid = .none → Traps (.barw d base n imm req scope) s { code := 0x12 })

/-- In a quiet vault with no copy held, CMPL of an aligned word stores 8 bytes and leaves no race record. WAITW whose
condition holds of the word answers 0; otherwise it blocks with its condition, bounded by the cycles of its register,
0 being without bound. A barrier wait that its object's bound of 256-cycle units has outlasted, in ungated cycles,
goes on with 0 when the phase has passed, with 2 on an overrun and else with 1, and a word wait whose bound has passed
with 1, which BARW, WBAR and WAITW then write; a word wait whose condition the home has found met goes on to write 0;
a wait on a network-window word is tried again once 1,024 cycles have passed. -/
def Obligations.WordWaits : Prop :=
  ∀ (s : State) (d base v b : SReg) (imm : BitVec 32) (req : ReqType) (scope : Scope) (cond : Cond) (a cid r : Nat),
    let va := (s.rs base + immVal imm).toNat
    let w := bytesToNat (s.mem.readN a 8)
    let x := (s.rs v).toNat
    let c := s.ctx cid
    let holds := match cond with
      | .eq => w = x
      | .ne => w ≠ x
      | .geu => x ≤ w
      | .any => w &&& x ≠ 0
    (Quiet s → Settled s (coreOf s.cur) → InVault s va 8 a → va % 8 = 0 →
      (∃ u, Runs (.cmpl base v imm scope) s (finish u) ∧ StoredOnly s u a (natToBytes 8 x) ∧ u.races = []) ∧
      (holds → ∃ u, Runs (.waitw d base v b imm req scope .rlx cond) s (finish (u.setS d 0#64)) ∧ Kept s u) ∧
      (s.me.deadline = 0 → ¬holds → ∃ t, Runs (.waitw d base v b imm req scope .rlx cond) s t ∧ Kept s t ∧ t.me.st = .blocked ∧
        t.me.deadline = (if s.rs b = 0#64 then 0 else cycleOf s (dieOf s.cur) + (s.rs b).toNat) ∧
        t.me.wake = .word va cond.code.toNat x)) ∧
    (va % 8 ≠ 0 → s.me.mid = .none → Traps (.cmpl base v imm scope) s { code := 0x12 } ∧
      Traps (.waitw d base v b imm req scope .rlx cond) s { code := 0x12 }) ∧
    (s.me.mid = .result 0 → Quiet (s.modMe fun c => { c with mid := .none }) → Settled s (coreOf s.cur) → InVault s va 8 a →
      va % 8 = 0 → ∃ u, Runs (.waitw d base v b imm req scope .rlx cond) s (finish (u.setS d 0#64)) ∧ Kept s u) ∧
    (s.me.mid = .result r → (r ≠ 0 → Runs (.waitw d base v b imm req scope .rlx cond) s (finish (s.setS d 1#64)) ∧
      Runs (.barw d base v imm req scope) s (finish (s.setS d (BitVec.ofNat 64 r))) ∧
        Runs (.wbar d base v imm req scope) s (finish (s.setS d (BitVec.ofNat 64 r))))) ∧
    (c.st = .blocked →
      (∀ o p q, c.wake = .barrier o p → c.watch = some q →
        let word := bytesToNat (s.mem.readN q 8)
        let bound := word / 2 ^ 32 % 2 ^ 32
        bound ≠ 0 → c.deadline + 256 * bound ≤ (if isSup cid then cycleOf s (dieOf cid) else ungatedOf s (dieOf cid)) →
        ∃ t, Runs (.barrierWaitTimeout cid) s t ∧ Goes s t cid (.result
          (if word / 2 ^ 20 % 16 ≠ p then 0 else if word / 2 ^ 24 % 2 = 1 then 2 else 1))) ∧
      (∀ o k y, c.wake = .word o k y → c.deadline ≠ 0 → c.deadline ≤ cycleOf s (dieOf cid) →
        ∃ t, Runs (.waitwTimeout cid) s t ∧ Goes s t cid (.result 1))) ∧
    (c.st = .blocked → (∀ o k y, c.wake = .word o k y → c.watch = none → c.blockedAt + 1024 ≤ cycleOf s (dieOf cid) →
      ∃ t, Runs (.waitwWindowPoll cid) s t ∧ Goes s t cid (.waiting 1)))

/-- ALIGN with a bound of 1 to 65,535 completes when every other context of its gang with its ASID has arrived, and
otherwise stalls with its bound until ALIGN_RELEASE finds the condition or its bound expires. YIELD of 1 to 65,535
stalls for that many ungated cycles and completes after its expiry. IDLE of a supervisor completes with 0 when a
message waits, consuming it, and otherwise stalls until its bound gives 1; elsewhere it raises the privilege fault. A
bound out of range raises the illegal-operand fault. That ALIGN on a supervisor core waits for nobody is the model's
choice of log entry 31, and that YIELD above 65,535 is illegal its reading of log entry 52. -/
def Obligations.WaitsAndExpiries : Prop :=
  ∀ (s : State) (d : SReg) (imm : BitVec 32) (cid v : Nat),
    let n := imm.toNat
    let c := s.ctx cid
    (s.me.mid = .none → (n = 0 ∨ 65535 < n) → Traps (.align imm) s { code := 0x12 } ∧ Traps (.yield imm) s { code := 0x12 }) ∧
    (s.me.mid = .none → 0 < n → n ≤ 65535 →
      (validCtx s.cur = true → AllArrived s s.cur → ∃ u, Runs (.align imm) s (finish u) ∧ Kept s u) ∧
      (¬AllArrived s s.cur → ∃ t, Runs (.align imm) s t ∧ Kept s t ∧ t.me.st = .stalled ∧ t.me.mid = .waiting 185 ∧
        t.me.deadline = cycleOf s (dieOf s.cur) + n) ∧
      (∃ t, Runs (.yield imm) s t ∧ Kept s t ∧ t.me.st = .stalled ∧ t.me.mid = .waiting 230 ∧
        t.me.deadline = (if isSup s.cur then cycleOf s (dieOf s.cur) else ungatedOf s (dieOf s.cur)) + n)) ∧
    (s.me.mid = .released → Runs (.align imm) s (finish s) ∧ Runs (.yield imm) s (finish s)) ∧
    (c.st = .stalled → c.mid = .waiting 185 →
      (validCtx cid = true → AllArrived s cid → ∃ t, Runs (.alignRelease cid) s t ∧ Goes s t cid .released) ∧
      (¬AllArrived s cid → ∃ t, Runs (.alignRelease cid) s t ∧ (t.ctx cid).mid = .waiting 185 ∧ (t.ctx cid).st = .stalled) ∧
      (c.deadline ≤ cycleOf s (dieOf cid) → ∃ t, Runs (.alignBoundExpiry cid) s t ∧ Goes s t cid .released) ∧
      (cycleOf s (dieOf cid) < c.deadline → Runs (.alignBoundExpiry cid) s s)) ∧
    (c.st = .stalled → c.mid = .waiting 230 →
      c.deadline ≤ (if isSup cid then cycleOf s (dieOf cid) else ungatedOf s (dieOf cid)) →
      ∃ t, Runs (.yieldExpiry cid) s t ∧ Goes s t cid .released) ∧
    (s.me.mid = .none → isSup s.cur = false → Traps (.idle d imm) s { code := 0x13 }) ∧
    (s.me.mid = .none → isSup s.cur = true →
      (s.me.message = true → ∃ u, Runs (.idle d imm) s (finish (u.setS d 0#64)) ∧ Kept s u ∧ u.me.message = false) ∧
      (s.me.message = false → ∃ t, Runs (.idle d imm) s t ∧ Kept s t ∧ t.me.st = .stalled ∧ t.me.mid = .waiting 238 ∧
        t.me.deadline = if n = 0 then 0 else cycleOf s (dieOf s.cur) + n)) ∧
    (s.me.mid = .result v → Runs (.idle d imm) s (finish (s.setS d (BitVec.ofNat 64 v)))) ∧
    (c.st = .stalled → c.mid = .waiting 238 → c.deadline ≠ 0 → c.deadline ≤ cycleOf s (dieOf cid) →
      ∃ t, Runs (.idleTimeout cid) s t ∧ Goes s t cid (.result 1))

/-- PAIR without a free neighbour completes with 2, beside another context of its core whose PAIR waits with 3 (2
where both apply: the model's choice of log entry 74), and with a neighbour that waits for it forms the pair, the
lower core leading, the follower holding a copy of the leader's registers and program counter; otherwise it stalls
until its time is up, which gives 1. A wanted interval is closed; equal fingerprints of a closed one, where no home
and no bank holds them back, commit its pending sectors and start a new one, and differing ones discard them and
return both contexts to the agreed point. UNPAIR of an unpaired context completes with 1 and of a pair at an agreed
point ends it; otherwise it asks for the close. -/
def Obligations.CorePairs : Prop :=
  ∀ (s : State) (d : SReg) (dir : BitVec 2) (n cid v lead foll : Nat) (b : PairAsk) (p q : PairRec),
    let core := coreOf s.cur
    let side := neighbour core dir.toNat
    (s.me.mid = .none → (side = none ∨ (s.core core).pair ≠ none ∨ (side = some n ∧ (s.core n).pair ≠ none)) →
      Runs (.pair d dir) s (finish (s.setS d 2#64))) ∧
    (s.me.mid = .none → side = some n → (s.core core).pair = none → (s.core n).pair = none → (s.core core).pairWait = some b →
      (s.ctx (core * 16 + b.ctx)).st = .stalled → (s.ctx (core * 16 + b.ctx)).mid = .waiting 237 →
      cycleOf s (core / 256) < b.deadline → Runs (.pair d dir) s (finish (s.setS d 3#64))) ∧
    (s.me.mid = .none → side = some n → (s.core core).pair = none → (s.core n).pair = none → (s.core core).pairWait = none →
      ((s.core n).pairWait = none → ∃ t, Runs (.pair d dir) s t ∧ Kept s t ∧ t.me.st = .stalled ∧ t.me.mid = .waiting 237 ∧
        (t.core core).pairWait = some { ctx := ctxNo s.cur, dir := dir.toNat, deadline := cycleOf s (dieOf s.cur) + 65536,
                                        dst := d }) ∧
      ((s.core n).pairWait = some b → b.ctx < 4 → neighbour n b.dir = some core → (s.ctx (n * 16 + b.ctx)).st = .stalled →
        (s.ctx (n * 16 + b.ctx)).mid = .waiting 237 → cycleOf s (n / 256) < b.deadline →
        ∃ t, Runs (.pair d dir) s t ∧ t.mem = s.mem ∧ t.me.st = .ready ∧ (t.ctx (n * 16 + b.ctx)).st = .ready ∧
          (∃ x y, (t.core core).pair = some x ∧ (t.core n).pair = some y ∧ x.partner = n ∧ y.partner = core ∧
            x.leader = decide (core < n) ∧ y.leader = decide (n < core)) ∧
          t.me.sregs = (t.ctx (n * 16 + b.ctx)).sregs ∧ t.me.vregs = (t.ctx (n * 16 + b.ctx)).vregs ∧
          t.me.pc = nextSlot (if core < n then s.me.pc else (s.ctx (n * 16 + b.ctx)).pc) ∧
          (t.ctx (n * 16 + b.ctx)).pc = t.me.pc)) ∧
    (s.me.mid = .result v → Runs (.pair d dir) s (finish (s.setS d (BitVec.ofNat 64 v)))) ∧
    (s.me.mid = .waiting v → (s.core core).pairWait = some b → b.ctx = ctxNo s.cur → b.deadline ≤ cycleOf s (dieOf s.cur) →
      ∃ u, Runs (.pair d dir) s (finish (u.setS d 1#64)) ∧ Kept s u ∧ (u.core core).pairWait = none) ∧
    ((s.core (coreOf cid)).pairWait = some b → b.ctx = ctxNo cid → (s.ctx cid).st = .stalled →
      (s.ctx cid).mid = .waiting 237 → b.deadline ≤ cycleOf s (dieOf cid) →
      ∃ t, Runs (.pairTimeout cid) s t ∧ Goes s t cid (.result 1)) ∧
    (pairOfCtx s cid = some (lead, p, foll) →
      (p.want = true → p.closed = false → ∃ t x, Runs (.pairIntervalClose cid) s t ∧ (t.core lead).pair = some x ∧
        x.closed = true ∧ t.mem = s.mem) ∧
      ((s.core foll).pair = some q → p.closed = true → crcFinal p.crc = crcFinal q.crc → lead ≠ foll → Committable s →
        ∃ t x, Runs (.pairFingerprintExchange cid) s t ∧ (t.core lead).pair = some x ∧ x.fresh = true ∧ x.closed = false ∧
          ∀ y ∈ t.pend, y.owner ≠ .interval lead) ∧
      ((s.core foll).pair = some q → p.closed = true → crcFinal p.crc ≠ crcFinal q.crc → p.disagreements + 1 < 3 →
        p.cid lead ≠ q.cid foll → lead ≠ foll → (s.ctx (p.cid lead)).st ≠ .frozen → (s.ctx (q.cid foll)).st ≠ .frozen →
        ∃ t, Runs (.pairFingerprintExchange cid) s t ∧ t.mem = s.mem ∧ t.ctx (p.cid lead) = p.checkpoint ∧
          t.ctx (q.cid foll) = q.checkpoint ∧ ∀ y ∈ t.pend, y.owner ≠ .interval lead)) ∧
    ((s.core core).pair = none → Runs (.unpair d) s (finish (s.setS d 1#64))) ∧
    (pairOf s core = some (lead, p, foll) →
      (p.fresh = true → ∃ t, Runs (.unpair d) s t ∧ (t.core lead).pair = none ∧ (t.core foll).pair = none ∧ t.mem = s.mem) ∧
      (p.fresh = false → ∃ t, Runs (.unpair d) s t ∧ Kept s t ∧ t.me.st = .stalled ∧
        ∃ x, (t.core lead).pair = some x ∧ x.want = true))

/-- Enabling an idle entry sets its scope, generation and count, with no arrival and phase 0. With nothing to release
TIDE of a valid level sends its arrival to the home die and blocks; a level out of range or not valid, and any level
in a supervisor context, raises the illegal-operand fault. An arrival that agrees with its entry, from the core, gang
or die of the first one where the scope is core, gang or die, and there from the home die, is counted, and the last
one starts the ebb; one that does not wakes its sender to the illegal-operand fault. Where no home and no bank holds
the sectors back, the ebb's end toggles the phase, clears the arrivals, leaves none of the generation's pending
sectors, and its waiting members go on with the new phase, which TIDE then writes to the domain register. An abort
disables the entry and discards its pending sectors, and the tidal stores in L1 of a task whose registers name that
domain alone. That a supervisor context takes part in no domain is the model's reading of log entry 40; what an abort
discards of stores that no arrival has named rests on log entries 40 and 90. -/
def Obligations.Tides : Prop :=
  ∀ (s : State) (level : BitVec 32) (die e val k p : Nat) (m : TideMsg) (rest : List TideMsg),
    let x := domainAt s die (e % 256)
    let w := s.me.dom level.toNat
    let from_ := coreOf m.cid
    let placed := (x.arrived = 0 ∨ ((x.scope = 1 → from_ = x.first) ∧ (x.scope = 2 → from_ / 8 = x.first / 8) ∧
      (x.scope = 3 → from_ / 256 = x.first / 256))) ∧ (x.scope = 3 → from_ / 256 = m.dom.toNat / 2 ^ 8 % 16)
    let name := e % 256 + (die <<< 8) + (x.gen <<< 12)
    let V := fun (k : Nat) (l : Fin 4) => (s.ctx k).doms[l].getLsbD 51 = true
    let names := fun (k : Nat) (l : Fin 4) => (s.ctx k).doms[l].toNat % 2 ^ 16 = name
    (x.en = false → x.arrived = 0 → x.ebb = false → val % 2 = 1 → ∃ t, Runs (.domainEnable die e val) s t ∧ t.mem = s.mem ∧
      (domainAt t die (e % 256)).en = true ∧ (domainAt t die (e % 256)).scope = val / 2 % 8 ∧
      (domainAt t die (e % 256)).gen = val / 16 % 16 ∧ (domainAt t die (e % 256)).count = val / 256 % 8192 ∧
      (domainAt t die (e % 256)).arrived = 0 ∧ (domainAt t die (e % 256)).phase = false) ∧
    (x.en = true → x.ebb = false → ∃ t, Runs (.domainAbort die e) s t ∧ t.mem = s.mem ∧
      (domainAt t die (e % 256)).en = false ∧ (domainAt t die (e % 256)).arrived = 0 ∧
      (∀ y ∈ t.pend, ∀ c n i, y.owner ≠ .tidal c n name i) ∧
      ((s.ctx k).st ≠ .idle → (∃ l, V k l) → (∀ l, V k l → names k l) →
        ∀ y ∈ (t.core (coreOf k)).tidal, ¬(y.ctx = k ∧ y.inc = (s.ctx k).incarnation))) ∧
    (s.me.mid = .none → (level.toNat = 0 ∨ 4 < level.toNat ∨ w.getLsbD 51 = false ∨ isSup s.cur = true) →
      Traps (.tide level) s { code := 0x12 }) ∧
    (s.me.mid = .none → 0 < level.toNat → level.toNat ≤ 4 → w.getLsbD 51 = true → isSup s.cur = false → Settled s (coreOf s.cur) →
      ∃ t, Runs (.tide level) s t ∧ Kept s t ∧ t.me.st = .blocked ∧ (t.die (w.toNat / 2 ^ 8 % 16)).tideMsgs =
        (s.die (w.toNat / 2 ^ 8 % 16)).tideMsgs ++ [{ cid := s.cur, dom := w, incarnation := s.me.incarnation }]) ∧
    ((s.die die).tideMsgs = m :: rest → (s.ctx m.cid).st = .blocked →
      (s.ctx m.cid).wake = .tide (m.dom.toNat % 2 ^ 16) (val.testBit 0) k →
      (s.ctx m.cid).incarnation = m.incarnation → m.dom.toNat % 256 = e →
      (x.en = true → x.ebb = false → x.gen = m.dom.toNat / 2 ^ 12 % 16 → x.count = m.dom.toNat / 2 ^ 16 % 2 ^ 13 →
        x.scope = m.dom.toNat / 2 ^ 48 % 8 → placed →
        ∃ t, Runs (.tideArrival die) s t ∧ t.mem = s.mem ∧ (t.die die).tideMsgs = rest ∧
          (domainAt t die e).arrived = x.arrived + 1 ∧ ((domainAt t die e).ebb = true ↔ x.arrived + 1 = x.count)) ∧
      ((x.en = false ∨ x.gen ≠ m.dom.toNat / 2 ^ 12 % 16 ∨ x.count ≠ m.dom.toNat / 2 ^ 16 % 2 ^ 13 ∨
        x.scope ≠ m.dom.toNat / 2 ^ 48 % 8 ∨ ¬placed) →
        ∃ t, Runs (.tideArrival die) s t ∧ Goes s t m.cid (.fault 0x12) ∧ (domainAt t die e).arrived = x.arrived)) ∧
    (s.me.mid = .fault p → Traps (.tide level) s { code := 0x12 }) ∧
    (x.ebb = true → Committable s → ∃ t, Runs (.ebbComplete die e) s t ∧ (domainAt t die (e % 256)).phase = !x.phase ∧
      (domainAt t die (e % 256)).arrived = 0 ∧ (domainAt t die (e % 256)).ebb = false ∧
      (∀ y ∈ t.pend, ∀ c n i, y.owner ≠ .tidal c n name i) ∧
      ((k, (s.ctx k).incarnation) ∈ x.waiting → (s.ctx k).st = .blocked →
        (s.ctx k).wake = .tide name (val.testBit 0) p →
        (t.ctx k).st = .ready ∧ (t.ctx k).mid = .result (if x.phase then 0 else 1))) ∧
    (s.me.mid = .result p → Settled s (coreOf s.cur) → ∃ u, Runs (.tide level) s (finish u) ∧ u.mem = s.mem ∧
      u.me.sregs = s.me.sregs ∧ (u.me.dom level.toNat).getLsbD 63 = p.testBit 0 ∧
      ∀ i, i < 63 → (u.me.dom level.toNat).getLsbD i = w.getLsbD i)

/-- Taking a fault of a context without a condition to park for appends exactly one packet for the core's ring, with
the fields of the fault, advances the sequence number, keeps the packet in the core, freezes the core with every
context's state in PREV, and changes neither memory, the faulting program counter nor a context of another core. Where
an earlier long-latency instruction of the context has yet to fault after its window began to issue, it is its fault
that is taken, with the number of its window's instructions that have completed and, where there are any, its recorded
operands. A ready or stalled context with an enabled floating-point condition parks, alone, with a message that names
the condition; raising a flag accumulates it, and enables decide whether it is such a condition. -/
def Obligations.FaultEntry : Prop :=
  ∀ (s : State) (cid : Nat) (t : Trap), validCtx cid = true →
    (NoEvent (s.ctx cid) → (∀ w ∈ (s.ctx cid).windows, w.late = none) →
     let u := takeFault s cid t
     let core := coreOf cid
     let d := dieOf cid
     ∃ bits : BitVec 512, (u.die d).packets = (s.die d).packets ++ [{ ring := ringOf s core, cid := cid, bits := bits }] ∧
      (u.die d).seq = (s.die d).seq + 1 ∧ (u.core core).packet = bits ∧ (u.core core).frozen = true ∧ u.mem = s.mem ∧
      (u.ctx cid).pc = (s.ctx cid).pc ∧ (∀ k : Nat, coreOf k ≠ core → u.ctx k = s.ctx k) ∧
      (∀ i : Nat, i < 4 → (u.ctx (16 * core + i)).st = (match (s.ctx (16 * core + i)).st with
        | .idle => .idle | .evicted => .evicted | _ => .frozen)) ∧
      (∀ i : Nat, i < 4 → (s.ctx (16 * core + i)).st ∈ [CtxSt.ready, .stalled, .blocked, .parked] →
        (u.ctx (16 * core + i)).prev = (s.ctx (16 * core + i)).st) ∧
      bits.toNat % 2 ^ 8 = t.code % 2 ^ 8 ∧ bits.toNat / 2 ^ 8 % 4 = cid % 4 ∧ bits.toNat / 2 ^ 10 % 16 = (s.ctx cid).ahead % 16 ∧ bits.toNat / 2 ^ 16 % 16 = d ∧
      bits.toNat / 2 ^ 32 % 2 ^ 32 = (s.die d).seq % 2 ^ 32 ∧
      bits.toNat / 2 ^ 64 % 2 ^ 48 = (if (s.ctx cid).passing then bodySlot (s.ctx cid).rep (s.ctx cid).rep.pos
        else (s.ctx cid).pc) % 2 ^ 48 ∧
      bits.toNat / 2 ^ 128 % 2 ^ 48 = t.addr % 2 ^ 48 ∧ bits.toNat / 2 ^ 176 % 2 ^ 16 = t.elem % 2 ^ 16 ∧
      bits.toNat / 2 ^ 192 % 2 ^ 64 = t.info % 2 ^ 64 ∧ bits.toNat / 2 ^ 256 % 2 ^ 16 = t.aux % 2 ^ 16 ∧
      bits.toNat / 2 ^ 272 % 2 ^ 8 = t.sub % 2 ^ 8) ∧
    (NoEvent (s.ctx cid) → ∀ w l, w ∈ (s.ctx cid).windows → w.late = some l →
      (∀ x ∈ (s.ctx cid).windows, x.late.isSome = true → x = w) →
      let u := takeFault s cid t
      let p := (u.core (coreOf cid)).packet.toNat
      p % 2 ^ 8 = l.trap.code % 2 ^ 8 ∧ p / 2 ^ 64 % 2 ^ 48 = l.pc % 2 ^ 48 ∧
      p / 2 ^ 10 % 16 = (l.size - w.left) % 16 ∧ (u.ctx cid).pc = l.pc ∧ u.mem = s.mem ∧
      ((u.ctx cid).replayV = true ↔ l.size ≠ w.left) ∧ (l.size ≠ w.left → (u.ctx cid).replay = l.ops)) ∧
    ((s.ctx cid).ev ≠ 0 → ((s.ctx cid).st = .ready ∨ (s.ctx cid).st = .stalled) →
      let u := parkIfEvent s cid
      ∃ m : Packet, (u.die (dieOf cid)).packets = (s.die (dieOf cid)).packets ++ [m] ∧ m.cid = cid ∧ m.bits.toNat % 2 ^ 8 = 0x40 ∧
        m.bits.toNat / 2 ^ 112 % 2 ^ 5 = (s.ctx cid).ev % 2 ^ 5 ∧ m.bits.toNat / 2 ^ 64 % 2 ^ 48 = nextPc (s.ctx cid) % 2 ^ 48 ∧
        (u.ctx cid).st = .parked ∧ (u.ctx cid).sregs = (s.ctx cid).sregs ∧ u.cores = s.cores ∧ u.mem = s.mem ∧
        ∀ k : Nat, k ≠ cid → u.ctx k = s.ctx k) ∧
    (∀ b : Nat, (raiseFlags s b).me.fpflags = s.me.fpflags ||| BitVec.ofNat 64 b ∧
      (raiseFlags s b).me.ev = s.me.ev ||| (b &&& s.me.fpen.toNat))

/-- TRAP answers a next state in which it has completed (it counts, and the program counter is the next slot), its
core is frozen, memory is as before and the packet has code 0x24, the 16-bit code in AUX and the next slot as the
resume address; when the core resumes, the context is ready at the slot after the TRAP. TRAP #0x51 encodes as R236
writes it. (An operation that still waits at a bank is awaited first, and one that has yet to fault faults in its
place; a TRAP is never in a repetition body.) -/
def Obligations.TrapInstruction : Prop :=
  (∀ (s : State) (code : BitVec 16), validCtx s.cur = true → s.me.passing = false → s.me.ev = 0 → awaitsBank s = false →
    (∀ w ∈ s.me.windows, w.late = none ∧ ∀ x ∈ w.writes, written x ≠ .fpflags) →
    let core := coreOf s.cur
    let next := if s.me.pc % 64 = 48 then s.me.pc - s.me.pc % 64 + 64 else s.me.pc + 12
    ∃ t, Runs (.trap code) s t ∧ t.mem = s.mem ∧ (t.core core).frozen = true ∧ (t.ctx s.cur).st = .frozen ∧
      (t.ctx s.cur).pc = next ∧ (t.ctx s.cur).icount = s.me.icount + 1#64 ∧ (t.ctx s.cur).mid = .none ∧
      (s.me.windows = [] → (t.ctx s.cur).sregs = s.me.sregs ∧ (t.ctx s.cur).vregs = s.me.vregs) ∧
      (t.core core).packet.toNat % 2 ^ 8 = 0x24 ∧ (t.core core).packet.toNat / 2 ^ 256 % 2 ^ 16 = code.toNat ∧
      (t.core core).packet.toNat / 2 ^ 64 % 2 ^ 48 = next % 2 ^ 48 ∧
      ((resumeCore t core).core core).frozen = false ∧ ((resumeCore t core).ctx s.cur).st = .ready ∧
      ((resumeCore t core).ctx s.cur).pc = next ∧ ((resumeCore t core).ctx s.cur).icount = s.me.icount + 1#64) ∧
  encode (.trap 0x51) = some 0xE00300000000000000000051#96

/-- When an instruction of those groups answers a next state, complete or with a fault taken, every byte of memory,
every race record, pending sector, tile and accumulator is as before; so is every scalar, vector and mask register,
handle and floating-point flag of its context outside its destination set and what open windows still owe; so are the
rounding, enable, mode, domain and translation registers; and no other context's registers or program counter change.
-/
def Obligations.RegisterOnlyFrame : Prop :=
  ∀ (i : Instr) (s t : State), RegisterOnly i → Runs i s t →
    t.mem = s.mem ∧ t.races = s.races ∧ t.pend = s.pend ∧ t.tiles = s.tiles ∧ (∀ k, (t.core k).acc = (s.core k).acc) ∧
    (∀ r : SReg, RegName.s r ∉ (regUse s i).2 → ¬Owed s (.s r) → (t.ctx s.cur).getS r = s.rs r) ∧
    (∀ r : VReg, RegName.v r ∉ (regUse s i).2 → ¬Owed s (.v r) → (t.ctx s.cur).getV r = s.rv r) ∧
    (∀ r : MReg, RegName.m r ∉ (regUse s i).2 → (t.ctx s.cur).getM r = s.rm r) ∧
    (RegName.fpflags ∉ (regUse s i).2 → ¬Owed s .fpflags → (t.ctx s.cur).fpflags = s.me.fpflags) ∧
    (t.ctx s.cur).hregs = s.me.hregs ∧ (t.ctx s.cur).round = s.me.round ∧ (t.ctx s.cur).fpen = s.me.fpen ∧
    (t.ctx s.cur).mode = s.me.mode ∧ (t.ctx s.cur).doms = s.me.doms ∧ (t.ctx s.cur).asid = s.me.asid ∧
    (t.ctx s.cur).troot = s.me.troot ∧
    (∀ k, k ≠ s.cur → (t.ctx k).sregs = (s.ctx k).sregs ∧ (t.ctx k).vregs = (s.ctx k).vregs ∧
      (t.ctx k).mregs = (s.ctx k).mregs ∧ (t.ctx k).hregs = (s.ctx k).hregs ∧ (t.ctx k).pc = (s.ctx k).pc)

/-- RDC writes the value of the control register that it names: c.self, the rounding mode, flags, enables, mode,
domains, ASID, table root, cycle and instruction counters, and the pair status; a number that names none raises the
illegal-operand fault. WRC writes a legal value, a new table root with the core's translations of its ASID dropped; a
reserved bit or a rounding mode above 4 raises the reserved-field fault, the ASID and root outside a supervisor the
privilege fault, a read-only or unassigned register and an illegal domain value the illegal-operand fault; PHASE of a
domain register comes from its entry, and a context with tidal stores not yet published writes none. That a new root
drops translations is the model's reading of log entry 63, and that a write's PHASE bit is ignored of log entry 61. -/
def Obligations.ControlRegisters : Prop :=
  ∀ (s : State) (d a : SReg) (num : BitVec 12) (k : Fin 4),
    let get := fun (n : BitVec 12) (v : Word) => Runs (.rdc d n) s (finish (s.setS d v))
    let v := (s.rs a).toNat
    let set := fun (n : BitVec 12) (f : Ctx → Ctx) => Runs (.wrc n a) s (finish (s.modMe f))
    let bad := fun (n : BitVec 12) (c : Nat) => Traps (.wrc n a) s { code := c }
    let dom : BitVec 12 := BitVec.ofNat 12 (0x10 + k.val)
    let clear := v / 2 ^ 29 % 8 = 0 ∧ v / 2 ^ 45 % 8 = 0 ∧ v / 2 ^ 52 % 2 ^ 11 = 0
    let legal := v.testBit 51 = false ∨ (v / 2 ^ 8 % 16 ≤ 11 ∧ 1 ≤ v / 2 ^ 16 % 2 ^ 13 ∧ v / 2 ^ 16 % 2 ^ 13 ≤ 7680 ∧
      v / 2 ^ 32 % 2 ^ 13 < v / 2 ^ 16 % 2 ^ 13 ∧ 1 ≤ v / 2 ^ 48 % 8 ∧ v / 2 ^ 48 % 8 ≤ 4)
    get 0 (BitVec.ofNat 64 (s.cur % 65536 + if isSup s.cur then 3 * 2 ^ 16 else 0)) ∧ get 1 s.me.round ∧
    get 2 s.me.fpflags ∧ get 3 s.me.fpen ∧ get 4 s.me.mode ∧ get dom s.me.doms[k] ∧ get 0x20 s.me.asid ∧
    get 0x21 s.me.troot ∧ get 0x30 (BitVec.ofNat 64 (cycleOf s (dieOf s.cur))) ∧ get 0x31 s.me.icount ∧
    ((s.core (coreOf s.cur)).pair = none → get 0x40 0#64) ∧
    (∀ p, (s.core (coreOf s.cur)).pair = some p → get 0x40 (BitVec.ofNat 64 (1 + (p.dir <<< 1)))) ∧
    (num.toNat ∉ [0, 1, 2, 3, 4, 0x10, 0x11, 0x12, 0x13, 0x20, 0x21, 0x30, 0x31, 0x40] →
      Traps (.rdc d num) s { code := 0x12 }) ∧
    (if v ≤ 4 then set 1 (fun c => { c with round := s.rs a }) else bad 1 0x11) ∧
    (if v < 32 then set 2 (fun c => { c with fpflags := s.rs a }) ∧ set 3 (fun c => { c with fpen := s.rs a })
      else bad 2 0x11 ∧ bad 3 0x11) ∧
    (if v < 4 then set 4 (fun c => { c with mode := s.rs a }) else bad 4 0x11) ∧
    (isSup s.cur = false → bad 0x20 0x13 ∧ bad 0x21 0x13) ∧
    (isSup s.cur = true → (if v < 2 ^ 16 then set 0x20 (fun c => { c with asid := s.rs a }) else bad 0x20 0x11) ∧
      (v % 2 ^ 12 = 0 → v < 2 ^ 48 → ∃ u : State, Runs (.wrc 0x21 a) s (finish (u.modMe fun c => { c with troot := s.rs a })) ∧
        u.ctxs = s.ctxs ∧ u.cur = s.cur ∧ u.mem = s.mem ∧
        (u.core (coreOf s.cur)).tlb = (s.core (coreOf s.cur)).tlb.filter fun e => e.asid != s.me.asid.toNat % 2 ^ 16) ∧
      (¬(v % 2 ^ 12 = 0 ∧ v < 2 ^ 48) → bad 0x21 0x11)) ∧
    (clear → legal → (s.core (coreOf s.cur)).tidal = [] → s.pend = [] → ∃ w : Word,
      set dom (fun c => { c with doms := c.doms.set k.val w }) ∧ w.toNat % 2 ^ 63 = v % 2 ^ 63 ∧
      w.getLsbD 63 = (domainAt s (v / 2 ^ 8 % 16) (v % 2 ^ 8)).phase) ∧
    (clear → ((∃ y ∈ (s.core (coreOf s.cur)).tidal, y.ctx = s.cur ∧ y.inc = s.me.incarnation) ∨
      ∃ y ∈ s.pend, ∃ n i, y.owner = .tidal s.cur s.me.incarnation n i) → bad dom 0x12) ∧
    (¬clear → bad dom 0x11) ∧ (clear → ¬legal → bad dom 0x12) ∧
    (num.toNat ∉ [1, 2, 3, 4, 0x10, 0x11, 0x12, 0x13, 0x20, 0x21] → bad num 0x12)

/-- SVRES of a frozen core of the die resumes it, every context returning to its kept state, after op 1 has retired
the contexts of its mask; a core that is not frozen gives status 1, one that a breakwater is resetting 2 (a fenced one
that is not being reset resumes, and supervisor cores may be named: the model's reading of log entry 61); outside a
supervisor it raises the privilege fault. A parked context is unparked; a write to DWPC restarts a resident context
plainly at the address. A long-latency instruction that completes without a fault writes the registers that its window
owes. A legal ring is enabled, and the first packet for a ring with room, whose place takes it, is written into it, 64
bytes, and leaves the queue. Supervisor start releases the contexts with a start address. -/
def Obligations.SupervisorActions : Prop :=
  ∀ (s : State) (d a : SReg) (op : BitVec 2) (mask : BitVec 4) (die cid pc sup val b : Nat) (w : Window) (ws : List Window)
    (p : Packet) (rest : List Packet),
    let v := (s.rs a).toNat
    let core := v / 16 % 4096
    let c := s.ctx cid
    let r := ringAt s die sup
    (isSup s.cur = false → Traps (.svres d a op mask) s { code := 0x13 }) ∧
    (isSup s.cur = true → 2 ≤ op.toNat → Traps (.svres d a op mask) s { code := 0x12 }) ∧
    (isSup s.cur = true → op.toNat < 2 → v % 16 = 0 → v < 2 ^ 16 → v / 2 ^ 12 = dieOf s.cur →
      (v / 2 ^ 8 % 16 < 10 ∨ (v / 2 ^ 8 % 16 = 15 ∧ v / 2 ^ 4 % 16 < 2)) →
      ((s.core core).frozen = false → Runs (.svres d a op mask) s (finish (s.setS d 1#64))) ∧
      ((s.core core).frozen = true → (s.core core).bwr = true → Runs (.svres d a op mask) s (finish (s.setS d 2#64))) ∧
      ((s.core core).frozen = true → (s.core core).bwr = false → op = 0#2 →
        Runs (.svres d a op mask) s (finish ((resumeCore s core).setS d 0#64)) ∧ ((resumeCore s core).core core).frozen = false ∧
        ∀ i, i < 4 → (s.ctx (16 * core + i)).st = .frozen → ((s.ctx (16 * core + i)).prev ≠ .blocked ∨
          (s.ctx (16 * core + i)).met = false) → (s.ctx (16 * core + i)).ev = 0 → ((resumeCore s core).ctx (16 * core + i)).st = (s.ctx (16 * core + i)).prev ∧
          ((resumeCore s core).ctx (16 * core + i)).pc = (s.ctx (16 * core + i)).pc) ∧
      ((s.core core).frozen = true → (s.core core).bwr = false → op = 1#2 → ∃ u : State,
        Runs (.svres d a op mask) s (finish (u.setS d 0#64)) ∧ (u.core core).frozen = false ∧
        ∀ i, i < 4 → mask.toNat.testBit i = true → (s.ctx (16 * core + i)).st ≠ .evicted → (u.ctx (16 * core + i)).st = .idle)) ∧
    (c.st = .parked → ∃ t, Runs (.debugUnpark cid) s t ∧ (t.ctx cid).st = .ready ∧ (t.ctx cid).entry = .plain ∧
      (t.ctx cid).pc = c.pc ∧ (t.ctx cid).sregs = c.sregs ∧ ∀ k, k ≠ cid → t.ctx k = s.ctx k) ∧
    (c.st ≠ .idle → ∃ t, Runs (.debugPcWrite cid pc) s t ∧ (t.ctx cid).pc = pc % 2 ^ 48 ∧ (t.ctx cid).entry = .plain ∧
      (t.ctx cid).rep = {} ∧ (t.ctx cid).sregs = c.sregs ∧ t.mem = s.mem ∧ ∀ k, k ≠ cid → t.ctx k = s.ctx k) ∧
    (c.windows = w :: ws → w.finished = false → w.bank = none → w.mload = false → w.late = none →
      ∃ t, Runs (.longLatencyInstructionComplete cid) s t ∧ (t.ctx cid).sregs = (applyWrites c w.writes).sregs ∧
        (t.ctx cid).vregs = (applyWrites c w.writes).vregs ∧ t.mem = s.mem ∧
        (t.ctx cid).windows = if w.left = 0 then ws else { w with finished := true, writes := [] } :: ws) ∧
    (r.en = false → val.testBit 4 = true → 6 ≤ val % 16 → val % 16 ≤ 12 → dramRun s r.base (64 * 2 ^ (val % 16)) = true →
      ∃ t, Runs (.faultRingEnable die sup val) s t ∧ ringAt t die sup = { r with log2 := val % 16, en := true }) ∧
    (r.en = false → (val.testBit 4 = false ∨ val % 16 < 6 ∨ 12 < val % 16) →
      ∃ t, Runs (.faultRingEnable die sup val) s t ∧ (ringAt t die sup).en = false) ∧
    ((s.die die).packets = p :: rest → p.ring = 0 →
      let q := ringAt s die 0
      q.en = true → q.wr ≠ q.rd + 2 ^ q.log2 → dramLoc s (q.base + 64 * (q.wr % 2 ^ q.log2)) = some b → b % 64 = 0 →
      refuses s die (.dram b) = false → heldAt s .store (.dram b) = none → bankLive s (bankKey b) = false →
      claimedBy s none b 64 = false → s.homeq = [] → s.upsets = [] → s.poison = [] →
      ∃ t, Runs (.faultPacketDelivery die) s t ∧ (t.die die).packets = rest ∧ (ringAt t die 0).wr = q.wr + 1 ∧
        t.mem.readN b 64 = natToBytes 64 p.bits.toNat) ∧
    (s.pkg.firmware.isSome = true → (s.die die).svRun = false →
      ∃ t, Runs (.supervisorGo die) s t ∧ (t.die die).svRun = true ∧ t.mem = s.mem ∧
        ∀ i, i < 8 → let k := supCore die (i / 4) * 16 + i % 4
          let start := (s.die die).svpc.toList.getD i 0
          (start = 0 → t.ctx k = s.ctx k) ∧
          (start ≠ 0 → (s.core (supCore die (i / 4))).frozen = false → (t.ctx k).st = .ready ∧ (t.ctx k).pc = start ∧
            (t.ctx k).entry = .plain ∧ (t.ctx k).codeBase = (s.die die).svcBase ∧ (t.ctx k).codeLim = (s.die die).svcLim))

/-- An evictable context moves to an image in the lowest free slot and becomes idle; without a slot FULL is set; one
that is not evictable stays. Automatic eviction, once the first candidate has had no place for 4,096 cycles, takes the
context that has been blocked longest, and none while EVMIN is 0. An image whose condition is met returns to its free
context, ready, once nothing holds the slot's reads back; where its slot names no DRAM its program counter is the
image's own (the model's choice of log entry 41). A refused event that is retried is entered in its image, whose
condition it meets if it was such an event. An idle breakwater with a well-formed rectangle that meets no other fences
and freezes its cores; a reset makes their contexts idle; its end and the release follow in order. A fence of a
breakwater that is not idle or has a bad rectangle, a reset of one that is not fenced and a release of one that is
neither fenced nor reset are refused. -/
def Obligations.PreemptionAndBreakwaters : Prop :=
  ∀ (s : State) (die cid slot b k t0 : Nat) (cand : Cand) (v : Mid) (m : Image) (r : Retry) (rest : List Retry),
    let x := bwAt s die b
    let d := s.die (dieOf cid)
    (evictable s cid = true → freeSlot s (dieOf cid) = some slot → ∃ t, Runs (.debugEvict cid) s t ∧ (t.ctx cid).st = .idle ∧
      ∃ i ∈ (t.die (dieOf cid)).images, i.slot = slot ∧ i.cid = cid ∧ i.ctx.sregs = (s.ctx cid).sregs ∧
        i.ctx.pc = (s.ctx cid).pc ∧ i.ctx.wake = (s.ctx cid).wake) ∧
    (evictable s cid = true → freeSlot s (dieOf cid) = none → ∃ t, Runs (.debugEvict cid) s t ∧
      (t.die (dieOf cid)).svFull = true ∧ t.ctxs = s.ctxs) ∧
    (evictable s cid = false → Runs (.debugEvict cid) s s) ∧
    (dispatchRuns s die = true →
      ((s.die die).svEvmin = 0 → Runs (.automaticEviction die) s s) ∧
      ((s.die die).svEvmin ≠ 0 → (contextCands s die).head? = some cand →
        (nodeAt s (cand.nodes.headD 0)).bind (·.stuck) = some t0 → t0 + 4096 ≤ cycleOf s die →
        placeAll s die cand.nodes [] [] = none → (s.die die).lastEvict = none →
        longestBlocked s die (s.die die).svEvmin = some k → (freeSlot s (dieOf k)).isSome = true →
        ∃ t, Runs (.automaticEviction die) s t ∧ (t.ctx k).st = .idle)) ∧
    (d.images = [m] → m.cid = cid → m.due.isSome = true → m.ctx.met = true → (s.ctx cid).st = .idle →
      (s.core (coreOf cid)).frozen = false → (s.core (coreOf cid)).fenced = false → slotHeld s (dieOf cid) m.slot = none →
      ∃ t, Runs (.contextRestore cid) s t ∧ (t.ctx cid).st = .ready ∧ (t.die (dieOf cid)).images = [] ∧ t.mem = s.mem ∧
        (dramLoc s (slotAddr s (dieOf cid) m.slot 8) = none → (t.ctx cid).pc = m.ctx.pc)) ∧
    ((s.die die).retries = r :: rest → (s.die die).images = [m] → m.cid = r.cid → m.ctx.incarnation = r.inc →
      m.ctx.met = false → m.events = [] → r.kind ≠ 3 → r.source < 2 ^ 32 →
      ∃ t y, Runs (.wakeEventRetry die) s t ∧ (t.die die).images = [y] ∧ (t.die die).retries = rest ∧
        y.events = [(r.kind, r.source)] ∧ (r.meets = some v → y.ctx.met = true ∧ y.ctx.mid = v) ∧
        (r.meets = none → y.ctx = m.ctx)) ∧
    (x.st = 0 → bwRectOk x.rect = true → (∀ i, i < 8 → i ≠ b % 8 → (bwAt s die i).st = 0) →
      ∃ t, Runs (.breakwaterFence die b) s t ∧ (bwAt t die b).st = 1 ∧ t.mem = s.mem ∧
        ∀ c ∈ bwCores die x.rect, (t.core c).fenced = true ∧ (t.core c).frozen = true) ∧
    ((x.st ≠ 0 ∨ bwRectOk x.rect = false) → ∃ t, Runs (.breakwaterFence die b) s t ∧ (bwAt t die b).refused = true ∧
      t.ctxs = s.ctxs ∧ t.cores = s.cores) ∧
    (x.st ≠ 1 → ∃ t, Runs (.breakwaterReset die b) s t ∧ (bwAt t die b).refused = true ∧ (bwAt t die b).st = x.st ∧
      t.ctxs = s.ctxs ∧ t.cores = s.cores) ∧
    (x.st ≠ 1 → x.st ≠ 3 → ∃ t, Runs (.breakwaterRelease die b) s t ∧ (bwAt t die b).refused = true ∧
      (bwAt t die b).st = x.st ∧ t.ctxs = s.ctxs ∧ t.cores = s.cores) ∧
    (x.st = 1 → ∃ t, Runs (.breakwaterReset die b) s t ∧ (bwAt t die b).st = 2 ∧
      ∀ c ∈ bwCores die x.rect, ∀ i ∈ ctxsOf c, (t.ctx i).st = .idle) ∧
    (x.st = 2 → ∃ t, Runs (.breakwaterResetDone die b) s t ∧ (bwAt t die b).st = 3 ∧ t.ctxs = s.ctxs ∧
      ∀ c ∈ bwCores die x.rect, (t.core c).bwr = false) ∧
    ((x.st = 1 ∨ x.st = 3) → ∃ t, Runs (.breakwaterRelease die b) s t ∧ (bwAt t die b).st = 0 ∧
      ∀ c ∈ bwCores die x.rect, (t.core c).frozen = false ∧ (t.core c).fenced = false ∧ ∀ i ∈ ctxsOf c, (t.ctx i).st = .idle)

/-- A promotion instruction of a supervisor on a deep row sends its operation to the bank, with lookahead completing
at once and owing its status, and without it writing the status when the bank has answered. The bank serves the first:
PROMOTE gives 1 for a promoted row, 0 with the row in the lowest free slot, SHPIN and SHUNPIN 0 with the pin changed
and 2 for a row not promoted, a fenced bank 3. The reply to a task that has ended is dropped. A legal SHMODE write
starts a change, whose end demotes every slot and leaves every byte as before but those of the bank's addressed shelf
rows that have become slots, which are lost and read as unwritten; an illegal one is refused. Retiring a row maps its
logical row to a pool row and ends recorded. A due refresh counts, a scrub moves on. BCASTW of checked places, with
race records that one store takes, writes the register's 512 bytes at each. -/
def Obligations.BankOperations : Prop :=
  ∀ (s s1 : State) (la : BitVec 4) (d base : SReg) (imm : BitVec 32) (dem : Bool) (data : VReg) (v a bk val p q k : Nat)
    (op : BankOp) (rest : List BankOp) (x : PromoSlot) (ts : List Nat),
    let va := (s.rs base + immVal imm).toNat
    let b := s.bank bk
    let free := (slotRows b (op.row % 128)).find? fun i => (SMap.find? b.slots i).isNone
    let sent := fun (i : Instr) (kind : Nat) => ∃ t, Runs i s t ∧ t.mem = s.mem ∧
      (t.bank (bankKey a)).queue = (s.bank (bankKey a)).queue ++
        [{ uid := s.nextOp, cid := s.cur, kind := kind, row := rowNo a, dst := d, inc := s.me.incarnation }] ∧
      (la ≠ 0#4 → t.me.icount = s.me.icount + 1#64 ∧ ∃ w ∈ t.me.windows, w.bank = some s.nextOp ∧ w.dests = [.s d]) ∧
      (la = 0#4 → t.me.st = .stalled ∧ t.me.mid = .waiting (1000 + s.nextOp))
    (s.me.mid = .none → InDram s va 1 a → classOf a = 0 → sent (.promote la d base imm) 0 ∧ sent (.shpin la d base imm) 1 ∧
      sent (.shunpin la d base dem imm) (if dem then 3 else 2)) ∧
    (s.me.mid = .result v → Runs (.promote la d base imm) s (finish (s.setS d (BitVec.ofNat 64 v))) ∧
      Runs (.shpin la d base imm) s (finish (s.setS d (BitVec.ofNat 64 v))) ∧
      Runs (.shunpin la d base dem imm) s (finish (s.setS d (BitVec.ofNat 64 v)))) ∧
    (b.queue = op :: rest → b.shBusy = false → b.rtBusy = false → bankPublish s bk = false → op.cid ≠ newtAgent →
      (s.ctx op.cid).st = .stalled → (s.ctx op.cid).mid = .waiting (1000 + op.uid) → (s.ctx op.cid).incarnation = op.inc →
      let serves := fun (st : Nat) (f : State → Prop) => ∃ t, Runs (.bankOperation bk) s t ∧ Goes s t op.cid (.result st) ∧
        (t.bank bk).queue = rest ∧ f t
      (b.fenced = true → serves 3 fun _ => True) ∧
      (b.fenced = false → op.kind = 0 → (slotOfRow b op.row).isSome = true → serves 1 fun _ => True) ∧
      (b.fenced = false → op.kind = 0 → slotOfRow b op.row = none → free = some k →
        serves 0 fun t => ∃ y, SMap.find? (t.bank bk).slots k = some y ∧ y.row = op.row ∧ y.dirty = false) ∧
      (b.fenced = false → op.kind ≠ 0 → slotOfRow b op.row = none → serves 2 fun t => (t.bank bk).slots = b.slots) ∧
      (b.fenced = false → (op.kind = 1 ∨ op.kind = 2) → slotOfRow b op.row = some (k, x) → x.pin ≠ decide (op.kind = 1) →
        serves 0 fun t => SMap.find? (t.bank bk).slots k = some { x with pin := decide (op.kind = 1) })) ∧
    (b.queue = op :: rest → b.shBusy = false → b.rtBusy = false → bankPublish s bk = false → op.cid ≠ newtAgent →
      (s.ctx op.cid).incarnation ≠ op.inc → ∃ t, Runs (.bankOperation bk) s t ∧ (t.bank bk).queue = rest ∧ t.ctxs = s.ctxs) ∧
    (val % 8 < 5 → b.shBusy = false → bankInStep s bk = false → ∃ t, Runs (.shmodeWrite bk val) s t ∧
      (t.bank bk).shBusy = true ∧ (t.bank bk).shNew = val % 8 ∧ (t.bank bk).shmode = b.shmode ∧ t.mem = s.mem) ∧
    ((5 ≤ val % 8 ∨ b.shBusy = true ∨ bankInStep s bk = true) → ∃ t, Runs (.shmodeWrite bk val) s t ∧
      t.bank bk = { b with shRefused := true }) ∧
    (∃ t, Runs (.bkmodeClearRefused bk) s t ∧ t.bank bk = { b with shRefused := false }) ∧
    (b.shBusy = true → ∃ t, Runs (.shmodeChangeDone bk) s t ∧ (t.bank bk).shmode = b.shNew ∧ (t.bank bk).shBusy = false ∧
      (t.bank bk).slots = [] ∧ ∀ y, t.mem.read y = if regionOf y = 0 ∧ classOf y = 1 ∧ bankKey y = bk ∧
        shelfRows (t.bank bk) ≤ rowNo y then 0#8 else s.mem.read y) ∧
    (p < 61440 → b.rtBusy = false → p ∉ b.retired → bankInStep s bk = false → rowOwner b p = some k →
      poolRow b (p % 128) = some q → s.upsets = [] → s.poison = [] → ∃ t, Runs (.rowRetireGo bk p) s t ∧
        (t.bank bk).rtBusy = true ∧ p ∈ (t.bank bk).retired ∧ mapRow (t.bank bk) k = q ∧ t.mem = s.mem) ∧
    (p < 65536 → (61440 ≤ p ∨ p ∈ b.retired ∨ bankInStep s bk = true) → ∃ t, Runs (.rowRetireGo bk p) s t ∧
      (t.bank bk).rtRefused = true ∧ (t.bank bk).retired = b.retired) ∧
    (b.rtBusy = true → ∃ t, Runs (.rowRetireDone bk) s t ∧ (t.bank bk).rtBusy = false ∧
      (bk % 1536, b.rtRow) ∈ (t.die (bk / 1536)).retired) ∧
    ((b.refreshes + 1) * 3413 ≤ newtCycles s →
      ∃ t, Runs (.refresh bk) s t ∧ t.bank bk = { b with refreshes := b.refreshes + 1 } ∧ t.mem = s.mem) ∧
    (b.shBusy = false → b.rtBusy = false → bankLive s bk = false → s.upsets = [] → s.poison = [] →
      ∃ t, Runs (.patrolScrub bk) s t ∧ (t.bank bk).scrubRow = (b.scrubRow % 65536 + 1) % 65536 ∧ t.mem = s.mem) ∧
    (bcastCheck s va = .ok (ts, s1) → fifoFull s1 s.cur = false → s1.races.length ≤ 16384 → (∀ y ∈ ts, y % 512 = 0) →
      ∃ t, Runs (.bcastw la base data imm) s t ∧ ∀ y ∈ ts, t.mem.readN y 512 = natToBytes 512 (s.rv data).toNat)

/-- For a member with no earlier load of that side about to fault, operands of legal types, width and alignment whose
rows and scale words are read: MLDB puts its eighth with those rows and its groups' scales into the shadow and MGATH
its 16 rows and their scales into the latch, at once without lookahead and at the load's completion with it; a row
whose tag does not fit poisons what is loaded and halts the member's queue. Rows in a quiet vault are its published
bytes. MSCALE of FP32, with no earlier load of its own outstanding, replaces the scales of a loaded latch or sets
those of the shadow, and refuses an empty one and any other type. GANG waits at the gang's barrier, which with all
eight members publishes every written eighth, advances their intervals and lets them go on. In a context that is no
member each raises the illegal-operand fault. -/
def Obligations.MatrixLoads : Prop :=
  ∀ (s s1 s2 : State) (la : BitVec 4) (ty : ElemType) (base n stride : SReg) (idx a : VReg) (pair : BitVec 1) (imm : BitVec 32)
    (sp : Bool) (rs : List MRow) (g core : Nat) (l : MLoad) (rest : List MLoad) (gs : GroupScales) (sc : List Nat),
    let k := pairIx pair
    let w := (s.rs n).toNat
    let rows := if sp then 4 else 8
    let p := memberIndex s.cur
    let mine := coreOf s.cur
    let gang := gangOf s.cur
    let addrB := fun (r : Nat) => (s.rs base + wd (rows * p + r) * s.rs stride).toNat
    let ext := (s.rs stride).toNat
    let addrA := fun (i : Nat) => (s.rs base + wd (el .u32 (s.rv idx) i % ext) * BitVec.ofInt 64 imm.toInt).toNat
    let elemsB := (List.range rows).map fun r => ({ idx := r, va := addrB r, n := w * ty.width / 8 } : Elem)
    let elemsA := (List.range 16).map fun i => ({ idx := i, va := addrA i, n := 8 * ty.width } : Elem)
    let operand := ty ∈ ([.s4, .u4, .s8, .u8, .e4m3, .bf16] : List ElemType)
    let isB := fun (e : BEighth) => e.ty = ty ∧ e.sp = sp ∧ e.n = w
    let isA := fun (x : ALatch) => x.st = .loaded ∧ x.ty = ty ∧ x.rows = rs.map (·.val) ∧ x.scales = sc
    (isMember s s.cur = false → ∀ i ∈ [Instr.gang, .mgath la ty base idx stride pair imm, .mldb la ty base n stride pair sp,
      .mscale ty a pair false, .mscale ty a pair true], Traps i s { code := 0x12 }) ∧
    (isMember s s.cur = true → operand → w % 16 = 0 → 16 ≤ w → w ≤ 512 → (∀ r, r < rows → addrB r % (2 * ty.width) = 0) →
      lateLoad s true (some pair.toNat) = false → matrixRows s s.cur elemsB = .ok (rs, s1) →
      (rowsError ty true rs = none → groupScales ty s1 s.cur rs w = .ok (gs, s2) →
        (∃ (t : State) (e : BEighth), Runs (.mldb 0 ty base n stride pair sp) s t ∧ (p, s.me.interval, e) ∈ (t.gang gang).bshadow[k].eighths ∧
          isB e ∧ e.st = .loaded ∧ e.rows = rs.map (·.val) ∧ e.scales = gs.scales) ∧
        (la ≠ 0#4 → ∃ (t : State) (x : MLoad), Runs (.mldb la ty base n stride pair sp) s t ∧ (t.core mine).mloads = (s2.core mine).mloads ++ [x] ∧
          x.cid = s.cur ∧ x.bside = true ∧ x.err = none ∧ isB x.b ∧ x.b.rows = rs.map (·.val) ∧ x.b.scales = gs.scales)) ∧
      (rowsError ty true rs ≠ none → ∃ (t : State) (e : BEighth) (i : Nat), Runs (.mldb 0 ty base n stride pair sp) s t ∧
        (p, s.me.interval, e) ∈ (t.gang gang).bshadow[k].eighths ∧ e.st = .poisoned i ∧ (t.core mine).halted = some i)) ∧
    (isMember s s.cur = true → operand → 0 < ext → ext < 2 ^ 32 → (∀ i, i < 16 → addrA i % (8 * ty.width) = 0) →
      lateLoad s false (some pair.toNat) = false → matrixRows s s.cur elemsA = .ok (rs, s1) →
      (rowsError ty false rs = none → rowScales ty s1 s.cur rs = .ok (sc, s2) →
        (∃ t : State, Runs (.mgath 0 ty base idx stride pair imm) s t ∧ isA (t.core mine).alatch[k]) ∧
        (la ≠ 0#4 → ∃ (t : State) (x : MLoad), Runs (.mgath la ty base idx stride pair imm) s t ∧
          (t.core mine).mloads = (s2.core mine).mloads ++ [x] ∧ x.cid = s.cur ∧ x.bside = false ∧ x.err = none ∧
          x.a.rows = rs.map (·.val) ∧ x.a.scales = sc)) ∧
      (ty ≠ .e4m3 → rowScales ty s1 s.cur rs = .ok (rs.map fun _ => 0x3F800000, s1)) ∧
      (rowsError ty false rs ≠ none → ∃ (t : State) (i : Nat), Runs (.mgath 0 ty base idx stride pair imm) s t ∧
        (t.core mine).alatch[k].st = .poisoned i ∧ (t.core mine).halted = some i)) ∧
    (∀ (c m : Nat) (va place : Nat → Nat), Quiet s → (∀ r, r < c → InVault s (va r) m (place r)) →
      ∃ (xs : List MRow) (u : State), matrixRows s s.cur ((List.range c).map fun r => { idx := r, va := va r, n := m }) = .ok (xs, u) ∧
        xs.map (·.val) = (List.range c).map (fun r => bytesToNat (s.mem.readN (place r) m)) ∧ u.mem = s.mem ∧
        rowsError ty sp xs = none) ∧
    ((s.core core).mloads = l :: rest → coreOf l.cid = core → l.err = none → l.pair < 2 → ∃ t,
      Runs (.matrixOperandLoadDone core) s t ∧ (t.core core).mloads = rest ∧ t.mem = s.mem ∧
      (l.bside = false → l.pair = k.val → (t.core core).alatch[k] = { l.a with st := .loaded }) ∧
      (l.bside = true → l.pair = k.val →
        (colOf l.cid % 8, l.interval, { l.b with st := .loaded }) ∈ (t.gang (gangOf l.cid)).bshadow[k].eighths)) ∧
    (isMember s s.cur = true →
      ((s.core mine).alatch[k].st = .loaded → aLoading s pair = false → ∃ u : State,
        Runs (.mscale .fp32 a pair false) s (finish u) ∧
        (u.core mine).alatch[k] = { (s.core mine).alatch[k] with scales := (List.range 16).map fun i => el .fp32 (s.rv a) i }) ∧
      ((s.core mine).alatch[k].st = .empty → aLoading s pair = false → Traps (.mscale .fp32 a pair false) s { code := 0x12 }) ∧
      (ty ≠ .fp32 → Traps (.mscale ty a pair false) s { code := 0x12 } ∧ Traps (.mscale ty a pair true) s { code := 0x12 }) ∧
      ((s.gang gang).bshadow[k].eighths ≠ [] → bLoading s pair = false → ∃ u : State,
        Runs (.mscale .fp32 a pair true) s (finish u) ∧
        (p, s.me.interval, (List.range 4).map fun i => el .fp32 (s.rv a) i) ∈ (u.gang gang).bshadow[k].scales) ∧
      ((s.gang gang).retired = [] → s.me.mid = .none → (∀ x ∈ (s.core mine).mloads, x.bside = false) → lateLoad s true none = false →
        ∃ t : State, Runs .gang s t ∧ Kept s t ∧ t.me.st = .stalled ∧ t.me.atGang = true ∧ t.me.mid = .waiting 293) ∧
      (s.me.mid = .released → Runs .gang s (finish s))) ∧
    ((s.gang g).task ≠ none → (s.gang g).members.length = 8 → (s.gang g).members.Nodup →
      (∀ m ∈ (s.gang g).members, (s.ctx m).atGang = true ∧ (s.ctx m).st = .stalled) →
      ∃ t : State, Runs (.gangBarrierComplete g) s t ∧ t.mem = s.mem ∧
        (∀ m ∈ (s.gang g).members, (t.ctx m).st = .ready ∧ (t.ctx m).mid = .released ∧ (t.ctx m).atGang = false ∧
          (t.ctx m).interval = (s.ctx m).interval + 1 ∧ (t.ctx m).sregs = (s.ctx m).sregs ∧ (t.ctx m).pc = (s.ctx m).pc) ∧
        (t.gang g).bshadow[k].eighths = [] ∧
        ∀ (q : Fin 8) i e, (q.val, i, e) ∈ (s.gang g).bshadow[k].eighths →
          ((s.gang g).bshadow[k].eighths.map (·.1)).Nodup → (∀ x ∈ (s.gang g).bshadow[k].eighths, x.1 < 8) →
          (t.gang g).bpub[k].eighths[q] = e)

/-- MZERO sets a slice valid, zero in the columns of its width, of the class and width and ends its member's halt; the
words of other columns stay. With ready operands MMA and MMAS leave in every element of the slice the block of its A
row and its column, which MMAS expands by its legal mask, with the scales in force; a halted queue discards, which
leaves the slice not valid. An integer block is the exact sum, wrapped or saturated once. MCOMP stores the kept rows
of its matrix and writes the keep masks, of which every group has half its bits set and keeps no smaller magnitude
than it drops. MDRAIN without a cell writes the elements of its row and block scaled and rounded to its type, and in
its vault form the status of its writes. A slice that is not valid, a width or class that the spec does not allow, and
an illegal mask raise the illegal-operand fault. That SAT and NOV are taken without effect on types they do not act on
is the model's choice of log entry 73, and the alignment of MCOMP's rows its reading of log entry 36. -/
def Obligations.MatrixProducts : Prop :=
  ∀ (s s1 s2 : State) (la : BitVec 4) (ty cls : ElemType) (dst acc : AReg) (d vm : VReg) (n p q r : SReg) (rnd : Rounding)
    (fzi fzo sat zs nov nskip s48 : Bool) (pair : BitVec 1) (scope : Scope) (row blk : BitVec 4) (rs : List MRow)
    (ps : List Part) (st rec : Nat),
    let w := (s.rs n).toNat
    let wide := w % 16 = 0 ∧ 16 ≤ w ∧ w ≤ 512
    let k : FpCtl := { mode := modeOf s rnd, fzi := fzi, fzo := fzo }
    let mine := coreOf s.cur
    let b := (s.gang (gangOf s.cur)).bpub[pairIx pair]
    let clean := (s.core mine).halted = none ∧ b.poison = none
    let g := if s48 then 8 else 4
    let mask := fun (c : Nat) => (s.rv (vPlus vm (c / 64))).toNat / 2 ^ (64 * (c % 64)) % 2 ^ 64
    let halves := fun (m : Nat) => ∀ j, j < 64 / g → ((List.range g).filter fun i => m.testBit (g * j + i)).length = g / 2
    let x := sliceOf s acc
    let old := fun (i c : Nat) => (SMap.getD x.words (512 * i + c) 0#32).toNat
    let scale := if q = 0#6 then 0x3F800000 else (s.rs q).toNat % 2 ^ 32
    let kd : FpCtl := { mode := modeOf s rnd, fzi := false, fzo := fzo, nov := nov }
    let fp := fun (f : Nat) => if ty.isFloat then [RegWrite.fpflags f] else []
    let fpr := if ty.isFloat then [RegName.fpflags] else []
    let drains := (x.cls = .fp32 ∧ ty ∈ ([.e4m3, .bf16, .fp16, .fp32] : List ElemType)) ∨
      (x.cls = .s32 ∧ ty ∈ ([.s8, .s16, .s32] : List ElemType))
    (isMember s s.cur = true → (wide → (cls = .fp32 ∨ cls = .s32) → ∃ u : State, Runs (.mzero cls dst n) s (finish u) ∧
        u.cur = s.cur ∧ (sliceOf u dst).valid = true ∧ (sliceOf u dst).cls = cls ∧ (sliceOf u dst).n = w ∧
        (∀ i c, i < 16 → c < 512 → SMap.getD (sliceOf u dst).words (512 * i + c) 0#32 =
          if c < w then 0#32 else SMap.getD (sliceOf s dst).words (512 * i + c) 0#32) ∧ (u.core mine).halted = none ∧
        (∀ o, o ≠ dst → sliceOf u o = sliceOf s o) ∧ u.mem = s.mem ∧ u.ctxs = s.ctxs) ∧
      (¬wide → Traps (.mzero cls dst n) s { code := 0x12 })) ∧
    (MmaReady s cls dst w pair false →
      (clean → Multiplied (.mma la cls dst n rnd fzi fzo sat zs pair) s la cls dst w pair k sat zs (columnOf (bRows b))) ∧
      ((s.core mine).halted = some rec → ∃ t, Runs (.mma la cls dst n rnd fzi fzo sat zs pair) s t ∧
        (t.core mine).acc[dst.toNat]'dst.isLt = { sliceOf s dst with valid := false })) ∧
    (MmaReady s cls dst w pair true → vm.toNat + (w + 63) / 64 ≤ 32 →
      (clean → (∀ c, c < w → halves (mask c)) →
        Multiplied (.mmas la cls dst n vm rnd fzi fzo sat zs pair s48) s la cls dst w pair k sat zs
          (fun c => expandCol 64 (mask c) (columnOf (bRows b) c))) ∧
      (∀ c, c < w → ¬halves (mask c) → Traps (.mmas la cls dst n vm rnd fzi fzo sat zs pair s48) s { code := 0x12 })) ∧
    (∀ (m i : Nat) (xs : List Nat), i < 64 → (expandCol 64 m xs).getD i 0 =
      if m.testBit i then xs.getD ((List.range i).filter fun j => m.testBit j).length 0 else 0) ∧
    (∀ (c : FpCtl) (ta tb : ElemType) (o : Nat) (as bs : List Nat) (sa sb : Nat), mclass ta = .int → mclass tb = .int →
      o < 2 ^ 32 → (∀ y ∈ as, y < 2 ^ ta.width) → (∀ y ∈ bs, y < 2 ^ tb.width) → blockStep c sat zs ta tb o as bs sa sb =
        (fit .s32 sat (val .s32 o + ((as.zip bs).map fun y => val ta y.1 * val tb y.2).sum), 0)) ∧
    (isMember s s.cur = true → ((sliceOf s dst).valid = false → aLoading s pair = false →
        Traps (.mma la cls dst n rnd fzi fzo sat zs pair) s { code := 0x12 } ∧
        Traps (.mmas la cls dst n vm rnd fzi fzo sat zs pair s48) s { code := 0x12 }) ∧
      ((x.valid = false ∨ ¬drains) → Traps (.mdrain la ty d p q rnd fzo sat nov nskip scope acc row blk) s { code := 0x12 } ∧
        Traps (.mdrainVault la ty r n p q rnd fzo sat nov nskip scope acc) s { code := 0x12 })) ∧
    (let strides := s.rs (p + 1#6)
     let src := (List.range 64).map fun i => ({ idx := i, va := (s.rs n + wd i * BitVec.ofInt 64
        (strides.extractLsb' 0 32).toInt).toNat, n := (s.rs p).toNat * ty.width / 8 } : Elem)
     let outs := (List.range 32).map fun i => ({ idx := i, va := (s.rs q + wd i * BitVec.ofInt 64
        (strides.extractLsb' 32 32).toInt).toNat, n := (s.rs p).toNat * ty.width / 8 } : Elem)
     let N := (s.rs p).toNat
     let cols := (List.range N).map fun c => rs.map fun y => y.val / 2 ^ (ty.width * c) % 2 ^ ty.width
     let masks := cols.map (keepMask ty g)
     let stored := outs.map fun e => (e, natToBytes (N * ty.width / 8) (packElems ty.width
        ((cols.zip masks).map fun cm => (keptOf cm.2 cm.1).getD e.idx 0)))
     ty ∈ ([.s8, .u8, .e4m3, .bf16] : List ElemType) → p.toNat % 2 = 0 → p.toNat < 62 → N % 16 = 0 → 16 ≤ N → N ≤ 512 →
      d.toNat + (N + 63) / 64 ≤ 32 → (∀ e ∈ src ++ outs, e.va % (ty.width / 8) = 0) →
      (∃ y, checkAll s outs (fun s e => checkStore s s.cur .store .wt true e) = .ok y) →
      matrixRows s s.cur src = .ok (rs, s1) → storeElems mmioOps s1 s.cur .wt stored = .ok s2 →
      ∃ regs ws, Runs (.mcomp la ty d n q p s48) s (finishLong s2 la regs ws) ∧ ws.length = (N + 63) / 64 ∧
        ∀ i, i < (N + 63) / 64 → ∃ v, ws[i]? = some (RegWrite.v (vPlus d i) v) ∧
          ∀ j, j < 64 → 64 * i + j < N → v.toNat / 2 ^ (64 * j) % 2 ^ 64 = masks.getD (64 * i + j) 0) ∧
    (∀ col : List Nat, col.length = 64 → halves (keepMask ty g col) ∧ ∀ i j, i < 64 → j < 64 → i / g = j / g →
      (keepMask ty g col).testBit i = true → (keepMask ty g col).testBit j = false →
      compMag ty (col.getD j 0) < compMag ty (col.getD i 0) ∨ (compMag ty (col.getD j 0) = compMag ty (col.getD i 0) ∧ i < j)) ∧
    (isMember s s.cur = true → x.valid = true → drains → s.rs p = 0#64 →
      (blk.toNat * ty.count < x.n → ∃ v fl,
        Runs (.mdrain la ty d p q rnd fzo sat nov nskip scope acc row blk) s
          (finishLong s la (.v d :: fpr) (.v d v :: fp fl)) ∧
        ∀ i, i < ty.count → el ty v i = if blk.toNat * ty.count + i < x.n then
          (drainElem x.cls ty kd sat scale (old row.toNat (blk.toNat * ty.count + i))).1 % 2 ^ ty.width else 0) ∧
      (x.n ≤ blk.toNat * ty.count → Traps (.mdrain la ty d p q rnd fzo sat nov nskip scope acc row blk) s { code := 0x12 }) ∧
      (let size := 16 * (x.n * ty.width / 8)
       let ys := ((List.range 16).map fun i => (List.range x.n).map fun c =>
         (drainElem x.cls ty kd sat scale (old i c)).1).flatten
       drainParts s (s.rs n).toNat size = .ok (ps, s1) →
        drainWrite s1 ps (natToBytes size (packElems ty.width ys)) = .ok (st, s2) →
        ∃ fl, Runs (.mdrainVault la ty r n p q rnd fzo sat nov nskip scope acc) s
          (finishLong s2 la (.s r :: fpr) (.s r (wd st) :: fp fl)))) ∧
    (∀ (y : Nat), y < 2 ^ 32 → drainElem .s32 ty kd sat scale y = (fit ty sat (val .s32 y), 0))

/-- With its release made, a handle that is not pending and legal operands, outside a redundant run: COPY and COPY2D
take the lowest-numbered free engine where their places need no page walk, or stall without an engine; PUT and GET,
with a local place that needs none, and RADD start with their endpoint, addresses, bytes and DET; the handle is
pending on the new operation. TRIG arms its record in a table with room and otherwise completes the handle with status
10; CNTI adds or sets its counter, and an armed trigger that only adds fires when its counter reaches its threshold;
CNTR reads a counter. A pending handle, a length above 2^32, an odd pair, an illegal shape, type or destination raise
the illegal-operand fault; that COPY2D's rows above 2^24 bytes do is the model's reading of log entry 52. -/
def Obligations.EngineInstructions : Prop :=
  ∀ (s s2 : State) (ty : ElemType) (h : HReg) (d a b n : SReg) (req : ReqType) (scope : Scope) (drain sig set : Bool)
    (ep : BitVec 16) (c : BitVec 8) (k i : Nat) (rec : BitVec 512) (t : Trigger),
    let die := dieOf s.cur
    let len := (s.rs n).toNat
    let next := s.rs (n + 1#6)
    let w0 := (s.rs n).toNat
    let det := s.me.mode.getLsbD 0
    let rows := shapeRows (s.rs d).toNat (s.rs a).toNat w0 next.toNat
    let shape := w0 % 2 ^ 32 ≠ 0 ∧ w0 % 2 ^ 32 ≤ 2 ^ 24 ∧ w0 / 2 ^ 32 % 2 ^ 16 ≠ 0 ∧ w0 / 2 ^ 48 % 2 ^ 16 = 0
    let bad := fun (va m : Nat) => destIllegal s (spaceOf s s.cur) va m
    let near := fun (va m : Nat) => Direct (some (spaceOf s s.cur)) va m
    let started := fun (j : Instr) (f : EngOp → Prop) => ∃ u : State, Runs j s (finish u) ∧ u.me.getH h = .pending s.nextOp ∧
      ∃ o, SMap.find? u.ops s.nextOp = some o ∧ o.cid = s.cur ∧ o.scope = scope ∧ f o
    let stalls := fun (j : Instr) => ∃ u, Runs j s u ∧ Kept s u ∧ u.me.st = .stalled
    let idle := ∀ op, s.me.getH h ≠ .pending op
    let cnt := fun (u : State) (j : Nat) => SMap.getD (u.die die).counters j 0#64
    let field := fun (r : BitVec 512) (lo w : Nat) => r.toNat / 2 ^ lo % 2 ^ w
    let v := if set then s.rs b else cnt s c.toNat + s.rs b
    (s.me.mid = .released → idle → s.me.node = none →
      (len ≤ 2 ^ 32 → bad (s.rs d).toNat len = false → near (s.rs d).toNat len →
        (freeEngine s die = some k → near (s.rs a).toNat len → started (.copy h d a n req scope drain) fun o => o.kind = .copy ∧ o.engine = k ∧
          o.total = len ∧ o.drain = drain) ∧
        (freeEngine s die = none → stalls (.copy h d a n req scope drain)) ∧
        started (.get h d a n req scope ep) fun o => o.kind = .get ∧ o.ep = ep.toNat ∧ o.raddr = (s.rs a).toNat ∧
          o.total = len ∧ o.det = det) ∧
      (n.toNat % 2 = 0 → n.toNat < 62 → shape → (∀ r ∈ rows, bad r.1 r.2.2 = false) →
        (freeEngine s die = some k → (∀ r ∈ rows, near r.1 r.2.2 ∧ near r.2.1 r.2.2) → started (.copy2d h d a n req scope drain) fun o => o.kind = .copy ∧ o.engine = k ∧
          o.total = (w0 / 2 ^ 32 % 2 ^ 16) * (w0 % 2 ^ 32)) ∧
        (freeEngine s die = none → stalls (.copy2d h d a n req scope drain))) ∧
      (len ≤ 2 ^ 32 → (sig = true → n.toNat % 2 = 0) → near (s.rs a).toNat len → started (.put h d a n req scope sig ep) fun o => o.kind = .put ∧
        o.ep = ep.toNat ∧ o.raddr = (s.rs d).toNat ∧ o.total = len ∧ o.det = det ∧
        o.sig = if sig then some next.toNat else none) ∧
      ((ty = .s32 ∨ ty = .s64) → started (.radd ty h d b ⟨req, scope⟩ ep) fun o => o.kind = .radd ∧ o.ep = ep.toNat ∧
        o.raddr = (s.rs d).toNat ∧ o.snap = natToBytes (if ty = .s32 then 4 else 8) (s.rs b).toNat ∧
        o.stage = if peerStatus s die (sideIo die) ep.toNat det = 0 then 2 else 3) ∧
      (trigCheck s h (s.rs a).toNat = .ok (rec, s2) →
        (1024 ≤ (s2.die die).triggers.length → Runs (.trig h a ⟨req, scope⟩) s (finish (s2.setH h (.complete 10#64 scope)))) ∧
        ((s2.die die).triggers = [] → (cnt s2 (field rec 8 8)).toNat < field rec 64 64 → ∃ (u : State) (x : Nat × Trigger),
          Runs (.trig h a ⟨req, scope⟩) s (finish u) ∧ (u.die die).triggers = [x] ∧ x.2.bits = rec ∧ x.2.fired = false ∧
          u.me.getH h = .pending x.2.op))) ∧
    (s.me.mid = .released →
      ((s.die die).triggers = [] → ∃ u : State, Runs (.cnti c b scope set) s (finish u) ∧ u.ctxs = s.ctxs ∧ u.mem = s.mem ∧
        cnt u c.toNat = v ∧ ∀ j, j ≠ c.toNat → cnt u j = cnt s j) ∧
      ((s.die die).triggers = [(i, t)] → t.fired = false → field t.bits 0 8 = 5 → field t.bits 8 8 = c.toNat →
        field t.bits 16 8 ≠ c.toNat → field t.bits 64 64 ≤ v.toNat → ∃ u : State, Runs (.cnti c b scope set) s (finish u) ∧
        cnt u c.toNat = v ∧ cnt u (field t.bits 16 8) = cnt s (field t.bits 16 8) + BitVec.ofNat 64 (field t.bits 384 64) ∧
        (u.die die).triggers = [])) ∧
    Runs (.cntr d c) s (finish (s.setS d (cnt s c.toNat))) ∧
    (s.me.node = none →
      (¬idle → Traps (.copy h d a n req scope drain) s { code := 0x12 } ∧ Traps (.put h d a n req scope sig ep) s { code := 0x12 } ∧
        Traps (.get h d a n req scope ep) s { code := 0x12 } ∧ Traps (.radd ty h d b ⟨req, scope⟩ ep) s { code := 0x12 }) ∧
      (2 ^ 32 < len → Traps (.copy h d a n req scope drain) s { code := 0x12 } ∧
        Traps (.put h d a n req scope sig ep) s { code := 0x12 } ∧ Traps (.get h d a n req scope ep) s { code := 0x12 }) ∧
      ((n.toNat % 2 = 1 ∨ 62 ≤ n.toNat ∨ ¬shape) → Traps (.copy2d h d a n req scope drain) s { code := 0x12 }) ∧
      (¬(ty = .s32 ∨ ty = .s64) → Traps (.radd ty h d b ⟨req, scope⟩ ep) s { code := 0x12 }) ∧
      (s.me.mid = .none → (s.rs a).toNat % 64 ≠ 0 → Traps (.trig h a ⟨req, scope⟩) s { code := 0x12 }))

/-- With nothing to drop at an acquire, HTEST, HWAIT and HWAIT.T give a completed operation's status, HWAIT freeing
the handle; on a pending one HTEST gives -1 and the waits block; on an idle one HTEST gives -2 and HWAIT raises the
illegal-operand fault; a stale token gives 7. HMOV moves a handle to an idle one, HTOK to the next token, HCANCEL asks
a pending operation to stop with status 1. A waiting copy whose places need no page walk starts on a free engine. A
copy between vaults that ends leaves exactly its destination changed, to its source's bytes, and its handles complete
with 0. An arrival fills its tile and stores its bytes. A posted request is merged at its home, a device's once
nothing holds it back, and one to a row that has become promotion slots dropped, a held completion store is made once
its target is free, a remote load's reply reaches its task, which goes on with the bytes that it awaits. -/
def Obligations.HandlesAndEngineEvents : Prop :=
  ∀ (s s1 : State) (h g : HReg) (d k : SReg) (op die eng cid a b n v e idx : Nat) (st : Word) (sc : Scope) (o : EngOp)
    (w : Waiting) (rest : List Waiting) (bs : List Byte) (ps : List (Nat × Nat)) (r : HomeReq) (rs : List HomeReq)
    (f : Deferred),
    let tok := (s.rs k).toNat
    let my := s.die (dieOf s.cur)
    let entry := SMap.getD my.tokens (tok % 4096) {}
    let free := SMap.getD my.tokens (my.tokNext % 4096) {}
    let gets := fun (i : Instr) (h' : Handle) (val : Word) => ∃ u, Kept s u ∧
      Runs i s (finish ((if h' = .idle then u.setH h .idle else u).setS d val))
    let blocks := fun (i : Instr) (wk : Wake) => ∃ t, Runs i s t ∧ Kept s t ∧ t.me.st = .blocked ∧ t.me.wake = wk ∧
      t.me.deadline = 0
    let still := ∀ p ∈ s.dies, p.2.images = []
    let clean := s.upsets = [] ∧ s.poison = [] ∧ s.races = [] ∧ s.homeq = [] ∧ s.tiles = []
    let named := tok / 2 ^ 20 = 0 ∧ tok / 2 ^ 16 % 16 = dieOf s.cur
    (Settled s (coreOf s.cur) →
      (s.me.getH h = .complete st sc → gets (.htest d h) (.complete st sc) st ∧ gets (.hwait d h) .idle st) ∧
      (named → entry.gen = tok / 2 ^ 12 % 16 → entry.h = .complete st sc → gets (.hwaitToken d k) (.complete st sc) st)) ∧
    (s.me.getH h = .pending op → Runs (.htest d h) s (finish (s.setS d (BitVec.ofInt 64 (-1)))) ∧
      blocks (.hwait d h) (.handle h.toNat)) ∧
    (s.me.getH h = .idle → Runs (.htest d h) s (finish (s.setS d (BitVec.ofInt 64 (-2)))) ∧
      Traps (.hwait d h) s { code := 0x12 } ∧ Traps (.htok d h) s { code := 0x12 } ∧ Runs (.hcancel h) s (finish s)) ∧
    (named → entry.gen = tok / 2 ^ 12 % 16 → entry.h = .pending op → blocks (.hwaitToken d k) (.token tok)) ∧
    (named → entry.gen ≠ tok / 2 ^ 12 % 16 → Runs (.hwaitToken d k) s (finish (s.setS d 7#64))) ∧
    (¬named → Traps (.hwaitToken d k) s { code := 0x12 }) ∧
    (s.me.getH g = .idle → Runs (.hmov g h) s (finish ((s.setH g (s.me.getH h)).setH h .idle))) ∧
    (s.me.getH g ≠ .idle → Traps (.hmov g h) s { code := 0x12 }) ∧
    (s.me.getH h ≠ .idle → (∀ p, free.h ≠ .pending p) → ∃ u : State, Runs (.htok d h) s
        (finish (u.setS d (BitVec.ofNat 64 (my.tokNext % 4096 + (free.gen + 1) % 16 * 2 ^ 12 + dieOf s.cur * 2 ^ 16)))) ∧
      u.cur = s.cur ∧ u.mem = s.mem ∧ u.me.getH h = .idle ∧ (u.die (dieOf s.cur)).tokNext = (my.tokNext % 4096 + 1) % 4096 ∧
      SMap.getD (u.die (dieOf s.cur)).tokens (my.tokNext % 4096) {} = { gen := (free.gen + 1) % 16, h := s.me.getH h }) ∧
    (s.me.getH h = .pending op → SMap.find? s.ops op = some o → o.stage ≠ 3 → (∀ p ∈ s.graphs, p.2.op ≠ op) →
      stepOfOp s op = none → (∀ p ∈ s.dies, p.2.waiting = [] ∧ p.2.triggers = []) → ∃ u : State,
      Runs (.hcancel h) s (finish u) ∧ SMap.find? u.ops op = some { o with stage := 3, status := 1 } ∧ u.mem = s.mem) ∧
    ((s.die die).waiting = w :: rest → freeEngine s die = some eng → (s.die die).triggers = [] →
      Direct w.sp w.dst w.len → Direct w.sp w.src w.len → ∃ t y, Runs (.copyEngineStart die) s t ∧
      (t.die die).waiting = rest ∧ SMap.find? t.ops w.op = some y ∧ y.kind = .copy ∧ y.engine = eng ∧ y.total = w.len ∧
      y.dest = w.dest) ∧
    (clean → Committable s → still → (∀ p ∈ s.pend, p.owner = .op op ∧ p.sector = b / 64 ∧ p.mask = byteMask b n ∧
      p.bytes.length = 64) → SMap.find? s.ops op = some o → o.stage = 2 → o.kind = .copy → o.run = none → o.ord = false →
      o.freed = false → o.tileSrc = none → o.tileDst = none → o.dest = .none → o.src = [(a, n)] → o.dst = [(b, n)] → 0 < n →
      a % 64 + n ≤ 64 → b % 64 + n ≤ 64 → regionOf a = 1 → regionOf b = 1 → (∀ x ∈ [a, b], refusesUnit s o.die (.vault x) = false ∧
      parkedAt s (.vault x) = none) → o.snap = s.mem.readN a n → ∃ t, Runs (.engineOperationComplete op) s t ∧ t.mem.readN b n = s.mem.readN a n ∧
        (∀ y, (y < b ∨ b + n ≤ y) → t.mem.read y = s.mem.read y) ∧ SMap.find? t.ops op = none ∧ t.pend = [] ∧
        ∀ i j, (s.ctx i).getH j = .pending op → (t.ctx i).getH j = .complete 0#64 o.scope) ∧
    (SMap.find? s.ops op = some o → o.stage = 2 → o.kind = .copy → o.run = none → o.freed = false → o.tileDst = some (v, e) → o.done < o.total →
      slicePieces o.dst o.done (min 256 (o.total - o.done)) = (b, n) :: ps → (s.tile (v * 128 + e)).st = .filling →
      (s.tile (v * 128 + e)).arrived + n ≤ (s.tile (v * 128 + e)).expect →
      refusesUnit s o.die (keyLoc b) = false → heldAt s .store (keyLoc b) = none →
      engineRead readOps s o.die o.req none (slicePieces o.src o.done n) = .ok (bs, s1) → (o.snap.drop o.done).take n = bs →
      ∃ t y, Runs (.tileArrival op) s t ∧ SMap.find? t.ops op = some { o with done := o.done + n } ∧
        t.tile (v * 128 + e) = y ∧ y.arrived = (s.tile (v * 128 + e)).arrived + n ∧
        (y.st = .ready ↔ y.arrived = (s.tile (v * 128 + e)).expect) ∧
        (0 < n → b % 64 + n ≤ 64 → bs.length = n → t.mem.readN b n = bs)) ∧
    (s.homeq = r :: rs → rowGone s r.sector = true → ∃ t, Runs (.homeRequest 0) s t ∧ t.homeq = rs ∧ t.mem = s.mem) ∧
    (s.homeq = r :: rs → r.bytes.length = 64 → s.races.length ≤ 16384 → rowGone s r.sector = false →
      (r.dev = true → writeHeld { s with homeq := rs } r.sector = none) → ∃ t, Runs (.homeRequest 0) s t ∧ t.homeq = rs ∧ ∀ y, t.mem.read y =
      if y / 64 = r.sector ∧ r.mask.testBit (y % 64) = true then r.bytes.getD (y % 64) 0#8 else s.mem.read y) ∧
    ((s.die (dieOf cid)).remotes.find? (fun x => x.1 == cid) = some (cid, (s.ctx cid).incarnation) → still →
      (s.ctx cid).st = .blocked → (s.ctx cid).mid = .waiting 6 → (s.ctx cid).wake.kind = 6 → ∃ t, Runs (.remoteLoadReply cid) s t ∧
      Goes s t cid (.result 0) ∧ (t.ctx cid).reply.length = awaitSize (s.ctx cid)) ∧
    (clean → s.deferred[idx]? = some f → (s.deferred.take idx).all (fun y => y.addr != f.addr) = true →
      storeWaits { s with deferred := [] } f.addr = false → regionOf f.addr = 1 → f.addr % 8 = 0 →
      f.after = .none → refusesUnit s f.unit (.vault f.addr) = false → ∃ t, Runs (.deferredCompletionStore idx) s t ∧
        t.deferred = s.deferred.eraseIdx idx ∧ t.mem.readN f.addr 8 = natToBytes 8 f.value ∧
        ∀ y, (y < f.addr ∨ f.addr + 8 ≤ y) → t.mem.read y = s.mem.read y)

/-- RGRP gives the lowest free entry, cleared of its validity, serial and failures, with its generation and the banks
of its spec, or -1 with none free. For a number that names an allocated group of the die with its generation:
RGRP.FREE answers 0 and advances the generation, or 1 while steps are queued; NLOAD stalls while the words it has read
are copied, and its end writes them to every member with the group's tag and gives 0, or 2 where a member is fenced,
and writes nothing where the group has been freed; REDCFG of a legal configuration sets the tree; RSTEP of a checked
descriptor queues an armed step and leaves its handle pending, and a ninth step stalls. Any other number, an illegal
spec, program or configuration raises the illegal-operand fault. -/
def Obligations.RankGroups : Prop :=
  ∀ (s s1 : State) (d g a n : SReg) (h : HReg) (e cid st : Nat) (bs : List Byte) (p : Phys) (b : BitVec 512)
    (cw : Option Nat) (job : NLoadJob),
    let die := dieOf s.cur
    let w := (s.rs g).toNat
    let x := groupAt s die e
    let names := fun (i : Nat) => w % 2 ^ 6 = i ∧ w / 2 ^ 6 % 4 = 0 ∧ w / 2 ^ 8 % 16 = die ∧ w / 2 ^ 12 % 16 = (groupAt s die i).gen ∧
      w / 2 ^ 16 = 0 ∧ (groupAt s die i).en = true
    let first := w % 2 ^ 11
    let log2 := w / 2 ^ 16 % 16
    let spec := w / 2 ^ 11 % 2 ^ 5 = 0 ∧ w / 2 ^ 20 = 0 ∧ log2 ≤ 9 ∧ first % 2 ^ log2 = 0 ∧ first + 2 ^ log2 ≤ 1536
    let va := (s.rs a).toNat
    let k := (s.rs n).toNat
    let tree := fun (c : Nat) => c / 2 ^ 13 = 0 ∧ c % 4 ≠ 3 ∧ c / 4 % 16 < 9 ∧ (c / 4 % 16 = 5 → c / 64 % 128 % 2 = 1) ∧
      (6 ≤ c / 4 % 16 → c / 64 % 128 = 127)
    (spec → (∀ i : Nat, i < 64 → (groupAt s die i).en = true) → Runs (.rgrp d g) s (finish (s.setS d (BitVec.ofInt 64 (-1))))) ∧
    (spec → e < 64 → x.en = false → (∀ i : Nat, i < e → (groupAt s die i).en = true) → ∃ u : State,
      Runs (.rgrp d g) s (finish (u.setS d (BitVec.ofNat 64 (e + die * 2 ^ 8 + x.gen * 2 ^ 12)))) ∧ u.ctxs = s.ctxs ∧
      groupAt u die e = { x with
        en := true, first := first, log2 := log2, valid := false, serial := 0, fail0 := 0#64, fail1 := 0#64, fail2 := 0#64
        steps := [] } ∧
      ∀ i, i ≠ e → groupAt u die i = groupAt s die i) ∧
    (¬spec → Traps (.rgrp d g) s { code := 0x12 }) ∧
    (names e →
      (x.steps ≠ [] → Runs (.rgrpFree d g) s (finish (s.setS d 1#64)) ∧
        (s.me.mid = .none → 0 < k → k ≤ 256 → va % 8 = 0 → Runs (.nload d g a n) s (finish (s.setS d 1#64)))) ∧
      (x.steps = [] → ∃ u : State, Runs (.rgrpFree d g) s (finish (u.setS d 0#64)) ∧ u.ctxs = s.ctxs ∧
        groupAt u die e = { x with en := false, gen := (x.gen + 1) % 16 }) ∧
      (x.steps = [] → s.me.mid = .none → 0 < k → k ≤ 256 → va % 8 = 0 → loadWords s va k = .ok (bs, s1) → s1.cur = s.cur →
        ∃ (t : State) (j : NLoadJob), Runs (.nload d g a n) s t ∧ (t.die die).nloads = (s1.die die).nloads ++ [j] ∧ t.me.st = .stalled ∧
          t.me.mid = .waiting 322 ∧ j.cid = s.cur ∧ j.group = w ∧ j.first = x.first ∧ j.size = 2 ^ x.log2 ∧
          j.words.length = k ∧ ∀ i, i < k → j.words.getD i 0#64 = BitVec.ofNat 64 (bytesToNat ((bs.drop (8 * i)).take 8))) ∧
      (s.me.mid = .none → (k = 0 ∨ 256 < k ∨ va % 8 ≠ 0) → Traps (.nload d g a n) s { code := 0x12 }) ∧
      (tree k → va % 64 = 0 → translate s s.cur .store .own va 64 0 = .ok (p, s1) → p.tide = false →
        (∃ y, p.loc = .vault y) → ∃ u : State, Runs (.redcfg d g n a) s (finish (u.setS d 0#64)) ∧
        groupAt u die e = { groupAt s1 die e with valid := true, shape := k % 4, oper := k / 4 % 16, words := k / 64 % 128,
                                                  tres := p.pa }) ∧
      ((¬tree k ∨ va % 64 ≠ 0) → Traps (.redcfg d g n a) s { code := 0x12 })) ∧
    ((∀ i : Nat, i < 64 → ¬names i) → Traps (.rgrpFree d g) s { code := 0x12 } ∧ Traps (.redcfg d g n a) s { code := 0x12 } ∧
      (s.me.mid = .none → Traps (.nload d g a n) s { code := 0x12 })) ∧
    (s.me.mid = .result st → Runs (.nload d g a n) s (finish (s.setS d (BitVec.ofNat 64 st)))) ∧
    (s.me.node = none → s.me.mid = .released → rstepCheck s h (s.rs g) va = .ok (e, b, cw, s1) → s1.cur = s.cur →
      ((groupAt s1 die e).steps.length < 8 → ∃ (u : State) (y : RStep), Runs (.rstep h g a) s (finish u) ∧
        u.me.getH h = .pending y.op ∧ (groupAt u die e).steps = (groupAt s1 die e).steps ++ [y] ∧ y.bits = b ∧ y.cwpa = cw ∧
        y.phase = .armed ∧ y.gen = (groupAt s1 die e).gen ∧ y.since = newtCycles s1) ∧
      (8 ≤ (groupAt s1 die e).steps.length → ∃ u, Runs (.rstep h g a) s u ∧ u.me.st = .stalled ∧ u.me.pc = s1.me.pc)) ∧
    ((s.die (dieOf cid)).nloads = [job] → job.cid = cid → (s.ctx cid).mid = .waiting 322 → (s.ctx cid).st = .stalled →
      let bank := fun (i : Nat) => dieOf cid * 1536 + job.first + i
      ((namedGroup s (dieOf cid) job.group).isNone = true → ∃ (t : State) (r : Nat), Runs (.nloadCopyDone cid) s t ∧ Goes s t cid (.result r) ∧
        ∀ k, t.bank k = s.bank k) ∧
      ((namedGroup s (dieOf cid) job.group).isSome = true → (∀ i : Nat, i < job.size → (s.bank (bank i)).fenced = false) → ∃ t : State, Runs (.nloadCopyDone cid) s t ∧ Goes s t cid (.result 0) ∧
        (t.die (dieOf cid)).nloads = [] ∧ ∀ i, i < job.size → (t.bank (bank i)).progTag = some job.group ∧
          ∀ j, SMap.getD (t.bank (bank i)).prog j 0#64 =
            if j < job.words.length then job.words.getD j 0#64 else SMap.getD (s.bank (bank i)).prog j 0#64) ∧
      ((namedGroup s (dieOf cid) job.group).isSome = true → (∃ i, i < job.size ∧ (s.bank (bank i)).fenced = true) → ∃ t : State, Runs (.nloadCopyDone cid) s t ∧
        Goes s t cid (.result 2) ∧ ∀ k, (s.bank k).fenced = true → t.bank k = s.bank k))

/-- For a number that names an allocated group of the issuing core's die with its generation, RSTAT answers a next
state whose destination holds GCTL for selector 0 (EN, the head step's state, GEN, FIRST, LOG2, SERIAL and QUEUED at
their places) and GFAIL0, GFAIL1 or GFAIL2 for selectors 1 to 3, and which is otherwise the state after any
instruction: no memory is accessed and no record is made. Any other selector raises the illegal-operand fault. -/
def Obligations.RankStatus : Prop :=
  ∀ (s : State) (d g : SReg) (sel : BitVec 32) (e : Nat),
    let die := dieOf s.cur
    let w := (s.rs g).toNat
    let x := groupAt s die e
    let state := match x.steps with
      | [] => 0
      | st :: _ => match st.phase with
        | .armed => 1
        | .flood => 2
        | .move => 3
        | .publish => 4
    w % 2 ^ 6 = e → w / 2 ^ 6 % 4 = 0 → w / 2 ^ 8 % 16 = die → w / 2 ^ 12 % 16 = x.gen → w / 2 ^ 16 = 0 → x.en = true →
      (sel = 0#32 → Runs (.rstat d g sel) s (finish (s.setS d (BitVec.ofNat 64 (1 + state * 2 + x.gen * 2 ^ 4 +
        x.first * 2 ^ 8 + x.log2 * 2 ^ 19 + x.serial % 2 ^ 16 * 2 ^ 32 + x.steps.length * 2 ^ 48))))) ∧
      (sel = 1#32 → Runs (.rstat d g sel) s (finish (s.setS d x.fail0))) ∧
      (sel = 2#32 → Runs (.rstat d g sel) s (finish (s.setS d x.fail1))) ∧
      (sel = 3#32 → Runs (.rstat d g sel) s (finish (s.setS d x.fail2))) ∧
      (3 < sel.toNat → Traps (.rstat d g sel) s { code := 0x12 })

/-- With no timeout overdue, the head step leaves armed when R327 lets it and its members hold the group's program,
its newts starting at ENTRY; a fenced member or another program aborts it. A word that moves a constant to a register
writes it and goes on; HALT halts, and the last newt's ends the flood; a move to a port that does not exist aborts the
step with cause 0x20, unless a lower rank fails too. A ready result is no longer awaited. SHIFT leaves in each
destination's rows the rows of its source as they stood. Publication changes exactly the bytes that its shadows hold,
counts, and completes the step's handles with 0; an expired timeout aborts it with 0x25. A tree that adds integers
gives their sum modulo 2^32. -/
def Obligations.RankSteps : Prop :=
  ∀ (s s1 : State) (die grp bank unit k dr f : Nat) (st : RStep) (rest : List RStep) (x : NewtAt) (r : Fin 32) (imm : BitVec 12)
    (sh : Shadow) (leaves : List (List Nat)),
    let g := groupAt s die grp
    let lead := fun (t : State) (ph : StepPhase) => (groupAt t die grp).steps = { st with phase := ph } :: rest
    let done := fun (t : State) (op status : Nat) => ∀ i j, (s.ctx i).getH j = .pending op →
      (t.ctx i).getH j = .complete (BitVec.ofNat 64 status) .die
    let failed := fun (t : State) (d e cause rank : Nat) (y : RStep) => (groupAt t d e).steps = [] ∧ done t y.op cause ∧
      (groupAt t d e).fail0.toNat % 2 ^ 8 = cause ∧ (groupAt t d e).fail0.getLsbD 31 = true ∧
      (groupAt t d e).fail0.toNat / 2 ^ 16 % 2 ^ 9 = rank % 2 ^ 9
    let member := fun (r : Nat) => s.bank (die * 1536 + g.first + r)
    let number := grp + die * 2 ^ 8 + g.gen * 2 ^ 12
    let n := (s.bank bank).newt
    let word := fun (lo : Nat) => SMap.getD (s.bank bank).prog n.pc 0#64 = BitVec.ofNat 64 (lo + (0xFF * 2 ^ 13 + 2 ^ 12) * 2 ^ 32)
    let others := ∀ i, i < 2 ^ x.grp.log2 → x.die * 1536 + x.grp.first + i ≠ bank →
      (s.bank (x.die * 1536 + x.grp.first + i)).newt.halted = true
    (g.steps = st :: rest → st.phase = .armed → overdue s die grp = none →
      (mayLeave s die grp = true → (∀ i, i < 2 ^ g.log2 → (member i).fenced = false ∧ (member i).progTag = some number) →
        s.homeq = [] → s.races.length ≤ 16384 → ∃ t, Runs (.stepLeaveArmed die grp) s t ∧ lead t .flood ∧ t.mem = s.mem ∧
          ∀ i, i < 2 ^ g.log2 → (t.bank (die * 1536 + g.first + i)).shadows = [] ∧
            (t.bank (die * 1536 + g.first + i)).newt.pc = st.bits.toNat / 2 ^ 8 % 2 ^ 8 ∧
            (t.bank (die * 1536 + g.first + i)).newt.halted = false ∧
            (t.bank (die * 1536 + g.first + i)).newt.n = Vector.replicate 32 0#32) ∧
      (mayLeave s die grp = false → Runs (.stepLeaveArmed die grp) s s) ∧
      (mayLeave s die grp = true → rest = [] → st.node = none → k < 2 ^ g.log2 →
        (∀ i, i < k → (member i).fenced = false ∧ (member i).progTag = some number) →
        ((member k).fenced = true → ∃ t, Runs (.stepLeaveArmed die grp) s t ∧ failed t die grp 0x24 k st) ∧
        ((member k).fenced = false → (member k).progTag ≠ some number →
          ∃ t, Runs (.stepLeaveArmed die grp) s t ∧ failed t die grp 0x26 k st))) ∧
    (floodAt s bank = some x → groupAt s x.die x.entry = x.grp → overdue s x.die x.entry = none → n.halted = false →
      n.last ≤ newtCycles s →
      (word (r.val * 2 ^ 13 + 2 ^ 12 + imm.toNat) → n.pc < 255 → ∃ t, Runs (.newtWord bank) s t ∧ t.mem = s.mem ∧
        (t.bank bank).newt = { n with n := n.n.set r.val (BitVec.ofInt 32 imm.toInt), pc := n.pc + 1, last := newtCycles s + 1 } ∧
        ∀ b, b ≠ bank → t.bank b = s.bank b) ∧
      (word (0x91 * 2 ^ 13 + 2 ^ 12 + imm.toNat) → ∃ t, Runs (.newtWord bank) s t ∧
        (t.bank bank).newt.halted = true ∧ (¬others → groupAt t x.die x.entry = x.grp ∧ t.mem = s.mem) ∧
        (others → stepColl x.step.bits = 0 → ∃ y ys, (groupAt t x.die x.entry).steps = y :: ys ∧ y.op = x.step.op ∧
          y.phase = .publish) ∧
        (others → stepColl x.step.bits = 1 → ∃ y ys, (groupAt t x.die x.entry).steps = y :: ys ∧ y.op = x.step.op ∧
          y.phase = .move)) ∧
      (word (0x25 * 2 ^ 13 + 2 ^ 12 + imm.toNat) → n.pc < 255 → x.grp.steps = [x.step] → x.step.node = none →
        (∀ i, i < x.rank → ∀ r0 s0, newtWord s { x with bk := rankBank x.die x.grp i, rank := i } ≠ some (some r0, s0)) →
        ∃ t, Runs (.newtWord bank) s t ∧ failed t x.die x.entry 0x20 x.rank x.step ∧
          (groupAt t x.die x.entry).fail0.toNat / 2 ^ 8 % 2 ^ 8 = 1)) ∧
    (floodAt s bank = some x → unit ≠ 4 → ∃ t, Runs (.newtResultReady bank unit) s t ∧ t.mem = s.mem ∧
      (t.bank bank).newt = { n with busy := n.busy.filter fun y => decide (y ≠ unit ∧ (unit = 2 → y ≠ 9)) }) ∧
    (g.steps = st :: rest → st.phase = .move → overdue s die grp = none → stepColl st.bits = 1 → s.upsets = [] → s.poison = [] →
      moveRows s die g (transfers s die g st) = .ok s1 → ∃ t, Runs (.stepMoveComplete die grp) s t ∧ lead t .publish ∧
      t.mem = s.mem ∧ ∀ i j, i < 2 ^ g.log2 → j < stepSrows st.bits → stepSbase st.bits + j < 65536 →
        stepRbase st.bits + stepSrows st.bits ≤ 65536 →
        newtBytes t (die * 1536 + g.first + (i + stepD st.bits) % 2 ^ g.log2) ((stepRbase st.bits + j) * 1024) 1024 =
          newtBytes s (die * 1536 + g.first + i) ((stepSbase st.bits + j) * 1024) 1024) ∧
    (g.steps = st :: rest → st.phase = .publish → st.node = none → st.cwpa = none → s.pend = [] → Committable s →
      (∀ p ∈ s.dies, p.2.images = []) → k < 2 ^ g.log2 → die * 1536 + g.first + k = bank → (s.bank bank).shadows = [(dr, sh)] →
      dr < 65536 → (∀ i, i < 2 ^ g.log2 → i ≠ k → (member i).shadows = []) →
      ∃ t, Runs (.stepPublishComplete die grp) s t ∧ (groupAt t die grp).steps = rest ∧ done t st.op 0 ∧
        (groupAt t die grp).serial = (g.serial + 1) % 65536 ∧ (t.bank bank).shadows = [] ∧ ∀ a, t.mem.read a =
          if bankLocal (bank / 768) (bank % 768) 0 dr 0 ≤ a ∧ a < bankLocal (bank / 768) (bank % 768) 0 dr 0 + 1024 then
            (SMap.find? sh.cells (a - bankLocal (bank / 768) (bank % 768) 0 dr 0)).getD (s.mem.read a)
          else s.mem.read a) ∧
    (g.steps = [st] → st.node = none → st.phase ≠ .publish → stepTimeout st.bits ≠ 0 →
      (st.since + 1024 * stepTimeout st.bits ≤ newtCycles s →
        ∃ t, Runs (.stepTimeout die grp) s t ∧ failed t die grp 0x25 0 st) ∧
      (newtCycles s < st.since + 1024 * stepTimeout st.bits → Runs (.stepTimeout die grp) s s)) ∧
    ((f = 2 ∨ f = 4 ∨ f = 16) → leaves ≠ [] → (∀ l ∈ leaves, l.length = k ∧ ∀ y ∈ l, y < 2 ^ 32) → ∀ i, i < k →
      (treeReduce 1 f leaves.length leaves).getD i 0 = (leaves.map fun l => l.getD i 0).sum % 2 ^ 32)

/-- RETIRE of a mesh context waits for its passes, handles and windows, raises cause 3 of the race fault for tidal
stores that are not published, and with its release made leaves the context idle with its incarnation advanced and a
TASK's node without a completion word out of its pool. GNODE of a checked record enters a node at the lowest free
entry, which in a halted graph retires at once, or gives -1; outside a graph it raises the illegal-operand fault. GDEP
of two held nodes adds the edge and gives 0, or 1 after a node that awaits only its completion store, or 2 with eight
edges, and 3 for a number its graph does not hold. GSUB leaves its handle pending on an accepted graph and complete
with the status of a refused one, which of a descriptor with a bad count or place of nodes is 13 unless what it reads
faults, and stalls while the reading must wait. CREW gives the lowest free number, with its size (the model's choice
of log entry 86). A successor message takes one from its node's count; a ready node ages by a level for every 65,536
cycles. GDEP's 1 for a node that awaits only its completion store is the model's reading of log entry 52, the order of
RETIRE's checks of log entry 58. -/
def Obligations.GraphInstructions : Prop :=
  ∀ (s s2 s4 : State) (d a b : SReg) (h : HReg) (imm : BitVec 32) (n m e die sec msk k st : Nat) (x y z : Node) (w : NewNode)
    (rec : BitVec 512) (rest : List (Nat × Nat)) (uid : Nat),
    let my := s.me
    let va := (s.rs a).toNat
    let here := dieOf s.cur
    let inc := (s.core (coreOf s.cur)).incs.toList.getD (ctxNo s.cur % 4) 0
    let pending := ∃ (r : HReg) (op : Nat), my.getH r = .pending op
    let waits := my.rep.body ≠ [] ∨ pending ∨ ∃ v ∈ my.windows, v.finished = false
    let free := fun (j : Nat) => SMap.find? (s.die here).crews j = none
    let by_ : Submitter := { die := here, sys := sysEnabled s.cur, asid := my.asid.toNat % 2 ^ 16,
                             troot := my.troot.toNat / 2 ^ 12 % 2 ^ 36, run := runOf s s.cur }
    (isSup s.cur = true → Traps .retire s { code := 0x12 }) ∧
    (isSup s.cur = false → waits → ∃ t, Runs .retire s t ∧ Kept s t ∧ t.me.st = .stalled) ∧
    (isSup s.cur = false → ¬waits → unpublished s s.cur = some (sec, msk) →
      Traps .retire s { code := 0x20, addr := sec * 64, info := msk, sub := 3 }) ∧
    (isSup s.cur = false → ¬waits → unpublished s s.cur = none → my.mid = .released →
      (∀ c ∈ (s.gang (gangOf s.cur)).members, c ≠ s.cur → (s.ctx c).atGang = false) → ∃ t, Runs .retire s t ∧
        (t.ctx s.cur).st = .idle ∧ (t.ctx s.cur).incarnation = (inc + 1) % 16 ∧ (t.ctx s.cur).node = none ∧
        (my.node = none → t.mem = s.mem) ∧
        (my.node = some n → nodeAt s n = some x → nodeKind x.bits ≠ 1 → x.cwpa = none → nodeAt t n = none) ∧
        (my.node = some n → nodeAt s n = some x → nodeKind x.bits = 1 → 2 ≤ x.left →
          ∃ q, nodeAt t n = some q ∧ q.left = x.left - 1)) ∧
    (my.mid = .none → (my.node = none ∨ ∃ j, my.node = some j ∧ nodeAt s j = none) →
      Traps (.gnode d a) s { code := 0x12 } ∧ Traps (.gdep d a b) s { code := 0x12 }) ∧
    (my.mid = .released → gnodeCheck s va = .ok (w, s2) → myNode s2 = .ok (m, x) → dieOut s2 w.die = false →
      (freeEntry s2 w.die = none → Runs (.gnode d a) s (finish (s2.setS d (BitVec.ofInt 64 (-1))))) ∧
      (freeEntry s2 w.die = some e → w.die < 12 → ∃ (u : State) (q : Node),
        Runs (.gnode d a) s (finish (u.setS d (BitVec.ofNat 64 (w.die * 4096 + e)))) ∧
        (graphHalted s2 x.graph = true → nodeAt u (w.die * 4096 + e) = none) ∧
        (graphHalted s2 x.graph = false → nodeAt u (w.die * 4096 + e) = some q ∧ q.bits = w.bits ∧ q.graph = x.graph ∧ q.succ = w.succ ∧
        q.count = nodeDcnt w.bits))) ∧
    (my.mid = .released → my.node = some m → nodeAt s m = some x →
      (nodeAt s va = some y → nodeAt s (s.rs b).toNat = some z → y.graph = x.graph → z.graph = x.graph →
        (y.finished = true → Runs (.gdep d a b) s (finish (s.setS d 1#64))) ∧
        (y.finished = false → 8 ≤ y.succ.length → Runs (.gdep d a b) s (finish (s.setS d 2#64))) ∧
        (y.finished = false → y.succ.length < 8 → ∃ (u : State) (q : Node), Runs (.gdep d a b) s (finish (u.setS d 0#64)) ∧ nodeAt u va = some q ∧
          q.succ = y.succ ++ [((s.rs b).toNat, z.uid)] ∧ u.mem = s.mem ∧
          (va ≠ (s.rs b).toNat → z.st ≠ .running →
            ∃ p, nodeAt u (s.rs b).toNat = some p ∧ p.count = z.count + 1))) ∧
      (nodeAt s va = none → (∀ g, SMap.find? s.graphs x.graph = some g → va ∉ g.gone) →
        Runs (.gdep d a b) s (finish (s.setS d 3#64)))) ∧
    (my.mid = .released → gsubCheck s h va = .ok (rec, s2) →
      submitGraph { s2 with nextOp := s2.nextOp + 1 } by_ rec s2.nextOp .none = (st, s4) →
      (st ≠ 0x100 → Runs (.gsub h a) s (finish (s4.setH h (if st = 0 then .pending s2.nextOp else .complete (BitVec.ofNat 64 st) .die)))) ∧
      (st = 0x100 → ∃ t, Runs (.gsub h a) s t ∧ Kept s t ∧ t.me.st = .stalled)) ∧
    (my.mid = .none → (∃ op, my.getH h = .pending op) → Traps (.gsub h a) s { code := 0x12 }) ∧
    ((descFld rec 48 13 = 0 ∨ 4096 < descFld rec 48 13 ∨ descFld rec 0 6 ≠ 0) →
      (submitGraph s by_ rec k .none).1 = 13 ∨ 0x100 ≤ (submitGraph s by_ rec k .none).1) ∧
    (descFld rec 48 13 = 0 → descFld rec 320 48 = 0 → submitGraph s by_ rec k .none = (13, s)) ∧
    (1 ≤ imm.toNat → imm.toNat ≤ 640 → 1 ≤ k → k < 4096 → free k → (∀ j, 1 ≤ j → j < k → ¬free j) → ∃ u : State,
      Runs (.crew d imm) s (finish (u.setS d (BitVec.ofNat 64 k))) ∧ u.ctxs = s.ctxs ∧ u.mem = s.mem ∧
      SMap.find? (u.die here).crews k = some { size := imm.toNat }) ∧
    ((imm.toNat = 0 ∨ 640 < imm.toNat) → Traps (.crew d imm) s { code := 0x12 }) ∧
    ((s.die die).succMsgs = (n, uid) :: rest → ∃ t, Runs (.successorReleaseMessage die) s t ∧ t.mem = s.mem ∧
      (t.die die).succMsgs = rest ∧ (nodeAt s n = some x → x.uid = uid → x.st ≠ .running →
        ∃ q, nodeAt t n = some q ∧ q.count = x.count - 1)) ∧
    (SMap.find? (s.die die).pool e = some x → x.st = .ready → ∃ t, Runs (.priorityAging die e) s t ∧ t.mem = s.mem ∧
      SMap.find? (t.die die).pool e = some { x with aged := max x.aged ((cycleOf s die - x.readyAt) / 65536) })

/-- The first candidate of a die has the highest priority, and of those the earliest ready time. While the dispatcher
works and the class has not dispatched in this cycle: what it picks of the context class is dispatched by the event of
its kind, each of its nodes running and each context chosen for it ready at the task's entry with its arguments,
operand address and node number in s1 to s5 and everything else zero; a gang that is taken holds the task and its
members with its latches empty. A STEP node with room queues an armed step for its group, and a COPY node whose places
need no page walk takes the engine and starts its copy. -/
def Obligations.Dispatching : Prop :=
  ∀ (s s1 : State) (die n k e : Nat) (c : Cand) (cs : List Cand) (ps : List Placed) (x : Node) (g : Graph) (b : BitVec 512)
    (cw : Option Nat),
    let first := c.nodes.headD 0
    let started := fun (t : State) (p : Placed) => ∃ y h, nodeAt s p.1 = some y ∧ SMap.find? s.graphs y.graph = some h ∧
      nodeAt t p.1 = some { y with st := .running } ∧ ∀ i ∈ p.2, (t.ctx i).st = .ready ∧ (t.ctx i).pc = nodeOpa y.bits ∧
        (t.ctx i).node = some p.1 ∧ (t.ctx i).graph = y.graph ∧ (t.ctx i).asid.toNat = h.asid % 2 ^ 64 ∧
        (t.ctx i).getS 1#6 = BitVec.ofNat 64 (nodeFld y.bits 192 16) ∧ (t.ctx i).getS 2#6 = BitVec.ofNat 64 (nodeFld y.bits 208 16) ∧
        (t.ctx i).getS 3#6 = BitVec.ofNat 64 (nodeFld y.bits 224 16) ∧ (t.ctx i).getS 4#6 = BitVec.ofNat 64 (nodeOpb y.bits) ∧
        (t.ctx i).getS 5#6 = BitVec.ofNat 64 p.1 ∧ (∀ r : SReg, 5 < r.toNat → (t.ctx i).getS r = 0#64) ∧
        (t.ctx i).fpflags = 0#64 ∧ (t.ctx i).mode = 0#64 ∧ (t.ctx i).round = 0#64
    let sends := fun (i : Instr) => ∃ t, Runs i s t ∧ ∀ p ∈ ps, started t p
    (contextCands s die = c :: cs → ∀ q ∈ cs, q.prio ≤ c.prio ∧ (q.prio = c.prio → c.since ≤ q.since)) ∧
    (dispatchRuns s die = true → classFree s die 0 = true → contextPick s die = some (c, ps) → (ps.map (·.1)).Nodup →
      (ps.map (·.2)).flatten.Nodup → (∀ p ∈ ps, ∃ y h, nodeAt s p.1 = some y ∧ SMap.find? s.graphs y.graph = some h) →
      (c.crew = false → nodeAt s first = some x → nodeKind x.bits = 0 → sends (.dispatchTask die)) ∧
      (c.crew = false → nodeAt s first = some x → nodeKind x.bits = 1 → sends (.dispatchGangtask die) ∧
        (∀ ks, ps = [(n, ks)] → n = first → ∃ t, Runs (.dispatchGangtask die) s t ∧
          (t.gang (gangOf (ks.headD 0))).task = some n ∧ (t.gang (gangOf (ks.headD 0))).members = ks ∧
          (t.gang (gangOf (ks.headD 0))).retired = [] ∧
          (t.gang (gangOf (ks.headD 0))).bpub = Vector.replicate 2 {})) ∧
      (c.crew = true → sends (.dispatchCrew die))) ∧
    (dispatchRuns s die = true → classFree s die 1 = true → kindCand s die 2 = some n → nodeAt s n = some x → stepRoom s die x = true →
      SMap.find? s.graphs x.graph = some g → stepNodeCheck s die x g = .ok (e, b, cw, s1) → n / 4096 = die →
      ∃ (t : State) (y : RStep), Runs (.dispatchStep die) s t ∧ (groupAt t die e).steps = (groupAt s1 die e).steps ++ [y] ∧
        y.bits = b ∧ y.phase = .armed ∧ y.node = some (n, x.uid) ∧ nodeAt t n = some { x with st := .running }) ∧
    (dispatchRuns s die = true → classFree s die 2 = true → kindCand s die 3 = some n → nodeAt s n = some x → freeEngine s die = some k →
      SMap.find? s.graphs x.graph = some g → nodeFld x.bits 192 33 ≤ 2 ^ 32 →
      destIllegal s (spaceOfGraph die g.asid g.troot) (nodeOpa x.bits) (nodeFld x.bits 192 33) = false →
      (∀ va ∈ [nodeOpa x.bits, nodeOpb x.bits], Direct (some (spaceOfGraph die g.asid g.troot)) va (nodeFld x.bits 192 33)) →
      ∃ (t : State) (o : EngOp), Runs (.dispatchCopy die) s t ∧ nodeAt t n = some { x with st := .running } ∧
        SMap.find? t.ops s.nextOp = some o ∧ o.kind = .copy ∧ o.engine = k ∧ o.total = nodeFld x.bits 192 33 ∧
        o.dest = .node die (n % 4096))

/-- Enabling a queue with a legal configuration and a readable tail word clears its errors, takes head and completed
count from the tail and opens a new run; an illegal one leaves QERR 4; a write without EN disables it, and SWIN alone
changes at a switch. A visit of the next live queue reads its tail: one below the head halts it with QERR 1, one more
than its entries ahead of the completed count with 2, an unreadable one with 5; an equal one changes nothing; one
entry on, the entry is handed over, or halts the queue with 3; a read that must wait is made later. NOP without a
completion word completes its entry; STORE stores eight bytes; COPY takes a free engine or waits in order; GRAPH
submits its graph or waits for its reading; all wake a parked die and wait. GO of a redundant run submits both copies,
sets STATE to 5 where it names its own die or no 64-byte-aligned descriptor, and ends a run that it meets, with STATE
5 and both copies discarded; equal signatures publish this die's copy and set STATE to 3, differing ones discard both
and set 4, a failed run 5. COUNTER_PERSIST copies the live counters to the persistent store once a period of 2^30
cycles is over, and does nothing before. That HEAD does not count a refused entry is log entry 48, what a second GO
does log entry 51, that PEER may not name the own die log entry 87: the model's. -/
def Obligations.QueuesAndRuns : Prop :=
  ∀ (s s1 s2 s3 s5 s7 : State) (e : Trap) (io q die val a st k : Nat) (bs bs2 : List Byte) (c : Command) (p : Pend),
    let x := (s.io io).queue q
    let on := { x with swin := bit val 1, log2n := fld val 4 4, hctx := fld val 8 8 }
    let seen := fun (u : State) => u.modIo io fun d => { d with visit := (q + 1) % 1024 }
    let visits := queuesServed s io = true ∧ nextQueue s io = some q
    let halts := fun (u : State) (e : Nat) =>
      Runs (.queueVisit io) s (setQueue u io q { (u.io io).queue q with halt := true, qerr := e })
    let n := bytesToNat bs
    let y := (s2.io io).queue q
    let entryAt := y.base + 64 * (y.head % 2 ^ y.log2n)
    let b := BitVec.ofNat 512 (bytesToNat bs2)
    let s0 := startCommand s io c
    let on_ := cmdDie c.bits
    let idx := c.entry % 2 ^ 64
    let z := (s.io io).queue c.q
    let wakes := fun (i : Instr) => Runs i s (s.modDie on_ fun d => { d with returning := true })
    let rx := (s.die die).rx
    let rxSt := fun (u : State) (v : Nat) => u.modDie die fun d => { d with rx := { d.rx with st := v, go := false } }
    (io < 2 → q < 1024 →
      (x.en = false → bit val 0 = true → queueOk s io q on = true → ioRead s io x.tail 8 = .ok (bs, s1) →
        ∃ t, Runs (.queueEnable io q val) s t ∧ (t.io io).queue q =
          { on with en := true, halt := false, qerr := 0, head := n, done := n, finished := [], run := x.run + 1 }) ∧
      (x.en = false → bit val 0 = true → queueOk s io q on = false →
        Runs (.queueEnable io q val) s (setQueue s io q { on with qerr := 4 })) ∧
      (x.en = true → bit val 0 = false →
        Runs (.queueEnable io q val) s (setQueue s io q { x with swin := bit val 1, en := false })) ∧
      (x.en = true → Runs (.queueSwitchOut io q) s (setQueue s io q { x with swin := false }) ∧
        Runs (.queueSwitchIn io q) s (setQueue s io q { x with swin := true }))) ∧
    (visits →
      (ioRead s io x.tail 8 = .error (e, s2) → (e.code = 0 → Runs (.queueVisit io) s s2) ∧ (e.code ≠ 0 → halts (seen s2) 5)) ∧
      (ioRead s io x.tail 8 = .ok (bs, s2) →
        (n < y.head → halts (seen s2) 1) ∧
        (y.head ≤ n → 2 ^ y.log2n < n - y.done → halts (seen s2) 2) ∧
        (n = y.head → n - y.done ≤ 2 ^ y.log2n → Runs (.queueVisit io) s (seen s2)) ∧
        (n = y.head + 1 → n - y.done ≤ 2 ^ y.log2n → ioRead (seen s2) io entryAt 64 = .error (e, s3) →
          (e.code = 0 → Runs (.queueVisit io) s s3) ∧ (e.code ≠ 0 → halts s3 3)) ∧
        (n = y.head + 1 → n - y.done ≤ 2 ^ y.log2n → ioRead (seen s2) io entryAt 64 = .ok (bs2, s3) →
          (commandRefused s3 io b = true → halts s3 3) ∧
          (commandRefused s3 io b = false →
            Runs (.queueVisit io) s ((setQueue s3 io q { y with head := y.head + 1 }).modIo io fun d =>
              { d with cmdq := d.cmdq ++ [{ q := q, entry := y.head + 2 ^ 64 * y.run, bits := b }] }))))) ∧
    (nextCommand s io 0 = some c → (∀ w ∈ (s.io io).cmdq, w.q = c.q → w.entry = c.entry → cmdCw w.bits = false) → ∃ t, Runs (.tranarNop io) s t ∧
      (∀ w ∈ (t.io io).cmdq, ¬(w.q = c.q ∧ w.entry = c.entry)) ∧
      (c.entry / 2 ^ 64 = z.run → z.finished = [] →
        (z.done = idx → ((t.io io).queue c.q).done = idx + 1 ∧ ((t.io io).queue c.q).finished = []) ∧
        (z.done ≠ idx → ((t.io io).queue c.q).done = z.done ∧ ((t.io io).queue c.q).finished = [idx]))) ∧
    (nextCommand s io 1 = some c → (s.die on_).pstate ≠ 2 → dramLoc s0 (cmdA c.bits) = some a →
      readUnit s0 on_ (.engine on_) a 64 = .ok (bs, s1) →
      submitGraph { s1 with nextOp := s1.nextOp + 1 } { die := on_, sys := true } (BitVec.ofNat 512 n) s1.nextOp
        (.tranar io c.q c.entry) = (st, s3) →
      (st = 0x100 → Runs (.tranarGraph io) s (withWakes s s3)) ∧ (st = 0 → Runs (.tranarGraph io) s s3) ∧
      (st ≠ 0x100 → st ≠ 0 → Runs (.tranarGraph io) s (tranarDone s3 io c.q c.entry st))) ∧
    (nextCommand s io 2 = some c → (s.die on_).pstate ≠ 2 → dieOut s0 on_ = false →
      (freeEngine s on_ = some k → ∃ (t : State) (o : EngOp), Runs (.tranarCopy io) s t ∧ SMap.find? t.ops s.nextOp = some o ∧
        o.kind = .copy ∧ o.die = on_ ∧ o.engine = k ∧ o.total = cmdC c.bits ∧ o.dest = .tranar io c.q c.entry) ∧
      (freeEngine s on_ = none → ∃ (t : State) (w : Waiting), Runs (.tranarCopy io) s t ∧
        (t.die on_).waiting = (s.die on_).waiting ++ [w] ∧ w.op = s.nextOp ∧ w.dst = cmdA c.bits ∧ w.src = cmdB c.bits ∧
        w.len = cmdC c.bits)) ∧
    ((s.io io).cmdq = [c] → nextCommand s io 3 = some c → (s.die on_).pstate ≠ 2 → dramLoc s0 (cmdA c.bits) = some a → a % 8 = 0 →
      refuses s0 on_ (.dram a) = false → dieOut s0 on_ = false → bankLive s0 (bankKey a) = false →
      claimedBy s0 none a 8 = false → heldAt s0 .store (.dram a) = none → ownedHome s0 a = some s1 → cmdCw c.bits = false →
      z.finished = [] → z.done ≠ idx → ∃ t, Runs (.tranarStore io) s t ∧
        t.mem.readN a 8 = natToBytes 8 (cmdB c.bits) ∧ ∀ i, (i < a ∨ a + 8 ≤ i) → t.mem.read i = s1.mem.read i) ∧
    ((s.die on_).pstate = 2 → (nextCommand s io 1 = some c → wakes (.tranarGraph io)) ∧
      (nextCommand s io 2 = some c → wakes (.tranarCopy io)) ∧ (nextCommand s io 3 = some c → wakes (.tranarStore io))) ∧
    ((rx.st = 1 ∨ rx.st = 2) → ∃ t, Runs (.redundantRunGo die) s t ∧ (t.die die).rx.st = 5 ∧
      (∀ r ∈ t.pend, isRun die r.owner = false) ∧ (runAlive s die = false → t = pendDrop (rxSt s 5) (isRun die))) ∧
    (rx.st ≠ 1 → rx.st ≠ 2 → (rx.peer = die ∨ rx.desc % 64 ≠ 0) → Runs (.redundantRunGo die) s (rxSt s 5)) ∧
    (rx.st ≠ 1 → rx.st ≠ 2 → runAlive s die = false → rx.peer ≠ die → rx.peer < 12 → rx.desc % 64 = 0 → dramLoc s rx.desc = some a →
      readUnit s die (.engine die) a 64 = .ok (bs, s1) →
      (let s3 := (pendDrop s1 (isRun die)).modDie die fun d => { d with rx := { d.rx with
          st := 1, fstat := 0, sta := none, stb := none, siga := 0#256, sigb := 0#256, fail := false, cw := none, go := false } }
       submitGraph { s3 with nextOp := s3.nextOp + 1 } { die := die, sys := true, run := some (die, 0) }
        (BitVec.ofNat 512 n) s3.nextOp (.run die 0) = (0, s5)) →
      submitGraph { s5 with nextOp := s5.nextOp + 1 } { die := rx.peer, sys := true, run := some (die, 1) }
        (BitVec.ofNat 512 n) s5.nextOp (.run die 1) = (0, s7) → Runs (.redundantRunGo die) s s7) ∧
    (rx.st = 2 → rx.fail = false → rx.go = false → rx.sta = some 0 → rx.stb = some 0 → rx.cw = none →
      (runSignature s die 0 = runSignature s die 1 → Committable s → ∃ t, Runs (.redundantRunCompare die) s t ∧ (t.die die).rx.st = 3 ∧
        (∀ r ∈ t.pend, r.owner ≠ .run die 0 ∧ r.owner ≠ .run die 1) ∧
        ((s.pend.filter fun r => r.owner == .run die 0) = [p] → p.bytes.length = 64 → rowGone s p.sector = false → ∀ i, i < 64 →
          t.mem.read (p.sector * 64 + i) =
            if p.mask.testBit i then p.bytes.getD i 0#8 else s.mem.read (p.sector * 64 + i))) ∧
      (runSignature s die 0 ≠ runSignature s die 1 → ∃ t, Runs (.redundantRunCompare die) s t ∧ (t.die die).rx.st = 4 ∧
        t.mem = s.mem ∧ ∀ r ∈ t.pend, isRun die r.owner = false)) ∧
    ((rx.st = 1 ∨ rx.st = 2) → rx.fail = true → runAlive s die = false →
      Runs (.redundantRunCompare die) s (pendDrop (rxSt s 5) (isRun die))) ∧
    (die < 12 →
      ((s.die die).persists < cycleOf s die / 2 ^ 30 → Runs (.counterPersist die) s
        (s.modDie die fun d => { d with saved := d.ctrs, persists := cycleOf s die / 2 ^ 30 })) ∧
      (cycleOf s die / 2 ^ 30 ≤ (s.die die).persists → Runs (.counterPersist die) s s)) ∧
    (io < 2 →
      ((s.io io).persists < s.time / 2 ^ 30 → Runs (.counterPersist (12 + io)) s
        (s.modIo io fun d => { d with saved := d.ctrs, persists := s.time / 2 ^ 30 })) ∧
      (s.time / 2 ^ 30 ≤ (s.io io).persists → Runs (.counterPersist (12 + io)) s s))

/-- GO of an idle invalidation block sets BUSY and removes exactly the matching TLB entries of its dies' cores, all of
them with ALL; GO of a busy one is refused; BUSY clears once nothing that the invalidation waits for is left, and not
before. A walk that completes leaves its result with the waiting context, ready, and a leaf in its TLB. A write that
clears EN of an idle format window makes it busy; its acknowledgement puts the new base in force with no L2 line
tagged by the window (until then the old one stands: the model's choice of log entry 69). The fetch port gives a
cached line to the context that it chooses, lowest address first until a request has waited 32 cycles, or enters a
miss; a fill enters the line in the cache, or fails its waiters with the fault and the place of the first failing
byte; a line that failed parity is fetched again once. REP with the sequencer idle, a count of at most 65,535 and a
body that lies in the code region, reads without a fault and holds what R193 allows, captures the body, or nothing
with a count of 0, and goes on behind it; with a busy sequencer it stalls, and a larger count or a body outside the
region is illegal (at a count of 0 too: log entry 55). A pass issues the next body instruction, stepped, without
moving the program counter, and moves the sequencer on. A register write outside the register spaces changes nothing;
one to TINVADDR sets it. -/
def Obligations.TranslationAndFetch : Prop :=
  ∀ (s s1 s2 : State) (die val stack win g k key cid code off : Nat) (w : Walked) (m : Miss) (v : Word) (r : FetchReq) (bs : List Byte)
    (rest : List Nat) (l : LineBuf) (d a : VReg) (ra : SReg) (im : BitVec 32) (ws : List (Slot × Bool)),
    let dv := s.die die
    let x := fmtAt s stack win
    let c := s.ctx cid
    let n := (s.rs ra).toNat
    let b := im.toNat % 8 + 1
    let body : RepBuf := { count := n, flags := im.toNat / 2 ^ 3 % 2 ^ 5, rstr := im.toNat / 2 ^ 8 % 2 ^ 8,
                           istr := im.toNat / 2 ^ 16 % 2 ^ 16, pc := nextSlot s.me.pc }
    (dv.tinvBusy = true → Runs (.tlbInvalidateGo die val) s (s.setDie die { dv with tinvRefused := true })) ∧
    (dv.tinvBusy = false → die < 12 → ∃ t, Runs (.tlbInvalidateGo die val) s t ∧ (t.die die).tinvBusy = true ∧ t.mem = s.mem ∧
      (∀ n e, e ∈ (t.core n).tlb ↔ e ∈ (s.core n).tlb ∧
        ((n / 256 = die ∨ (bit val 19 = true ∧ n / 256 < 12)) → tinvMatches dv.tinvAddr val e = false)) ∧
      (bit val 18 = true → ∀ n, n / 256 = die → (t.core n).tlb = [])) ∧
    (tinvPerformed s die = true → Runs (.tlbInvalidateDone die) s (s.modDie die fun y =>
      { y with tinvBusy := false, tinvOps := 0, tinvFifo := [], tinvLoads := [], tinvMiss := [], tinvLines := [], tinvKeys := [] })) ∧
    (tinvPerformed s die = true → ∀ p ∈ dv.tinvLines, fetching (s.ctx p.1) ≠ some p.2) ∧
    (tinvPerformed s die = false → Runs (.tlbInvalidateDone die) s s) ∧
    (dv.missq = [m] → m.cids = [cid] → walk s die m.asid m.root (m.page * 65536) = (w, s1) → (s1.die die).missq = [m] → w ≠ .wait →
      ∃ t, Runs (.pageWalkComplete die 0) s t ∧ (t.die die).missq = [] ∧ t.mem = s1.mem ∧
        ((s1.ctx cid).st = .stalled → (t.ctx cid).st = .ready) ∧ (∃ ys, (t.ctx cid).xlat = xlatOf m.page w :: ys) ∧
        (∀ log2 oa attrs, w = .leaf log2 oa attrs → ∃ e ∈ (t.core (coreOf cid)).tlb,
          e.asid = m.asid ∧ e.va = m.page * 65536 / 2 ^ log2 ∧ e.log2 = log2 ∧ e.oa = oa ∧ e.attrs = attrs)) ∧
    (x.base.getLsbD 0 = true → x.busy = none → ∃ u : Word, u.getLsbD 0 = false ∧
      Runs (.formatWindowDisable stack win) s (setFmt s stack win { x with busy := some u })) ∧
    (x.busy = some v → s.races.length ≤ 16384 → s.l2 = [(k, (s.l2.head?.map (·.2)).getD [])] →
      (∀ kv ∈ s.l2, ∀ y ∈ kv.2, homeSlice (y.line * 256) = k) → ∃ t, Runs (.formatWindowDisableAck stack win) s t ∧
        fmtAt t stack win = { x with base := v, busy := none } ∧ t.mem = s.mem ∧
        ∀ kv ∈ t.l2, ∀ y ∈ kv.2, ∀ tg, y.tag = some tg → ¬(tg.stack = stack ∧ tg.win = win)) ∧
    (x.busy = none → Runs (.formatWindowDisableAck stack win) s s) ∧
    (portChoice s g = some (k, r) →
      (List.find? (fun y => y.1 == r.pa) (s.gang g).icache = none →
        Runs (.fetchPortServe g) s (s.modGang g fun y => { y with miss := y.miss ++ [r.pa] })) ∧
      (List.find? (fun y => y.1 == r.pa) (s.gang g).icache = some (r.pa, bs) → bs = s.mem.readN r.pa 64 →
        ∃ t, Runs (.fetchPortServe g) s t ∧ (t.ctx k).line = some { va := r.va, pa := r.pa, bytes := bs } ∧
          (t.ctx k).fetchReq = none ∧ (t.ctx k).checked = true ∧ t.mem = s.mem ∧
          ((s.ctx k).st = .stalled → (t.ctx k).st = .ready)) ∧
      ((∀ p ∈ portRequests s g, cycleOf s (g / 20) < p.2.since + 32) → ∀ p ∈ portRequests s g, r.va ≤ p.2.va) ∧
      ((∃ p ∈ portRequests s g, p.2.since + 32 ≤ cycleOf s (g / 20)) → ∀ p ∈ portRequests s g, r.since ≤ p.2.since)) ∧
    ((s.gang g).miss = [] → Runs (.icacheFill g) s s) ∧
    ((s.gang g).miss = key :: rest →
      (readLine (s.modGang g fun y => { y with miss := rest }) (g / 20) key = .bytes bs s2 → ∃ t, Runs (.icacheFill g) s t ∧
        (t.gang g).icache.head? = some (key, bs) ∧ t.mem = s2.mem) ∧
      (readLine (s.modGang g fun y => { y with miss := rest }) (g / 20) key = .fault code off s2 → ∃ t, Runs (.icacheFill g) s t ∧
        t.mem = s2.mem ∧ ∀ n ∈ ctxsOfGang g, ∀ q, (s2.ctx n).fetchReq = some q → q.pa = key →
          (t.ctx n).mid = .fault (256 + code % 256 + 1024 * off) ∧ (t.ctx n).fetchReq = none)) ∧
    (c.line = some l → c.checked = true → c.refetched = false → parityOk l.bytes = false →
      readLine (countDie s (dieOf cid) 0x18 1) (dieOf cid) l.pa = .bytes bs s2 → ∃ t, Runs (.lineRefetch cid) s t ∧
        (t.ctx cid).line = some { l with bytes := bs } ∧ (t.ctx cid).refetched = true ∧ t.mem = s2.mem) ∧
    (c.line = none → Runs (.lineRefetch cid) s s) ∧
    (s.me.rep.body ≠ [] → ∃ t, Runs (.rep ra im) s t ∧ Kept s t ∧ t.me.st = .stalled) ∧
    (s.me.rep.body = [] → (65535 < n ∨ ∃ i, i < b ∧ inCode s s.cur (lineAddr (bodySlot body i)) = false) →
      Traps (.rep ra im) s { code := 0x12 }) ∧
    (s.me.rep.body = [] → n ≤ 65535 → (∀ i, i < b → inCode s s.cur (lineAddr (bodySlot body i)) = true) →
      bodySlots s b (nextSlot s.me.pc) = .ok (ws, s1) → (∀ y ∈ ws, bodySlotOk y.1 = true) → (∀ y ∈ ws.drop 1, y.2 = false) →
      Runs (.rep ra im) s (finish (s1.modMe fun y => { y with
        pc := bodySlot body (b - 1), rep := if n = 0 then {} else { body with body := ws.map (·.1) } }))) ∧
    (c.rep.body = [] → Runs (.repPassIssue cid) s s) ∧
    (passInstr c.rep = .ok (.vmov .u32 d a 0#3 false) → c.rep.body ≠ [] → c.st = .ready → c.windows = [] → c.upsets = [] →
      c.ev = 0 → c.replayV = false → ∃ t, Runs (.repPassIssue cid) s t ∧ (t.ctx cid).getV d = c.getV a ∧ (t.ctx cid).pc = c.pc ∧
        (t.ctx cid).icount = c.icount + 1#64 ∧ t.mem = s.mem ∧
        (c.rep.pos + 1 < c.rep.body.length → (t.ctx cid).rep = { c.rep with pos := c.rep.pos + 1 }) ∧
        (c.rep.body.length ≤ c.rep.pos + 1 → c.rep.pass + 1 < c.rep.count →
          (t.ctx cid).rep = { c.rep with pos := 0, pass := c.rep.pass + 1 }) ∧
        (c.rep.body.length ≤ c.rep.pos + 1 → c.rep.count ≤ c.rep.pass + 1 → (t.ctx cid).rep = {})) ∧
    (validDev key = false → validDbg key = false → Runs (.registerWrite key k val) s s) ∧
    (validDev key = true → regionOf key = 2 → fld key 36 4 = die → die < 12 → fld key 0 36 = 0 →
      ∃ t, Runs (.registerWrite key 8 val) s t ∧ (t.die die).tinvAddr = val / 2 ^ 16 % 2 ^ 32 * 2 ^ 16 ∧ t.mem = s.mem)

/-- At power-up an accepted image runs and each of its stages is measured, and a refused one leaves recovery; a later
boot event changes nothing. A refused update changes nothing; an accepted one is stored and, outside recovery, run.
Attestation is signed in develop and production outside P3. The debug port opens for a verified signature alone. The
lifecycle only moves forward; entry into returned zeroes memory and registers, the power shares too, and revokes the
identity. Power loss keeps the persistent counters and retired rows, orderly power-down the live counters too, both
the lifecycle. A grant over budget or below a floor, or one during another, is refused; a legal one is taken for the
next interval. The close of the intervals that are over, each of 4,096 cycles of its die's clock, moves each such
die's issue ratio by R21 and holds its stacks that are above their share; where all twelve close together, the grant
is applied. A parked die that was reached returns to P0. A retry is counted, as the next in a row or as the first of a
new transfer, by a free choice; sixteen take a link down; a re-enable clears it. That a second GO is refused and the
grant taken as all twelve intervals close is log entry 44, the choice of a retry and a copy due at power loss log
entry 45, that an update in recovery is only stored log entry 50, and DRAM after power loss log entry 8: the model's.
-/
def Obligations.PowerAndBoot : Prop :=
  ∀ (s s1 : State) (image sig key stage die b link : Nat) (dies stks ds ps ks : List Nat) (ch : BitVec 256),
    let p := s.pkg
    let accepts := Config.keyDigest key = Config.fusedDigest p.lifecycle.code 0 ∧ Config.verify key sig image = true
    let stages := Config.imageDigest image :: (List.range (Config.laterStages image)).map (Config.stageDigest image)
    let sh := p.stagedShare.toList
    let pst := p.stagedPstate.toList
    let sk := p.stagedStk.toList
    let total := 300 + sh.foldl (· + ·) 0 + sk.foldl (· + ·) 0
    let refused := Runs .powerGrantRequest s { s with pkg := { p with pgRefused := true } }
    let due := fun (i : Nat) => ((s.die i).intervals + 1) * 4096 ≤ cycleOf s i
    let lk := fun (u : State) => SMap.getD u.links link {}
    let ctr := fun (u : State) (off : Nat) => SMap.getD (u.die die).ctrs off 0
    let counts := fun (i : Instr) (off : Nat) => ∃ t, Runs i s t ∧ ctr t off = min (ctr s off + 1) (2 ^ 64 - 1) ∧
      (∀ o, o ≠ off → ctr t o = ctr s o) ∧ t.mem = s.mem ∧ t.ctxs = s.ctxs
    ((p.firmware.isSome = true ∨ p.recovery = true) → Runs .powerUpBoot s s) ∧
    (p.firmware = none → p.recovery = false → bootStore s = (image, sig, key) →
      (accepts → Runs .powerUpBoot s { s with pkg := { p with
        boots := p.boots + 1, debugOpen := false, firmware := some image, measurements := p.measurements ++ stages } }) ∧
      (¬accepts → Runs .powerUpBoot s { s with pkg := { p with boots := p.boots + 1, debugOpen := false, recovery := true } })) ∧
    (¬accepts → Runs (.firmwareUpdate image sig key) s s) ∧
    (accepts → ∃ t, Runs (.firmwareUpdate image sig key) s t ∧ t.pkg.stored = some (image, sig, key) ∧ t.mem = s.mem ∧
      (p.firmware.isSome = true → t.pkg.firmware = some image ∧
        t.pkg.measurements = p.measurements ++ stages) ∧
      (p.firmware = none → t.pkg.firmware = none)) ∧
    ((p.lifecycle = .develop ∨ p.lifecycle = .production) → p.p3 = false → p.identity = some key →
      Runs (.attestationRequest b) s { s with netOut := s.netOut ++ [.attestation (Config.sign key (attested p b))] }) ∧
    ((p.identity = none ∨ p.p3 = true ∨ p.lifecycle = .manufacture ∨ p.lifecycle = .returned) →
      Runs (.attestationRequest b) s s) ∧
    (drawBits s 256 = (ch, s1) →
      (Config.keyDigest key = Config.fusedDigest p.lifecycle.code 1 → Config.verify key sig ch.toNat = true →
        Runs (.debugAuthenticate key sig) s { s1 with pkg := { s1.pkg with debugOpen := true } }) ∧
      ((Config.keyDigest key ≠ Config.fusedDigest p.lifecycle.code 1 ∨ Config.verify key sig ch.toNat = false) →
        Runs (.debugAuthenticate key sig) s s1)) ∧
    ((3 < stage ∨ stage ≤ p.lifecycle.code) → Runs (.lifecycleAdvance stage) s s) ∧
    (p.lifecycle.code < stage → stage < 3 → ∃ t, Runs (.lifecycleAdvance stage) s t ∧ t.pkg.lifecycle.code = stage ∧ t.mem = s.mem ∧
      (p.lifecycle = .manufacture → t.pkg.identity.isSome = true) ∧
      (p.lifecycle ≠ .manufacture → t.pkg.identity = p.identity)) ∧
    (p.lifecycle.code < 3 → stage = 3 → ∃ t, Runs (.lifecycleAdvance stage) s t ∧ t.pkg.lifecycle = .returned ∧
      t.pkg.identity = none ∧ t.pkg.firmware = none ∧ t.mem = [] ∧ t.pkg.measurements = [] ∧ (∀ x ∈ t.pkg.dieShare.toList, x = 0) ∧ (∀ x ∈ t.pkg.stkShare.toList, x = 0) ∧ (∀ i r, (t.ctx i).getS r = 0#64) ∧ (∀ i r, (t.ctx i).getV r = 0#4096)) ∧
    (∃ t, Runs .powerLoss s t ∧ t.mem = [] ∧ t.pkg.lifecycle = p.lifecycle ∧ t.pkg.identity = p.identity ∧
      t.pkg.firmware = none ∧ t.ctxs = [] ∧ ∀ i, i < 12 → (t.die i).retired = (s.die i).retired ∧
      (t.die i).ctrs = if persistDue s i then (s.die i).ctrs else (s.die i).saved) ∧
    (∃ t, Runs .orderlyPowerDown s t ∧ t.mem = [] ∧ t.pkg.lifecycle = p.lifecycle ∧ t.ctxs = [] ∧
      ∀ i, i < 12 → (t.die i).ctrs = (s.die i).ctrs ∧ (t.die i).retired = (s.die i).retired) ∧
    (p.grant.isSome = true → refused) ∧
    ((8400 < total ∨ (∃ x ∈ sh, x < 120) ∨ (∃ x ∈ sk, x < 20)) → refused) ∧
    (p.grant = none → total ≤ 8400 → (∀ x ∈ sh, 120 ≤ x) → (∀ x ∈ sk, 20 ≤ x) → (∀ x ∈ pst, x ≤ 1) →
      Runs .powerGrantRequest s { s with pkg := { p with grant := some (sh, pst, sk) } }) ∧
    ((∀ i, i < 12 → ¬due i) → Runs (.powerMeasurementInterval dies stks) s s) ∧
    (∃ t, Runs (.powerMeasurementInterval dies stks) s t ∧ t.mem = s.mem ∧
      (∀ i, i < 12 → ¬due i → (t.die i).ratio = (s.die i).ratio ∧ (t.die i).intervals = (s.die i).intervals) ∧
      (∀ i, i < 12 → due i → (t.die i).intervals = (s.die i).intervals + 1 ∧ (t.die i).ratio =
        (let share := p.dieShare.toList.getD i 0
         let used := dies.getD i 0
         let old := (s.die i).ratio
         if share < used then (if old = 8 then 6 else max 2 (old - 1))
         else if used * 10 ≤ share * 9 then min 8 (old + 1) else old)) ∧
      (∀ i, i < 24 → due (i / 2) → (bit t.pkg.hold i = true ↔ p.stkShare.toList.getD i 0 < stks.getD i 0)) ∧
      (∀ i, i < 24 → ¬due (i / 2) → bit t.pkg.hold i = bit p.hold i) ∧
      ((∀ i, i < 12 → due i) → p.grant = some (ds, ps, ks) → t.pkg.grant = none ∧ ∀ i, i < 12 → (t.die i).pstate = ps.getD i 0 ∧
        t.pkg.dieShare.toList.getD i 0 = ds.getD i 0) ∧
      ((p.grant = none ∨ ∃ i, i < 12 ∧ ¬due i) → t.pkg.grant = p.grant ∧ t.pkg.dieShare = p.dieShare ∧ ∀ i, (t.die i).pstate = (s.die i).pstate)) ∧
    Runs .packageEnterP3 s { s with pkg := { p with p3 := true } } ∧
    Runs .packageLeaveP3 s { s with pkg := { p with p3 := false } } ∧
    ((s.die die).pstate = 2 → (s.die die).returning = true →
      Runs (.dieReturnToP0 die) s (s.setDie die { s.die die with pstate := 0, returning := false })) ∧
    (((s.die die).pstate ≠ 2 ∨ (s.die die).returning = false) → Runs (.dieReturnToP0 die) s s) ∧
    (b < 8 → counts (.thermalExcursion die b) (0x80 + 8 * b) ∧ counts (.supplyDroop die b) (0xC0 + 8 * b)) ∧
    (link < 48 → ∃ t n, Runs (.linkRetry link) s t ∧ (n = (lk s).retries + 1 ∨ n = 1) ∧ t.mem = s.mem ∧
      (lk t).retries = n ∧ ((lk t).down = true ↔ (lk s).down = true ∨ 16 ≤ n)) ∧
    (link < 48 → 16 ≤ (lk s).retries → ∃ t, Runs (.linkDown link) s t ∧ (lk t).down = true ∧ t.mem = s.mem) ∧
    ((lk s).retries < 16 → Runs (.linkDown link) s s) ∧
    (link < 48 → ∃ t, Runs (.linkReenable link) s t ∧ lk t = {} ∧ t.mem = s.mem) ∧
    (48 ≤ link → Runs (.linkRetry link) s s ∧ Runs (.linkDown link) s s ∧ Runs (.linkReenable link) s s) ∧
    Runs (.linkErrorRateReplan link) s s

/-- A withdrawal of a unit that is not in service, of the last I/O die, or of die 0 while another die serves, is
refused; otherwise the unit is withdrawing, a die's cores and its stacks' banks fenced, a stack's banks fenced, an I/O
die silent. It is then out with the units that move with it. A return is taken only from out, and at its end the unit
serves again, its fences gone, a die's contexts idle and memory as before. GO of an idle checkpoint freezes the mesh
cores and quiesces; its end sends the image, and the image's end, taken, or refused or unreachable, resumes the cores
that it froze. An inbound write, read or atomic with no entry that names its key, permits it and holds its bytes
answers with an access error and is counted; an allowed read of readable places answers with the published bytes,
after the earlier messages of ordered delivery where it is one, and an allowed write and atomic outside tidal pages
start as engine operations once nothing holds their places back; an atomic then answers the old bytes and writes the
sum, the operand, or the second operand where the first is found; an unsupported packet is counted. An I/O die that is
silent, or whose ports are all down, or a package in recovery takes nothing. Which withdrawals and returns are taken
is log entry 46, the steps of a checkpoint log entry 47, the atomics' codes, ordered delivery and tidal pages log
entry 49: the model's readings. -/
def Obligations.UnitsAndInbound : Prop :=
  ∀ (s s1 : State) (e : Trap) (u io key off len size op a b pa : Nat) (data bs : List Byte) (ok : Bool) (qs : List (Nat × Nat)),
    let st := fun (x : State) (i : Nat) => x.pkg.svuState.toList.getD i 0
    let bad := st s u ≠ 0 ∨ (u = 36 ∧ st s 37 ≠ 0) ∨ (u = 37 ∧ st s 36 ≠ 0) ∨ (u = 0 ∧ ∃ i, 1 ≤ i ∧ i < 12 ∧ st s i = 0)
    let together := fun (i : Nat) => i = u ∨ (u < 12 ∧ (i = 12 + 2 * u ∨ i = 13 + 2 * u))
    let stepless := ∀ d, (s.die d).groups = []
    let refused := fun (i : Instr) => ∃ t, Runs i s t ∧ t.pkg.svuState = s.pkg.svuState ∧
      t.pkg.svuRefused.toList.getD u false = true ∧ t.mem = s.mem ∧ t.cores = s.cores
    let errs := fun (i : Instr) (x : State) => Runs i s (countIo { x with netOut := x.netOut ++ [.response io false []] } io 0x60 1)
    let silent := fun (i : Instr) => Runs i s s
    let carries := io < 2 ∧ s.pkg.recovery = false ∧ ∃ i, i < 8 ∧ portDown s io i = false
    let write := Instr.inboundRemoteWrite io key off data
    let read := Instr.inboundRemoteRead io key off len
    let atomic := Instr.inboundRemoteAtomic io key off size op a b
    let msg := drawChoice s 2
    let late := msg.1 = 1 ∧ ∃ q ∈ s.ops, q.2.kind = .inbound ∧ q.2.io = io ∧ q.2.ord = true
    let starts := fun (i : Instr) (bytes : List Byte) (atom : Option (Nat × Nat × Nat)) => Runs i s
      (launch readOps { msg.2 with nextOp := msg.2.nextOp + 1 } msg.2.nextOp {
        kind := .inbound, die := 12 + io, scope := .sys, dst := qs, snap := bytes, total := bytes.length,
        dest := .inbound io, io := io, ord := msg.1 == 1, atom := atom })
    (38 ≤ u → Runs (.unitWithdraw u) s s ∧ Runs (.unitReturn u) s s) ∧
    (u < 38 → bad → refused (.unitWithdraw u)) ∧
    (u < 38 → ¬bad → stepless → ∃ t, Runs (.unitWithdraw u) s t ∧ t.mem = s.mem ∧ (∀ i, i < 38 → together i → st t i = 1) ∧
      (u < 12 → (∀ c ∈ coresOfDie u, (t.core c).fenced = true ∧ (t.core c).frozen = true) ∧
        ∀ k ∈ banksOfStack (2 * u) ++ banksOfStack (2 * u + 1), (t.bank k).fenced = true) ∧
      (12 ≤ u → u < 36 → ∀ k ∈ banksOfStack (u - 12), (t.bank k).fenced = true) ∧
      (36 ≤ u → (t.io (u - 36)).out = true)) ∧
    (u < 38 → st s u = 1 → ∃ t, Runs (.unitWithdrawalComplete u) s t ∧ (∀ i, i < 38 → together i → st t i = 2) ∧
      (∀ i, ¬together i → st t i = st s i) ∧ t.mem = s.mem) ∧
    (u < 38 → st s u ≠ 1 → Runs (.unitWithdrawalComplete u) s s) ∧
    (u < 38 → st s u = 2 → ∃ t, Runs (.unitReturn u) s t ∧ (∀ i, i < 38 → together i → st t i = 3) ∧
      (∀ i, ¬together i → st t i = st s i) ∧ t.mem = s.mem) ∧
    (u < 38 → st s u ≠ 2 → refused (.unitReturn u)) ∧
    (u < 38 → st s u = 3 → ∃ t, Runs (.unitReturnComplete u) s t ∧ (∀ i, i < 38 → together i → st t i = 0) ∧
      (u < 12 → (∀ k, (s.ctx k).node = none ∧ ∀ h op, (s.ctx k).getH h ≠ .pending op) → t.mem = s.mem ∧ (t.die u).svRun = false ∧
        ∀ c ∈ coresOfDie u, (t.core c).fenced = false ∧ (t.core c).frozen = false ∧ ∀ k ∈ ctxsOf c, (t.ctx k).st = .idle) ∧
      (12 ≤ u → u < 36 → t.mem = s.mem ∧ ∀ k ∈ banksOfStack (u - 12), (t.bank k).fenced = false) ∧
      (36 ≤ u → t.mem = s.mem ∧ (t.io (u - 36)).out = false)) ∧
    (u < 38 → st s u ≠ 3 → Runs (.unitReturnComplete u) s s) ∧
    ((s.pkg.ckState = 1 ∨ s.pkg.ckState = 2) → Runs .checkpointGo s s) ∧
    (s.pkg.ckState = 1 → s.homeq = [] → s.banks = [] → (∀ i, (s.core i).l1 = []) →
      ∃ t, Runs (.checkpointComplete ok) s t ∧ t.pkg.ckState = 2 ∧ t.mem = s.mem ∧
        t.netOut = s.netOut ++ [.image s.pkg.ckep 0 (ckImage s.mem)]) ∧
    (s.pkg.ckState ≠ 1 → s.pkg.ckState ≠ 2 → stepless → s.ops = [] →
      ∃ t, Runs .checkpointGo s t ∧ t.pkg.ckState = 1 ∧ t.netOut = s.netOut ∧ t.mem = s.mem ∧
        ∀ d, d < 12 → ∀ c ∈ coresOfDie d, (t.core c).frozen = true) ∧
    (s.pkg.ckState = 2 → ∃ t, Runs (.checkpointComplete ok) s t ∧ t.pkg.ckState = (if ok && ckReaches s then 3 else 4) ∧ t.mem = s.mem ∧
      ∀ c, (s.core c).ckFrozen = true → (t.core c).frozen = false ∧ (t.core c).ckFrozen = false) ∧
    (s.pkg.ckState ≠ 1 → s.pkg.ckState ≠ 2 → Runs (.checkpointComplete ok) s s) ∧
    (¬carries → silent write ∧ silent read ∧ silent atomic) ∧
    (carries →
      (inboundAt s io key off data.length 2 = none → errs write s) ∧
      (2 ^ 32 < data.length → inboundAt s io key off data.length 2 = none) ∧
      (inboundAt s io key off data.length 2 = some pa → dramPieces s pa data.length = some qs →
        (piecesHeld s .store qs = some s1 → Runs write s s1) ∧
        (piecesHeld s .store qs = none → tidalRun s qs = true → errs write s) ∧
        (piecesHeld s .store qs = none → tidalRun s qs = false → starts write data none)) ∧
      (inboundAt s io key off len 1 = none → errs read s) ∧
      (inboundAt s io key off len 1 = some pa → dramPieces s pa len = some qs →
        (late → Runs read s msg.2) ∧
        (¬late → inboundBytes msg.2 io qs = .ok (bs, s1) →
          Runs read s { s1 with netOut := s1.netOut ++ [.response io true bs] }) ∧
        (¬late → inboundBytes msg.2 io qs = .error (e, s1) → (e.code = 0 → Runs read s (withWakes msg.2 s1)) ∧
          (e.code ≠ 0 → errs read s1))) ∧
      ((¬(size = 4 ∨ size = 8) ∨ 3 ≤ op ∨ inboundAt s io key off size 3 = none) → errs atomic s) ∧
      ((size = 4 ∨ size = 8) → op < 3 → inboundAt s io key off size 3 = some pa → dramPieces s pa size = some qs →
        (piecesHeld s .store qs = some s1 → Runs atomic s s1) ∧
        (piecesHeld s .store qs = none → tidalRun s qs = true → errs atomic s) ∧
        (piecesHeld s .store qs = none → tidalRun s qs = false →
          starts atomic (List.replicate size 0#8) (some (op, a, b))))) ∧
    (∀ o : EngOp, o.atom = some (op, a, b) → o.total = size → op < 3 → (atomStep o bs).1.sig = some (bytesToNat bs) ∧
      (atomStep o bs).2 = natToBytes size
        (if op = 0 then (bytesToNat bs + a) % 2 ^ (8 * size) else if op = 1 then a % 2 ^ (8 * size)
         else if bytesToNat bs = a % 2 ^ (8 * size) then b % 2 ^ (8 * size) else bytesToNat bs)) ∧
    (io < 2 → Runs (.inboundUnsupportedPacket io) s (countIo s io 0x60 1)) ∧
    (2 ≤ io → Runs (.inboundUnsupportedPacket io) s s)
end

