-- ==== Sys2Proof/Laws/SMap.lean ====
section
/-! SUPPORT. Sparse tables and memory: what a read finds after a write, and that every memory operation keeps the canonical
form. -/

namespace Sys2Proof.Machine
open Sys2Proof

variable {α : Type}

/-! ## Tables -/

@[simp] theorem SMap.find?_nil (i : Nat) : SMap.find? ([] : SMap α) i = none := rfl

@[simp] theorem SMap.getD_nil (i : Nat) (d : α) : SMap.getD ([] : SMap α) i d = d := rfl

theorem SMap.find?_cons (k : Nat) (v : α) (r : SMap α) (i : Nat) :
    SMap.find? ((k, v) :: r) i = if i = k then some v else SMap.find? r i := rfl

theorem SMap.find?_put (m : SMap α) (i j : Nat) (v : α) :
    SMap.find? (SMap.put m i v) j = if j = i then some v else SMap.find? m j := by
  induction m with
  | nil => rfl
  | cons p r ih =>
    obtain ⟨k, w⟩ := p
    simp only [SMap.put]
    split
    · next h => subst h; simp only [SMap.find?_cons]; split <;> rfl
    · split
      · simp only [SMap.find?_cons]
      · next h _ =>
        simp only [SMap.find?_cons, ih]
        by_cases hj : j = k
        · subst hj; simp [Ne.symm h]
        · simp [hj]

@[simp] theorem SMap.getD_put_same (m : SMap α) (i : Nat) (v d : α) : SMap.getD (SMap.put m i v) i d = v := by
  simp [SMap.getD, SMap.find?_put]

theorem SMap.getD_put_other (m : SMap α) {i j : Nat} (h : j ≠ i) (v d : α) :
    SMap.getD (SMap.put m i v) j d = SMap.getD m j d := by
  simp [SMap.getD, SMap.find?_put, h]

theorem SMap.getD_put (m : SMap α) (i j : Nat) (v d : α) :
    SMap.getD (SMap.put m i v) j d = if j = i then v else SMap.getD m j d := by
  by_cases h : j = i
  · subst h; simp
  · simp [h, SMap.getD_put_other]

theorem SMap.find?_del (m : SMap α) (i j : Nat) :
    SMap.find? (SMap.del m i) j = if j = i then none else SMap.find? m j := by
  induction m with
  | nil => simp [SMap.del]
  | cons p r ih =>
    obtain ⟨k, w⟩ := p
    simp only [SMap.del]
    split
    · next h =>
      subst h; rw [ih, SMap.find?_cons]
      by_cases hj : j = i <;> simp [hj]
    · next h =>
      simp only [SMap.find?_cons, ih]
      by_cases hj : j = k
      · subst hj; simp [Ne.symm h]
      · simp [hj]

/-! ## Rising keys -/

/-- Every key of a table is above a bound. -/
def SMap.above (m : SMap α) (n : Nat) : Prop := ∀ p ∈ m, n < p.1

theorem SMap.rising_cons (k : Nat) (v : α) (r : SMap α) :
    SMap.rising ((k, v) :: r) = true ↔ SMap.above r k ∧ SMap.rising r = true := by
  induction r generalizing k v with
  | nil => simp [SMap.rising, SMap.above]
  | cons p r ih =>
    obtain ⟨b, w⟩ := p
    simp only [SMap.rising, Bool.and_eq_true, decide_eq_true_eq, SMap.above, List.mem_cons]
    constructor
    · rintro ⟨h, hr⟩
      refine ⟨?_, hr⟩
      rintro q (rfl | hq)
      · exact h
      · exact Nat.lt_trans h (((ih b w).1 hr).1 q hq)
    · rintro ⟨h, hr⟩
      exact ⟨h (b, w) (.inl rfl), hr⟩

theorem SMap.above_put {m : SMap α} {n i : Nat} (hm : SMap.above m n) (hi : n < i) (v : α) :
    SMap.above (SMap.put m i v) n := by
  induction m with
  | nil => intro p hp; simp only [SMap.put, List.mem_singleton] at hp; subst hp; exact hi
  | cons q r ih =>
    obtain ⟨k, w⟩ := q
    have hr : SMap.above r n := fun p hp => hm p (List.mem_cons_of_mem _ hp)
    have hk : n < k := hm (k, w) List.mem_cons_self
    intro p hp
    simp only [SMap.put] at hp
    split at hp
    · rcases List.mem_cons.1 hp with rfl | hp
      · exact hi
      · exact hr p hp
    · split at hp
      · rcases List.mem_cons.1 hp with rfl | hp
        · exact hi
        · exact hm p hp
      · rcases List.mem_cons.1 hp with rfl | hp
        · exact hk
        · exact ih hr p hp

theorem SMap.above_del {m : SMap α} {n : Nat} (hm : SMap.above m n) (i : Nat) : SMap.above (SMap.del m i) n := by
  induction m with
  | nil => exact hm
  | cons q r ih =>
    obtain ⟨k, w⟩ := q
    have hr : SMap.above r n := fun p hp => hm p (List.mem_cons_of_mem _ hp)
    intro p hp
    simp only [SMap.del] at hp
    split at hp
    · exact ih hr p hp
    · rcases List.mem_cons.1 hp with rfl | hp
      · exact hm _ List.mem_cons_self
      · exact ih hr p hp

theorem SMap.rising_put {m : SMap α} (hm : SMap.rising m = true) (i : Nat) (v : α) :
    SMap.rising (SMap.put m i v) = true := by
  induction m with
  | nil => rfl
  | cons q r ih =>
    obtain ⟨k, w⟩ := q
    obtain ⟨ha, hr⟩ := (SMap.rising_cons k w r).1 hm
    simp only [SMap.put]
    split
    · next h => subst h; exact (SMap.rising_cons _ _ _).2 ⟨ha, hr⟩
    · split
      · next h =>
        refine (SMap.rising_cons _ _ _).2 ⟨?_, hm⟩
        intro p hp
        rcases List.mem_cons.1 hp with rfl | hp
        · exact h
        · exact Nat.lt_trans h (ha p hp)
      · exact (SMap.rising_cons _ _ _).2 ⟨SMap.above_put ha (by omega) v, ih hr⟩

theorem SMap.rising_del {m : SMap α} (hm : SMap.rising m = true) (i : Nat) : SMap.rising (SMap.del m i) = true := by
  induction m with
  | nil => rfl
  | cons q r ih =>
    obtain ⟨k, w⟩ := q
    obtain ⟨ha, hr⟩ := (SMap.rising_cons k w r).1 hm
    simp only [SMap.del]
    split
    · exact ih hr
    · exact (SMap.rising_cons _ _ _).2 ⟨SMap.above_del ha i, ih hr⟩

theorem SMap.mem_put {m : SMap α} {i : Nat} {v : α} {p : Nat × α} (h : p ∈ SMap.put m i v) : p = (i, v) ∨ p ∈ m := by
  induction m with
  | nil => simpa [SMap.put] using h
  | cons q r ih =>
    obtain ⟨k, w⟩ := q
    simp only [SMap.put] at h
    split at h
    · exact (List.mem_cons.1 h).imp_right (List.mem_cons_of_mem _)
    · split at h
      · exact List.mem_cons.1 h
      · rcases List.mem_cons.1 h with rfl | h
        · exact .inr List.mem_cons_self
        · exact (ih h).imp_right (List.mem_cons_of_mem _)

theorem SMap.mem_del {m : SMap α} {i : Nat} {p : Nat × α} (h : p ∈ SMap.del m i) : p ∈ m := by
  induction m with
  | nil => exact h
  | cons q r ih =>
    obtain ⟨k, w⟩ := q
    simp only [SMap.del] at h
    split at h
    · exact List.mem_cons_of_mem _ (ih h)
    · rcases List.mem_cons.1 h with rfl | h
      · exact List.mem_cons_self
      · exact List.mem_cons_of_mem _ (ih h)

/-! ## Memory -/

theorem Memory.wf_iff (m : Memory) :
    Memory.wf m = true ↔ SMap.rising m = true ∧ ∀ p ∈ m, p.2 ≠ Memory.default := by
  simp [Memory.wf]

theorem Memory.wf_nil : Memory.wf [] = true := rfl

theorem Memory.wf_write {m : Memory} (h : Memory.wf m = true) (a : Nat) (b : Byte) :
    Memory.wf (Memory.write m a b) = true := by
  rw [Memory.wf_iff] at h ⊢
  unfold Memory.write
  split
  · exact ⟨SMap.rising_del h.1 a, fun p hp => h.2 p (SMap.mem_del hp)⟩
  · next hb =>
    refine ⟨SMap.rising_put h.1 a b, fun p hp => ?_⟩
    rcases SMap.mem_put hp with rfl | hp
    · exact hb
    · exact h.2 p hp

theorem Memory.wf_writeN {m : Memory} (h : Memory.wf m = true) (a : Nat) (bs : List Byte) :
    Memory.wf (Memory.writeN m a bs) = true := by
  induction bs generalizing m a with
  | nil => exact h
  | cons b bs ih => exact ih (Memory.wf_write h a b) (a + 1)

theorem Memory.wf_writeMask {m : Memory} (h : Memory.wf m = true) (a k : Nat) (bs : List Byte) :
    Memory.wf (Memory.writeMask m a k bs) = true := by
  induction bs generalizing m a k with
  | nil => exact h
  | cons b bs ih =>
    simp only [Memory.writeMask]
    split
    · exact ih (Memory.wf_write h a b) _ _
    · exact ih h _ _

@[simp] theorem Memory.read_nil (a : Nat) : Memory.read [] a = Memory.default := rfl

theorem Memory.read_write (m : Memory) (a x : Nat) (b : Byte) :
    Memory.read (Memory.write m a b) x = if x = a then b else Memory.read m x := by
  unfold Memory.read Memory.write
  split
  · next h => rw [SMap.find?_del]; split <;> simp [h]
  · rw [SMap.find?_put]; split <;> simp

@[simp] theorem Memory.read_write_same (m : Memory) (a : Nat) (b : Byte) : Memory.read (Memory.write m a b) a = b := by
  simp [Memory.read_write]

theorem Memory.read_write_other (m : Memory) {a x : Nat} (h : x ≠ a) (b : Byte) :
    Memory.read (Memory.write m a b) x = Memory.read m x := by
  simp [Memory.read_write, h]

theorem Memory.read_writeN (m : Memory) (a x : Nat) (bs : List Byte) :
    Memory.read (Memory.writeN m a bs) x =
      if a ≤ x ∧ x < a + bs.length then bs.getD (x - a) Memory.default else Memory.read m x := by
  induction bs generalizing m a with
  | nil => rw [if_neg (by simp only [List.length_nil]; omega)]; rfl
  | cons b bs ih =>
    simp only [Memory.writeN, ih, Memory.read_write, List.length_cons]
    by_cases hx : x = a
    · subst hx; rw [if_neg (by omega), if_pos rfl, if_pos (by omega)]; simp
    · by_cases h : a + 1 ≤ x ∧ x < a + 1 + bs.length
      · obtain ⟨j, rfl⟩ : ∃ j, x = a + 1 + j := ⟨x - (a + 1), by omega⟩
        rw [if_pos h, if_pos (by omega)]
        rw [show a + 1 + j - (a + 1) = j by omega, show a + 1 + j - a = j + 1 by omega]
        rfl
      · rw [if_neg h, if_neg hx, if_neg (by omega)]

theorem Memory.read_writeN_outside (m : Memory) {a x : Nat} {bs : List Byte} (h : x < a ∨ a + bs.length ≤ x) :
    Memory.read (Memory.writeN m a bs) x = Memory.read m x := by
  rw [Memory.read_writeN, if_neg (by omega)]

theorem Memory.readN_length (m : Memory) (a n : Nat) : (Memory.readN m a n).length = n := by
  induction n generalizing a with
  | zero => rfl
  | succ n ih => simp [Memory.readN, ih]

theorem Memory.readN_writeN (m : Memory) (a : Nat) (bs : List Byte) :
    Memory.readN (Memory.writeN m a bs) a bs.length = bs := by
  induction bs generalizing m a with
  | nil => rfl
  | cons b bs ih =>
    simp only [List.length_cons, Memory.readN, Memory.writeN]
    rw [ih, Memory.read_writeN_outside _ (.inl (Nat.lt_succ_self a)), Memory.read_write_same]

end Sys2Proof.Machine
end

