-- ==== Sys2Proof/Laws/State.lean ====
section
/-! SUPPORT. The fields of the state after each update: one lemma for each field and update. -/

namespace Sys2Proof.Machine
open Sys2Proof

/-! ## Ctx tables -/

@[simp] theorem State.setCtx_ctxs (s : State) (k : Nat) (v : Ctx) : (s.setCtx k v).ctxs = SMap.put s.ctxs k v := rfl
@[simp] theorem State.modCtx_ctxs (s : State) (k : Nat) (f : Ctx → Ctx) :
    (s.modCtx k f).ctxs = SMap.put s.ctxs k (f (s.ctx k)) := rfl
@[simp] theorem State.setCtx_cores (s : State) (k : Nat) (v : Ctx) : (s.setCtx k v).cores = s.cores := rfl
@[simp] theorem State.modCtx_cores (s : State) (k : Nat) (f : Ctx → Ctx) : (s.modCtx k f).cores = s.cores := rfl
@[simp] theorem State.setCtx_gangs (s : State) (k : Nat) (v : Ctx) : (s.setCtx k v).gangs = s.gangs := rfl
@[simp] theorem State.modCtx_gangs (s : State) (k : Nat) (f : Ctx → Ctx) : (s.modCtx k f).gangs = s.gangs := rfl
@[simp] theorem State.setCtx_dies (s : State) (k : Nat) (v : Ctx) : (s.setCtx k v).dies = s.dies := rfl
@[simp] theorem State.modCtx_dies (s : State) (k : Nat) (f : Ctx → Ctx) : (s.modCtx k f).dies = s.dies := rfl
@[simp] theorem State.setCtx_banks (s : State) (k : Nat) (v : Ctx) : (s.setCtx k v).banks = s.banks := rfl
@[simp] theorem State.modCtx_banks (s : State) (k : Nat) (f : Ctx → Ctx) : (s.modCtx k f).banks = s.banks := rfl
@[simp] theorem State.setCtx_ios (s : State) (k : Nat) (v : Ctx) : (s.setCtx k v).ios = s.ios := rfl
@[simp] theorem State.modCtx_ios (s : State) (k : Nat) (f : Ctx → Ctx) : (s.modCtx k f).ios = s.ios := rfl
@[simp] theorem State.setCtx_pkg (s : State) (k : Nat) (v : Ctx) : (s.setCtx k v).pkg = s.pkg := rfl
@[simp] theorem State.modCtx_pkg (s : State) (k : Nat) (f : Ctx → Ctx) : (s.modCtx k f).pkg = s.pkg := rfl
@[simp] theorem State.setCtx_mem (s : State) (k : Nat) (v : Ctx) : (s.setCtx k v).mem = s.mem := rfl
@[simp] theorem State.modCtx_mem (s : State) (k : Nat) (f : Ctx → Ctx) : (s.modCtx k f).mem = s.mem := rfl
@[simp] theorem State.setCtx_tiles (s : State) (k : Nat) (v : Ctx) : (s.setCtx k v).tiles = s.tiles := rfl
@[simp] theorem State.modCtx_tiles (s : State) (k : Nat) (f : Ctx → Ctx) : (s.modCtx k f).tiles = s.tiles := rfl
@[simp] theorem State.setCtx_l2 (s : State) (k : Nat) (v : Ctx) : (s.setCtx k v).l2 = s.l2 := rfl
@[simp] theorem State.modCtx_l2 (s : State) (k : Nat) (f : Ctx → Ctx) : (s.modCtx k f).l2 = s.l2 := rfl
@[simp] theorem State.setCtx_races (s : State) (k : Nat) (v : Ctx) : (s.setCtx k v).races = s.races := rfl
@[simp] theorem State.modCtx_races (s : State) (k : Nat) (f : Ctx → Ctx) : (s.modCtx k f).races = s.races := rfl
@[simp] theorem State.setCtx_pend (s : State) (k : Nat) (v : Ctx) : (s.setCtx k v).pend = s.pend := rfl
@[simp] theorem State.modCtx_pend (s : State) (k : Nat) (f : Ctx → Ctx) : (s.modCtx k f).pend = s.pend := rfl
@[simp] theorem State.setCtx_ops (s : State) (k : Nat) (v : Ctx) : (s.setCtx k v).ops = s.ops := rfl
@[simp] theorem State.modCtx_ops (s : State) (k : Nat) (f : Ctx → Ctx) : (s.modCtx k f).ops = s.ops := rfl
@[simp] theorem State.setCtx_nextOp (s : State) (k : Nat) (v : Ctx) : (s.setCtx k v).nextOp = s.nextOp := rfl
@[simp] theorem State.modCtx_nextOp (s : State) (k : Nat) (f : Ctx → Ctx) : (s.modCtx k f).nextOp = s.nextOp := rfl
@[simp] theorem State.setCtx_deferred (s : State) (k : Nat) (v : Ctx) : (s.setCtx k v).deferred = s.deferred := rfl
@[simp] theorem State.modCtx_deferred (s : State) (k : Nat) (f : Ctx → Ctx) : (s.modCtx k f).deferred = s.deferred := rfl
@[simp] theorem State.setCtx_homeq (s : State) (k : Nat) (v : Ctx) : (s.setCtx k v).homeq = s.homeq := rfl
@[simp] theorem State.modCtx_homeq (s : State) (k : Nat) (f : Ctx → Ctx) : (s.modCtx k f).homeq = s.homeq := rfl
@[simp] theorem State.setCtx_netOut (s : State) (k : Nat) (v : Ctx) : (s.setCtx k v).netOut = s.netOut := rfl
@[simp] theorem State.modCtx_netOut (s : State) (k : Nat) (f : Ctx → Ctx) : (s.modCtx k f).netOut = s.netOut := rfl
@[simp] theorem State.setCtx_graphs (s : State) (k : Nat) (v : Ctx) : (s.setCtx k v).graphs = s.graphs := rfl
@[simp] theorem State.modCtx_graphs (s : State) (k : Nat) (f : Ctx → Ctx) : (s.modCtx k f).graphs = s.graphs := rfl
@[simp] theorem State.setCtx_links (s : State) (k : Nat) (v : Ctx) : (s.setCtx k v).links = s.links := rfl
@[simp] theorem State.modCtx_links (s : State) (k : Nat) (f : Ctx → Ctx) : (s.modCtx k f).links = s.links := rfl
@[simp] theorem State.setCtx_upsets (s : State) (k : Nat) (v : Ctx) : (s.setCtx k v).upsets = s.upsets := rfl
@[simp] theorem State.modCtx_upsets (s : State) (k : Nat) (f : Ctx → Ctx) : (s.modCtx k f).upsets = s.upsets := rfl
@[simp] theorem State.setCtx_poison (s : State) (k : Nat) (v : Ctx) : (s.setCtx k v).poison = s.poison := rfl
@[simp] theorem State.modCtx_poison (s : State) (k : Nat) (f : Ctx → Ctx) : (s.modCtx k f).poison = s.poison := rfl
@[simp] theorem State.setCtx_turns (s : State) (k : Nat) (v : Ctx) : (s.setCtx k v).turns = s.turns := rfl
@[simp] theorem State.modCtx_turns (s : State) (k : Nat) (f : Ctx → Ctx) : (s.modCtx k f).turns = s.turns := rfl
@[simp] theorem State.setCtx_tick (s : State) (k : Nat) (v : Ctx) : (s.setCtx k v).tick = s.tick := rfl
@[simp] theorem State.modCtx_tick (s : State) (k : Nat) (f : Ctx → Ctx) : (s.modCtx k f).tick = s.tick := rfl
@[simp] theorem State.setCtx_free (s : State) (k : Nat) (v : Ctx) : (s.setCtx k v).free = s.free := rfl
@[simp] theorem State.modCtx_free (s : State) (k : Nat) (f : Ctx → Ctx) : (s.modCtx k f).free = s.free := rfl
@[simp] theorem State.setCtx_time (s : State) (k : Nat) (v : Ctx) : (s.setCtx k v).time = s.time := rfl
@[simp] theorem State.modCtx_time (s : State) (k : Nat) (f : Ctx → Ctx) : (s.modCtx k f).time = s.time := rfl
@[simp] theorem State.setCtx_cur (s : State) (k : Nat) (v : Ctx) : (s.setCtx k v).cur = s.cur := rfl
@[simp] theorem State.modCtx_cur (s : State) (k : Nat) (f : Ctx → Ctx) : (s.modCtx k f).cur = s.cur := rfl

@[simp] theorem State.setCtx_core (s : State) (k : Nat) (v : Ctx) (j : Nat) :
    (s.setCtx k v).core j = s.core j := rfl
@[simp] theorem State.modCtx_core (s : State) (k : Nat) (f : Ctx → Ctx) (j : Nat) :
    (s.modCtx k f).core j = s.core j := rfl
@[simp] theorem State.setCtx_gang (s : State) (k : Nat) (v : Ctx) (j : Nat) :
    (s.setCtx k v).gang j = s.gang j := rfl
@[simp] theorem State.modCtx_gang (s : State) (k : Nat) (f : Ctx → Ctx) (j : Nat) :
    (s.modCtx k f).gang j = s.gang j := rfl
@[simp] theorem State.setCtx_die (s : State) (k : Nat) (v : Ctx) (j : Nat) :
    (s.setCtx k v).die j = s.die j := rfl
@[simp] theorem State.modCtx_die (s : State) (k : Nat) (f : Ctx → Ctx) (j : Nat) :
    (s.modCtx k f).die j = s.die j := rfl
@[simp] theorem State.setCtx_bank (s : State) (k : Nat) (v : Ctx) (j : Nat) :
    (s.setCtx k v).bank j = s.bank j := rfl
@[simp] theorem State.modCtx_bank (s : State) (k : Nat) (f : Ctx → Ctx) (j : Nat) :
    (s.modCtx k f).bank j = s.bank j := rfl
@[simp] theorem State.setCtx_io (s : State) (k : Nat) (v : Ctx) (j : Nat) :
    (s.setCtx k v).io j = s.io j := rfl
@[simp] theorem State.modCtx_io (s : State) (k : Nat) (f : Ctx → Ctx) (j : Nat) :
    (s.modCtx k f).io j = s.io j := rfl
@[simp] theorem State.setCtx_tile (s : State) (k : Nat) (v : Ctx) (j : Nat) :
    (s.setCtx k v).tile j = s.tile j := rfl
@[simp] theorem State.modCtx_tile (s : State) (k : Nat) (f : Ctx → Ctx) (j : Nat) :
    (s.modCtx k f).tile j = s.tile j := rfl

@[simp] theorem State.setCtx_ctx_same (s : State) (k : Nat) (v : Ctx) : (s.setCtx k v).ctx k = v :=
  SMap.getD_put_same _ _ _ _

theorem State.setCtx_ctx_other (s : State) {k j : Nat} (h : j ≠ k) (v : Ctx) : (s.setCtx k v).ctx j = s.ctx j :=
  SMap.getD_put_other _ h _ _

@[simp] theorem State.modCtx_ctx_same (s : State) (k : Nat) (f : Ctx → Ctx) : (s.modCtx k f).ctx k = f (s.ctx k) :=
  SMap.getD_put_same _ _ _ _

theorem State.modCtx_ctx_other (s : State) {k j : Nat} (h : j ≠ k) (f : Ctx → Ctx) :
    (s.modCtx k f).ctx j = s.ctx j := SMap.getD_put_other _ h _ _

/-! ## Core tables -/

@[simp] theorem State.setCore_ctxs (s : State) (k : Nat) (v : Core) : (s.setCore k v).ctxs = s.ctxs := rfl
@[simp] theorem State.modCore_ctxs (s : State) (k : Nat) (f : Core → Core) : (s.modCore k f).ctxs = s.ctxs := rfl
@[simp] theorem State.setCore_cores (s : State) (k : Nat) (v : Core) : (s.setCore k v).cores = SMap.put s.cores k v := rfl
@[simp] theorem State.modCore_cores (s : State) (k : Nat) (f : Core → Core) :
    (s.modCore k f).cores = SMap.put s.cores k (f (s.core k)) := rfl
@[simp] theorem State.setCore_gangs (s : State) (k : Nat) (v : Core) : (s.setCore k v).gangs = s.gangs := rfl
@[simp] theorem State.modCore_gangs (s : State) (k : Nat) (f : Core → Core) : (s.modCore k f).gangs = s.gangs := rfl
@[simp] theorem State.setCore_dies (s : State) (k : Nat) (v : Core) : (s.setCore k v).dies = s.dies := rfl
@[simp] theorem State.modCore_dies (s : State) (k : Nat) (f : Core → Core) : (s.modCore k f).dies = s.dies := rfl
@[simp] theorem State.setCore_banks (s : State) (k : Nat) (v : Core) : (s.setCore k v).banks = s.banks := rfl
@[simp] theorem State.modCore_banks (s : State) (k : Nat) (f : Core → Core) : (s.modCore k f).banks = s.banks := rfl
@[simp] theorem State.setCore_ios (s : State) (k : Nat) (v : Core) : (s.setCore k v).ios = s.ios := rfl
@[simp] theorem State.modCore_ios (s : State) (k : Nat) (f : Core → Core) : (s.modCore k f).ios = s.ios := rfl
@[simp] theorem State.setCore_pkg (s : State) (k : Nat) (v : Core) : (s.setCore k v).pkg = s.pkg := rfl
@[simp] theorem State.modCore_pkg (s : State) (k : Nat) (f : Core → Core) : (s.modCore k f).pkg = s.pkg := rfl
@[simp] theorem State.setCore_mem (s : State) (k : Nat) (v : Core) : (s.setCore k v).mem = s.mem := rfl
@[simp] theorem State.modCore_mem (s : State) (k : Nat) (f : Core → Core) : (s.modCore k f).mem = s.mem := rfl
@[simp] theorem State.setCore_tiles (s : State) (k : Nat) (v : Core) : (s.setCore k v).tiles = s.tiles := rfl
@[simp] theorem State.modCore_tiles (s : State) (k : Nat) (f : Core → Core) : (s.modCore k f).tiles = s.tiles := rfl
@[simp] theorem State.setCore_l2 (s : State) (k : Nat) (v : Core) : (s.setCore k v).l2 = s.l2 := rfl
@[simp] theorem State.modCore_l2 (s : State) (k : Nat) (f : Core → Core) : (s.modCore k f).l2 = s.l2 := rfl
@[simp] theorem State.setCore_races (s : State) (k : Nat) (v : Core) : (s.setCore k v).races = s.races := rfl
@[simp] theorem State.modCore_races (s : State) (k : Nat) (f : Core → Core) : (s.modCore k f).races = s.races := rfl
@[simp] theorem State.setCore_pend (s : State) (k : Nat) (v : Core) : (s.setCore k v).pend = s.pend := rfl
@[simp] theorem State.modCore_pend (s : State) (k : Nat) (f : Core → Core) : (s.modCore k f).pend = s.pend := rfl
@[simp] theorem State.setCore_ops (s : State) (k : Nat) (v : Core) : (s.setCore k v).ops = s.ops := rfl
@[simp] theorem State.modCore_ops (s : State) (k : Nat) (f : Core → Core) : (s.modCore k f).ops = s.ops := rfl
@[simp] theorem State.setCore_nextOp (s : State) (k : Nat) (v : Core) : (s.setCore k v).nextOp = s.nextOp := rfl
@[simp] theorem State.modCore_nextOp (s : State) (k : Nat) (f : Core → Core) : (s.modCore k f).nextOp = s.nextOp := rfl
@[simp] theorem State.setCore_deferred (s : State) (k : Nat) (v : Core) : (s.setCore k v).deferred = s.deferred := rfl
@[simp] theorem State.modCore_deferred (s : State) (k : Nat) (f : Core → Core) : (s.modCore k f).deferred = s.deferred := rfl
@[simp] theorem State.setCore_homeq (s : State) (k : Nat) (v : Core) : (s.setCore k v).homeq = s.homeq := rfl
@[simp] theorem State.modCore_homeq (s : State) (k : Nat) (f : Core → Core) : (s.modCore k f).homeq = s.homeq := rfl
@[simp] theorem State.setCore_netOut (s : State) (k : Nat) (v : Core) : (s.setCore k v).netOut = s.netOut := rfl
@[simp] theorem State.modCore_netOut (s : State) (k : Nat) (f : Core → Core) : (s.modCore k f).netOut = s.netOut := rfl
@[simp] theorem State.setCore_graphs (s : State) (k : Nat) (v : Core) : (s.setCore k v).graphs = s.graphs := rfl
@[simp] theorem State.modCore_graphs (s : State) (k : Nat) (f : Core → Core) : (s.modCore k f).graphs = s.graphs := rfl
@[simp] theorem State.setCore_links (s : State) (k : Nat) (v : Core) : (s.setCore k v).links = s.links := rfl
@[simp] theorem State.modCore_links (s : State) (k : Nat) (f : Core → Core) : (s.modCore k f).links = s.links := rfl
@[simp] theorem State.setCore_upsets (s : State) (k : Nat) (v : Core) : (s.setCore k v).upsets = s.upsets := rfl
@[simp] theorem State.modCore_upsets (s : State) (k : Nat) (f : Core → Core) : (s.modCore k f).upsets = s.upsets := rfl
@[simp] theorem State.setCore_poison (s : State) (k : Nat) (v : Core) : (s.setCore k v).poison = s.poison := rfl
@[simp] theorem State.modCore_poison (s : State) (k : Nat) (f : Core → Core) : (s.modCore k f).poison = s.poison := rfl
@[simp] theorem State.setCore_turns (s : State) (k : Nat) (v : Core) : (s.setCore k v).turns = s.turns := rfl
@[simp] theorem State.modCore_turns (s : State) (k : Nat) (f : Core → Core) : (s.modCore k f).turns = s.turns := rfl
@[simp] theorem State.setCore_tick (s : State) (k : Nat) (v : Core) : (s.setCore k v).tick = s.tick := rfl
@[simp] theorem State.modCore_tick (s : State) (k : Nat) (f : Core → Core) : (s.modCore k f).tick = s.tick := rfl
@[simp] theorem State.setCore_free (s : State) (k : Nat) (v : Core) : (s.setCore k v).free = s.free := rfl
@[simp] theorem State.modCore_free (s : State) (k : Nat) (f : Core → Core) : (s.modCore k f).free = s.free := rfl
@[simp] theorem State.setCore_time (s : State) (k : Nat) (v : Core) : (s.setCore k v).time = s.time := rfl
@[simp] theorem State.modCore_time (s : State) (k : Nat) (f : Core → Core) : (s.modCore k f).time = s.time := rfl
@[simp] theorem State.setCore_cur (s : State) (k : Nat) (v : Core) : (s.setCore k v).cur = s.cur := rfl
@[simp] theorem State.modCore_cur (s : State) (k : Nat) (f : Core → Core) : (s.modCore k f).cur = s.cur := rfl

@[simp] theorem State.setCore_ctx (s : State) (k : Nat) (v : Core) (j : Nat) :
    (s.setCore k v).ctx j = s.ctx j := rfl
@[simp] theorem State.modCore_ctx (s : State) (k : Nat) (f : Core → Core) (j : Nat) :
    (s.modCore k f).ctx j = s.ctx j := rfl
@[simp] theorem State.setCore_gang (s : State) (k : Nat) (v : Core) (j : Nat) :
    (s.setCore k v).gang j = s.gang j := rfl
@[simp] theorem State.modCore_gang (s : State) (k : Nat) (f : Core → Core) (j : Nat) :
    (s.modCore k f).gang j = s.gang j := rfl
@[simp] theorem State.setCore_die (s : State) (k : Nat) (v : Core) (j : Nat) :
    (s.setCore k v).die j = s.die j := rfl
@[simp] theorem State.modCore_die (s : State) (k : Nat) (f : Core → Core) (j : Nat) :
    (s.modCore k f).die j = s.die j := rfl
@[simp] theorem State.setCore_bank (s : State) (k : Nat) (v : Core) (j : Nat) :
    (s.setCore k v).bank j = s.bank j := rfl
@[simp] theorem State.modCore_bank (s : State) (k : Nat) (f : Core → Core) (j : Nat) :
    (s.modCore k f).bank j = s.bank j := rfl
@[simp] theorem State.setCore_io (s : State) (k : Nat) (v : Core) (j : Nat) :
    (s.setCore k v).io j = s.io j := rfl
@[simp] theorem State.modCore_io (s : State) (k : Nat) (f : Core → Core) (j : Nat) :
    (s.modCore k f).io j = s.io j := rfl
@[simp] theorem State.setCore_tile (s : State) (k : Nat) (v : Core) (j : Nat) :
    (s.setCore k v).tile j = s.tile j := rfl
@[simp] theorem State.modCore_tile (s : State) (k : Nat) (f : Core → Core) (j : Nat) :
    (s.modCore k f).tile j = s.tile j := rfl

@[simp] theorem State.setCore_core_same (s : State) (k : Nat) (v : Core) : (s.setCore k v).core k = v :=
  SMap.getD_put_same _ _ _ _

theorem State.setCore_core_other (s : State) {k j : Nat} (h : j ≠ k) (v : Core) : (s.setCore k v).core j = s.core j :=
  SMap.getD_put_other _ h _ _

@[simp] theorem State.modCore_core_same (s : State) (k : Nat) (f : Core → Core) : (s.modCore k f).core k = f (s.core k) :=
  SMap.getD_put_same _ _ _ _

theorem State.modCore_core_other (s : State) {k j : Nat} (h : j ≠ k) (f : Core → Core) :
    (s.modCore k f).core j = s.core j := SMap.getD_put_other _ h _ _

/-! ## Gang tables -/

@[simp] theorem State.setGang_ctxs (s : State) (k : Nat) (v : Gang) : (s.setGang k v).ctxs = s.ctxs := rfl
@[simp] theorem State.modGang_ctxs (s : State) (k : Nat) (f : Gang → Gang) : (s.modGang k f).ctxs = s.ctxs := rfl
@[simp] theorem State.setGang_cores (s : State) (k : Nat) (v : Gang) : (s.setGang k v).cores = s.cores := rfl
@[simp] theorem State.modGang_cores (s : State) (k : Nat) (f : Gang → Gang) : (s.modGang k f).cores = s.cores := rfl
@[simp] theorem State.setGang_gangs (s : State) (k : Nat) (v : Gang) : (s.setGang k v).gangs = SMap.put s.gangs k v := rfl
@[simp] theorem State.modGang_gangs (s : State) (k : Nat) (f : Gang → Gang) :
    (s.modGang k f).gangs = SMap.put s.gangs k (f (s.gang k)) := rfl
@[simp] theorem State.setGang_dies (s : State) (k : Nat) (v : Gang) : (s.setGang k v).dies = s.dies := rfl
@[simp] theorem State.modGang_dies (s : State) (k : Nat) (f : Gang → Gang) : (s.modGang k f).dies = s.dies := rfl
@[simp] theorem State.setGang_banks (s : State) (k : Nat) (v : Gang) : (s.setGang k v).banks = s.banks := rfl
@[simp] theorem State.modGang_banks (s : State) (k : Nat) (f : Gang → Gang) : (s.modGang k f).banks = s.banks := rfl
@[simp] theorem State.setGang_ios (s : State) (k : Nat) (v : Gang) : (s.setGang k v).ios = s.ios := rfl
@[simp] theorem State.modGang_ios (s : State) (k : Nat) (f : Gang → Gang) : (s.modGang k f).ios = s.ios := rfl
@[simp] theorem State.setGang_pkg (s : State) (k : Nat) (v : Gang) : (s.setGang k v).pkg = s.pkg := rfl
@[simp] theorem State.modGang_pkg (s : State) (k : Nat) (f : Gang → Gang) : (s.modGang k f).pkg = s.pkg := rfl
@[simp] theorem State.setGang_mem (s : State) (k : Nat) (v : Gang) : (s.setGang k v).mem = s.mem := rfl
@[simp] theorem State.modGang_mem (s : State) (k : Nat) (f : Gang → Gang) : (s.modGang k f).mem = s.mem := rfl
@[simp] theorem State.setGang_tiles (s : State) (k : Nat) (v : Gang) : (s.setGang k v).tiles = s.tiles := rfl
@[simp] theorem State.modGang_tiles (s : State) (k : Nat) (f : Gang → Gang) : (s.modGang k f).tiles = s.tiles := rfl
@[simp] theorem State.setGang_l2 (s : State) (k : Nat) (v : Gang) : (s.setGang k v).l2 = s.l2 := rfl
@[simp] theorem State.modGang_l2 (s : State) (k : Nat) (f : Gang → Gang) : (s.modGang k f).l2 = s.l2 := rfl
@[simp] theorem State.setGang_races (s : State) (k : Nat) (v : Gang) : (s.setGang k v).races = s.races := rfl
@[simp] theorem State.modGang_races (s : State) (k : Nat) (f : Gang → Gang) : (s.modGang k f).races = s.races := rfl
@[simp] theorem State.setGang_pend (s : State) (k : Nat) (v : Gang) : (s.setGang k v).pend = s.pend := rfl
@[simp] theorem State.modGang_pend (s : State) (k : Nat) (f : Gang → Gang) : (s.modGang k f).pend = s.pend := rfl
@[simp] theorem State.setGang_ops (s : State) (k : Nat) (v : Gang) : (s.setGang k v).ops = s.ops := rfl
@[simp] theorem State.modGang_ops (s : State) (k : Nat) (f : Gang → Gang) : (s.modGang k f).ops = s.ops := rfl
@[simp] theorem State.setGang_nextOp (s : State) (k : Nat) (v : Gang) : (s.setGang k v).nextOp = s.nextOp := rfl
@[simp] theorem State.modGang_nextOp (s : State) (k : Nat) (f : Gang → Gang) : (s.modGang k f).nextOp = s.nextOp := rfl
@[simp] theorem State.setGang_deferred (s : State) (k : Nat) (v : Gang) : (s.setGang k v).deferred = s.deferred := rfl
@[simp] theorem State.modGang_deferred (s : State) (k : Nat) (f : Gang → Gang) : (s.modGang k f).deferred = s.deferred := rfl
@[simp] theorem State.setGang_homeq (s : State) (k : Nat) (v : Gang) : (s.setGang k v).homeq = s.homeq := rfl
@[simp] theorem State.modGang_homeq (s : State) (k : Nat) (f : Gang → Gang) : (s.modGang k f).homeq = s.homeq := rfl
@[simp] theorem State.setGang_netOut (s : State) (k : Nat) (v : Gang) : (s.setGang k v).netOut = s.netOut := rfl
@[simp] theorem State.modGang_netOut (s : State) (k : Nat) (f : Gang → Gang) : (s.modGang k f).netOut = s.netOut := rfl
@[simp] theorem State.setGang_graphs (s : State) (k : Nat) (v : Gang) : (s.setGang k v).graphs = s.graphs := rfl
@[simp] theorem State.modGang_graphs (s : State) (k : Nat) (f : Gang → Gang) : (s.modGang k f).graphs = s.graphs := rfl
@[simp] theorem State.setGang_links (s : State) (k : Nat) (v : Gang) : (s.setGang k v).links = s.links := rfl
@[simp] theorem State.modGang_links (s : State) (k : Nat) (f : Gang → Gang) : (s.modGang k f).links = s.links := rfl
@[simp] theorem State.setGang_upsets (s : State) (k : Nat) (v : Gang) : (s.setGang k v).upsets = s.upsets := rfl
@[simp] theorem State.modGang_upsets (s : State) (k : Nat) (f : Gang → Gang) : (s.modGang k f).upsets = s.upsets := rfl
@[simp] theorem State.setGang_poison (s : State) (k : Nat) (v : Gang) : (s.setGang k v).poison = s.poison := rfl
@[simp] theorem State.modGang_poison (s : State) (k : Nat) (f : Gang → Gang) : (s.modGang k f).poison = s.poison := rfl
@[simp] theorem State.setGang_turns (s : State) (k : Nat) (v : Gang) : (s.setGang k v).turns = s.turns := rfl
@[simp] theorem State.modGang_turns (s : State) (k : Nat) (f : Gang → Gang) : (s.modGang k f).turns = s.turns := rfl
@[simp] theorem State.setGang_tick (s : State) (k : Nat) (v : Gang) : (s.setGang k v).tick = s.tick := rfl
@[simp] theorem State.modGang_tick (s : State) (k : Nat) (f : Gang → Gang) : (s.modGang k f).tick = s.tick := rfl
@[simp] theorem State.setGang_free (s : State) (k : Nat) (v : Gang) : (s.setGang k v).free = s.free := rfl
@[simp] theorem State.modGang_free (s : State) (k : Nat) (f : Gang → Gang) : (s.modGang k f).free = s.free := rfl
@[simp] theorem State.setGang_time (s : State) (k : Nat) (v : Gang) : (s.setGang k v).time = s.time := rfl
@[simp] theorem State.modGang_time (s : State) (k : Nat) (f : Gang → Gang) : (s.modGang k f).time = s.time := rfl
@[simp] theorem State.setGang_cur (s : State) (k : Nat) (v : Gang) : (s.setGang k v).cur = s.cur := rfl
@[simp] theorem State.modGang_cur (s : State) (k : Nat) (f : Gang → Gang) : (s.modGang k f).cur = s.cur := rfl

@[simp] theorem State.setGang_ctx (s : State) (k : Nat) (v : Gang) (j : Nat) :
    (s.setGang k v).ctx j = s.ctx j := rfl
@[simp] theorem State.modGang_ctx (s : State) (k : Nat) (f : Gang → Gang) (j : Nat) :
    (s.modGang k f).ctx j = s.ctx j := rfl
@[simp] theorem State.setGang_core (s : State) (k : Nat) (v : Gang) (j : Nat) :
    (s.setGang k v).core j = s.core j := rfl
@[simp] theorem State.modGang_core (s : State) (k : Nat) (f : Gang → Gang) (j : Nat) :
    (s.modGang k f).core j = s.core j := rfl
@[simp] theorem State.setGang_die (s : State) (k : Nat) (v : Gang) (j : Nat) :
    (s.setGang k v).die j = s.die j := rfl
@[simp] theorem State.modGang_die (s : State) (k : Nat) (f : Gang → Gang) (j : Nat) :
    (s.modGang k f).die j = s.die j := rfl
@[simp] theorem State.setGang_bank (s : State) (k : Nat) (v : Gang) (j : Nat) :
    (s.setGang k v).bank j = s.bank j := rfl
@[simp] theorem State.modGang_bank (s : State) (k : Nat) (f : Gang → Gang) (j : Nat) :
    (s.modGang k f).bank j = s.bank j := rfl
@[simp] theorem State.setGang_io (s : State) (k : Nat) (v : Gang) (j : Nat) :
    (s.setGang k v).io j = s.io j := rfl
@[simp] theorem State.modGang_io (s : State) (k : Nat) (f : Gang → Gang) (j : Nat) :
    (s.modGang k f).io j = s.io j := rfl
@[simp] theorem State.setGang_tile (s : State) (k : Nat) (v : Gang) (j : Nat) :
    (s.setGang k v).tile j = s.tile j := rfl
@[simp] theorem State.modGang_tile (s : State) (k : Nat) (f : Gang → Gang) (j : Nat) :
    (s.modGang k f).tile j = s.tile j := rfl

@[simp] theorem State.setGang_gang_same (s : State) (k : Nat) (v : Gang) : (s.setGang k v).gang k = v :=
  SMap.getD_put_same _ _ _ _

theorem State.setGang_gang_other (s : State) {k j : Nat} (h : j ≠ k) (v : Gang) : (s.setGang k v).gang j = s.gang j :=
  SMap.getD_put_other _ h _ _

@[simp] theorem State.modGang_gang_same (s : State) (k : Nat) (f : Gang → Gang) : (s.modGang k f).gang k = f (s.gang k) :=
  SMap.getD_put_same _ _ _ _

theorem State.modGang_gang_other (s : State) {k j : Nat} (h : j ≠ k) (f : Gang → Gang) :
    (s.modGang k f).gang j = s.gang j := SMap.getD_put_other _ h _ _

/-! ## Die tables -/

@[simp] theorem State.setDie_ctxs (s : State) (k : Nat) (v : Die) : (s.setDie k v).ctxs = s.ctxs := rfl
@[simp] theorem State.modDie_ctxs (s : State) (k : Nat) (f : Die → Die) : (s.modDie k f).ctxs = s.ctxs := rfl
@[simp] theorem State.setDie_cores (s : State) (k : Nat) (v : Die) : (s.setDie k v).cores = s.cores := rfl
@[simp] theorem State.modDie_cores (s : State) (k : Nat) (f : Die → Die) : (s.modDie k f).cores = s.cores := rfl
@[simp] theorem State.setDie_gangs (s : State) (k : Nat) (v : Die) : (s.setDie k v).gangs = s.gangs := rfl
@[simp] theorem State.modDie_gangs (s : State) (k : Nat) (f : Die → Die) : (s.modDie k f).gangs = s.gangs := rfl
@[simp] theorem State.setDie_dies (s : State) (k : Nat) (v : Die) : (s.setDie k v).dies = SMap.put s.dies k v := rfl
@[simp] theorem State.modDie_dies (s : State) (k : Nat) (f : Die → Die) :
    (s.modDie k f).dies = SMap.put s.dies k (f (s.die k)) := rfl
@[simp] theorem State.setDie_banks (s : State) (k : Nat) (v : Die) : (s.setDie k v).banks = s.banks := rfl
@[simp] theorem State.modDie_banks (s : State) (k : Nat) (f : Die → Die) : (s.modDie k f).banks = s.banks := rfl
@[simp] theorem State.setDie_ios (s : State) (k : Nat) (v : Die) : (s.setDie k v).ios = s.ios := rfl
@[simp] theorem State.modDie_ios (s : State) (k : Nat) (f : Die → Die) : (s.modDie k f).ios = s.ios := rfl
@[simp] theorem State.setDie_pkg (s : State) (k : Nat) (v : Die) : (s.setDie k v).pkg = s.pkg := rfl
@[simp] theorem State.modDie_pkg (s : State) (k : Nat) (f : Die → Die) : (s.modDie k f).pkg = s.pkg := rfl
@[simp] theorem State.setDie_mem (s : State) (k : Nat) (v : Die) : (s.setDie k v).mem = s.mem := rfl
@[simp] theorem State.modDie_mem (s : State) (k : Nat) (f : Die → Die) : (s.modDie k f).mem = s.mem := rfl
@[simp] theorem State.setDie_tiles (s : State) (k : Nat) (v : Die) : (s.setDie k v).tiles = s.tiles := rfl
@[simp] theorem State.modDie_tiles (s : State) (k : Nat) (f : Die → Die) : (s.modDie k f).tiles = s.tiles := rfl
@[simp] theorem State.setDie_l2 (s : State) (k : Nat) (v : Die) : (s.setDie k v).l2 = s.l2 := rfl
@[simp] theorem State.modDie_l2 (s : State) (k : Nat) (f : Die → Die) : (s.modDie k f).l2 = s.l2 := rfl
@[simp] theorem State.setDie_races (s : State) (k : Nat) (v : Die) : (s.setDie k v).races = s.races := rfl
@[simp] theorem State.modDie_races (s : State) (k : Nat) (f : Die → Die) : (s.modDie k f).races = s.races := rfl
@[simp] theorem State.setDie_pend (s : State) (k : Nat) (v : Die) : (s.setDie k v).pend = s.pend := rfl
@[simp] theorem State.modDie_pend (s : State) (k : Nat) (f : Die → Die) : (s.modDie k f).pend = s.pend := rfl
@[simp] theorem State.setDie_ops (s : State) (k : Nat) (v : Die) : (s.setDie k v).ops = s.ops := rfl
@[simp] theorem State.modDie_ops (s : State) (k : Nat) (f : Die → Die) : (s.modDie k f).ops = s.ops := rfl
@[simp] theorem State.setDie_nextOp (s : State) (k : Nat) (v : Die) : (s.setDie k v).nextOp = s.nextOp := rfl
@[simp] theorem State.modDie_nextOp (s : State) (k : Nat) (f : Die → Die) : (s.modDie k f).nextOp = s.nextOp := rfl
@[simp] theorem State.setDie_deferred (s : State) (k : Nat) (v : Die) : (s.setDie k v).deferred = s.deferred := rfl
@[simp] theorem State.modDie_deferred (s : State) (k : Nat) (f : Die → Die) : (s.modDie k f).deferred = s.deferred := rfl
@[simp] theorem State.setDie_homeq (s : State) (k : Nat) (v : Die) : (s.setDie k v).homeq = s.homeq := rfl
@[simp] theorem State.modDie_homeq (s : State) (k : Nat) (f : Die → Die) : (s.modDie k f).homeq = s.homeq := rfl
@[simp] theorem State.setDie_netOut (s : State) (k : Nat) (v : Die) : (s.setDie k v).netOut = s.netOut := rfl
@[simp] theorem State.modDie_netOut (s : State) (k : Nat) (f : Die → Die) : (s.modDie k f).netOut = s.netOut := rfl
@[simp] theorem State.setDie_graphs (s : State) (k : Nat) (v : Die) : (s.setDie k v).graphs = s.graphs := rfl
@[simp] theorem State.modDie_graphs (s : State) (k : Nat) (f : Die → Die) : (s.modDie k f).graphs = s.graphs := rfl
@[simp] theorem State.setDie_links (s : State) (k : Nat) (v : Die) : (s.setDie k v).links = s.links := rfl
@[simp] theorem State.modDie_links (s : State) (k : Nat) (f : Die → Die) : (s.modDie k f).links = s.links := rfl
@[simp] theorem State.setDie_upsets (s : State) (k : Nat) (v : Die) : (s.setDie k v).upsets = s.upsets := rfl
@[simp] theorem State.modDie_upsets (s : State) (k : Nat) (f : Die → Die) : (s.modDie k f).upsets = s.upsets := rfl
@[simp] theorem State.setDie_poison (s : State) (k : Nat) (v : Die) : (s.setDie k v).poison = s.poison := rfl
@[simp] theorem State.modDie_poison (s : State) (k : Nat) (f : Die → Die) : (s.modDie k f).poison = s.poison := rfl
@[simp] theorem State.setDie_turns (s : State) (k : Nat) (v : Die) : (s.setDie k v).turns = s.turns := rfl
@[simp] theorem State.modDie_turns (s : State) (k : Nat) (f : Die → Die) : (s.modDie k f).turns = s.turns := rfl
@[simp] theorem State.setDie_tick (s : State) (k : Nat) (v : Die) : (s.setDie k v).tick = s.tick := rfl
@[simp] theorem State.modDie_tick (s : State) (k : Nat) (f : Die → Die) : (s.modDie k f).tick = s.tick := rfl
@[simp] theorem State.setDie_free (s : State) (k : Nat) (v : Die) : (s.setDie k v).free = s.free := rfl
@[simp] theorem State.modDie_free (s : State) (k : Nat) (f : Die → Die) : (s.modDie k f).free = s.free := rfl
@[simp] theorem State.setDie_time (s : State) (k : Nat) (v : Die) : (s.setDie k v).time = s.time := rfl
@[simp] theorem State.modDie_time (s : State) (k : Nat) (f : Die → Die) : (s.modDie k f).time = s.time := rfl
@[simp] theorem State.setDie_cur (s : State) (k : Nat) (v : Die) : (s.setDie k v).cur = s.cur := rfl
@[simp] theorem State.modDie_cur (s : State) (k : Nat) (f : Die → Die) : (s.modDie k f).cur = s.cur := rfl

@[simp] theorem State.setDie_ctx (s : State) (k : Nat) (v : Die) (j : Nat) :
    (s.setDie k v).ctx j = s.ctx j := rfl
@[simp] theorem State.modDie_ctx (s : State) (k : Nat) (f : Die → Die) (j : Nat) :
    (s.modDie k f).ctx j = s.ctx j := rfl
@[simp] theorem State.setDie_core (s : State) (k : Nat) (v : Die) (j : Nat) :
    (s.setDie k v).core j = s.core j := rfl
@[simp] theorem State.modDie_core (s : State) (k : Nat) (f : Die → Die) (j : Nat) :
    (s.modDie k f).core j = s.core j := rfl
@[simp] theorem State.setDie_gang (s : State) (k : Nat) (v : Die) (j : Nat) :
    (s.setDie k v).gang j = s.gang j := rfl
@[simp] theorem State.modDie_gang (s : State) (k : Nat) (f : Die → Die) (j : Nat) :
    (s.modDie k f).gang j = s.gang j := rfl
@[simp] theorem State.setDie_bank (s : State) (k : Nat) (v : Die) (j : Nat) :
    (s.setDie k v).bank j = s.bank j := rfl
@[simp] theorem State.modDie_bank (s : State) (k : Nat) (f : Die → Die) (j : Nat) :
    (s.modDie k f).bank j = s.bank j := rfl
@[simp] theorem State.setDie_io (s : State) (k : Nat) (v : Die) (j : Nat) :
    (s.setDie k v).io j = s.io j := rfl
@[simp] theorem State.modDie_io (s : State) (k : Nat) (f : Die → Die) (j : Nat) :
    (s.modDie k f).io j = s.io j := rfl
@[simp] theorem State.setDie_tile (s : State) (k : Nat) (v : Die) (j : Nat) :
    (s.setDie k v).tile j = s.tile j := rfl
@[simp] theorem State.modDie_tile (s : State) (k : Nat) (f : Die → Die) (j : Nat) :
    (s.modDie k f).tile j = s.tile j := rfl

@[simp] theorem State.setDie_die_same (s : State) (k : Nat) (v : Die) : (s.setDie k v).die k = v :=
  SMap.getD_put_same _ _ _ _

theorem State.setDie_die_other (s : State) {k j : Nat} (h : j ≠ k) (v : Die) : (s.setDie k v).die j = s.die j :=
  SMap.getD_put_other _ h _ _

@[simp] theorem State.modDie_die_same (s : State) (k : Nat) (f : Die → Die) : (s.modDie k f).die k = f (s.die k) :=
  SMap.getD_put_same _ _ _ _

theorem State.modDie_die_other (s : State) {k j : Nat} (h : j ≠ k) (f : Die → Die) :
    (s.modDie k f).die j = s.die j := SMap.getD_put_other _ h _ _

/-! ## Bank tables -/

@[simp] theorem State.setBank_ctxs (s : State) (k : Nat) (v : Bank) : (s.setBank k v).ctxs = s.ctxs := rfl
@[simp] theorem State.modBank_ctxs (s : State) (k : Nat) (f : Bank → Bank) : (s.modBank k f).ctxs = s.ctxs := rfl
@[simp] theorem State.setBank_cores (s : State) (k : Nat) (v : Bank) : (s.setBank k v).cores = s.cores := rfl
@[simp] theorem State.modBank_cores (s : State) (k : Nat) (f : Bank → Bank) : (s.modBank k f).cores = s.cores := rfl
@[simp] theorem State.setBank_gangs (s : State) (k : Nat) (v : Bank) : (s.setBank k v).gangs = s.gangs := rfl
@[simp] theorem State.modBank_gangs (s : State) (k : Nat) (f : Bank → Bank) : (s.modBank k f).gangs = s.gangs := rfl
@[simp] theorem State.setBank_dies (s : State) (k : Nat) (v : Bank) : (s.setBank k v).dies = s.dies := rfl
@[simp] theorem State.modBank_dies (s : State) (k : Nat) (f : Bank → Bank) : (s.modBank k f).dies = s.dies := rfl
@[simp] theorem State.setBank_banks (s : State) (k : Nat) (v : Bank) : (s.setBank k v).banks = SMap.put s.banks k v := rfl
@[simp] theorem State.modBank_banks (s : State) (k : Nat) (f : Bank → Bank) :
    (s.modBank k f).banks = SMap.put s.banks k (f (s.bank k)) := rfl
@[simp] theorem State.setBank_ios (s : State) (k : Nat) (v : Bank) : (s.setBank k v).ios = s.ios := rfl
@[simp] theorem State.modBank_ios (s : State) (k : Nat) (f : Bank → Bank) : (s.modBank k f).ios = s.ios := rfl
@[simp] theorem State.setBank_pkg (s : State) (k : Nat) (v : Bank) : (s.setBank k v).pkg = s.pkg := rfl
@[simp] theorem State.modBank_pkg (s : State) (k : Nat) (f : Bank → Bank) : (s.modBank k f).pkg = s.pkg := rfl
@[simp] theorem State.setBank_mem (s : State) (k : Nat) (v : Bank) : (s.setBank k v).mem = s.mem := rfl
@[simp] theorem State.modBank_mem (s : State) (k : Nat) (f : Bank → Bank) : (s.modBank k f).mem = s.mem := rfl
@[simp] theorem State.setBank_tiles (s : State) (k : Nat) (v : Bank) : (s.setBank k v).tiles = s.tiles := rfl
@[simp] theorem State.modBank_tiles (s : State) (k : Nat) (f : Bank → Bank) : (s.modBank k f).tiles = s.tiles := rfl
@[simp] theorem State.setBank_l2 (s : State) (k : Nat) (v : Bank) : (s.setBank k v).l2 = s.l2 := rfl
@[simp] theorem State.modBank_l2 (s : State) (k : Nat) (f : Bank → Bank) : (s.modBank k f).l2 = s.l2 := rfl
@[simp] theorem State.setBank_races (s : State) (k : Nat) (v : Bank) : (s.setBank k v).races = s.races := rfl
@[simp] theorem State.modBank_races (s : State) (k : Nat) (f : Bank → Bank) : (s.modBank k f).races = s.races := rfl
@[simp] theorem State.setBank_pend (s : State) (k : Nat) (v : Bank) : (s.setBank k v).pend = s.pend := rfl
@[simp] theorem State.modBank_pend (s : State) (k : Nat) (f : Bank → Bank) : (s.modBank k f).pend = s.pend := rfl
@[simp] theorem State.setBank_ops (s : State) (k : Nat) (v : Bank) : (s.setBank k v).ops = s.ops := rfl
@[simp] theorem State.modBank_ops (s : State) (k : Nat) (f : Bank → Bank) : (s.modBank k f).ops = s.ops := rfl
@[simp] theorem State.setBank_nextOp (s : State) (k : Nat) (v : Bank) : (s.setBank k v).nextOp = s.nextOp := rfl
@[simp] theorem State.modBank_nextOp (s : State) (k : Nat) (f : Bank → Bank) : (s.modBank k f).nextOp = s.nextOp := rfl
@[simp] theorem State.setBank_deferred (s : State) (k : Nat) (v : Bank) : (s.setBank k v).deferred = s.deferred := rfl
@[simp] theorem State.modBank_deferred (s : State) (k : Nat) (f : Bank → Bank) : (s.modBank k f).deferred = s.deferred := rfl
@[simp] theorem State.setBank_homeq (s : State) (k : Nat) (v : Bank) : (s.setBank k v).homeq = s.homeq := rfl
@[simp] theorem State.modBank_homeq (s : State) (k : Nat) (f : Bank → Bank) : (s.modBank k f).homeq = s.homeq := rfl
@[simp] theorem State.setBank_netOut (s : State) (k : Nat) (v : Bank) : (s.setBank k v).netOut = s.netOut := rfl
@[simp] theorem State.modBank_netOut (s : State) (k : Nat) (f : Bank → Bank) : (s.modBank k f).netOut = s.netOut := rfl
@[simp] theorem State.setBank_graphs (s : State) (k : Nat) (v : Bank) : (s.setBank k v).graphs = s.graphs := rfl
@[simp] theorem State.modBank_graphs (s : State) (k : Nat) (f : Bank → Bank) : (s.modBank k f).graphs = s.graphs := rfl
@[simp] theorem State.setBank_links (s : State) (k : Nat) (v : Bank) : (s.setBank k v).links = s.links := rfl
@[simp] theorem State.modBank_links (s : State) (k : Nat) (f : Bank → Bank) : (s.modBank k f).links = s.links := rfl
@[simp] theorem State.setBank_upsets (s : State) (k : Nat) (v : Bank) : (s.setBank k v).upsets = s.upsets := rfl
@[simp] theorem State.modBank_upsets (s : State) (k : Nat) (f : Bank → Bank) : (s.modBank k f).upsets = s.upsets := rfl
@[simp] theorem State.setBank_poison (s : State) (k : Nat) (v : Bank) : (s.setBank k v).poison = s.poison := rfl
@[simp] theorem State.modBank_poison (s : State) (k : Nat) (f : Bank → Bank) : (s.modBank k f).poison = s.poison := rfl
@[simp] theorem State.setBank_turns (s : State) (k : Nat) (v : Bank) : (s.setBank k v).turns = s.turns := rfl
@[simp] theorem State.modBank_turns (s : State) (k : Nat) (f : Bank → Bank) : (s.modBank k f).turns = s.turns := rfl
@[simp] theorem State.setBank_tick (s : State) (k : Nat) (v : Bank) : (s.setBank k v).tick = s.tick := rfl
@[simp] theorem State.modBank_tick (s : State) (k : Nat) (f : Bank → Bank) : (s.modBank k f).tick = s.tick := rfl
@[simp] theorem State.setBank_free (s : State) (k : Nat) (v : Bank) : (s.setBank k v).free = s.free := rfl
@[simp] theorem State.modBank_free (s : State) (k : Nat) (f : Bank → Bank) : (s.modBank k f).free = s.free := rfl
@[simp] theorem State.setBank_time (s : State) (k : Nat) (v : Bank) : (s.setBank k v).time = s.time := rfl
@[simp] theorem State.modBank_time (s : State) (k : Nat) (f : Bank → Bank) : (s.modBank k f).time = s.time := rfl
@[simp] theorem State.setBank_cur (s : State) (k : Nat) (v : Bank) : (s.setBank k v).cur = s.cur := rfl
@[simp] theorem State.modBank_cur (s : State) (k : Nat) (f : Bank → Bank) : (s.modBank k f).cur = s.cur := rfl

@[simp] theorem State.setBank_ctx (s : State) (k : Nat) (v : Bank) (j : Nat) :
    (s.setBank k v).ctx j = s.ctx j := rfl
@[simp] theorem State.modBank_ctx (s : State) (k : Nat) (f : Bank → Bank) (j : Nat) :
    (s.modBank k f).ctx j = s.ctx j := rfl
@[simp] theorem State.setBank_core (s : State) (k : Nat) (v : Bank) (j : Nat) :
    (s.setBank k v).core j = s.core j := rfl
@[simp] theorem State.modBank_core (s : State) (k : Nat) (f : Bank → Bank) (j : Nat) :
    (s.modBank k f).core j = s.core j := rfl
@[simp] theorem State.setBank_gang (s : State) (k : Nat) (v : Bank) (j : Nat) :
    (s.setBank k v).gang j = s.gang j := rfl
@[simp] theorem State.modBank_gang (s : State) (k : Nat) (f : Bank → Bank) (j : Nat) :
    (s.modBank k f).gang j = s.gang j := rfl
@[simp] theorem State.setBank_die (s : State) (k : Nat) (v : Bank) (j : Nat) :
    (s.setBank k v).die j = s.die j := rfl
@[simp] theorem State.modBank_die (s : State) (k : Nat) (f : Bank → Bank) (j : Nat) :
    (s.modBank k f).die j = s.die j := rfl
@[simp] theorem State.setBank_io (s : State) (k : Nat) (v : Bank) (j : Nat) :
    (s.setBank k v).io j = s.io j := rfl
@[simp] theorem State.modBank_io (s : State) (k : Nat) (f : Bank → Bank) (j : Nat) :
    (s.modBank k f).io j = s.io j := rfl
@[simp] theorem State.setBank_tile (s : State) (k : Nat) (v : Bank) (j : Nat) :
    (s.setBank k v).tile j = s.tile j := rfl
@[simp] theorem State.modBank_tile (s : State) (k : Nat) (f : Bank → Bank) (j : Nat) :
    (s.modBank k f).tile j = s.tile j := rfl

@[simp] theorem State.setBank_bank_same (s : State) (k : Nat) (v : Bank) : (s.setBank k v).bank k = v :=
  SMap.getD_put_same _ _ _ _

theorem State.setBank_bank_other (s : State) {k j : Nat} (h : j ≠ k) (v : Bank) : (s.setBank k v).bank j = s.bank j :=
  SMap.getD_put_other _ h _ _

@[simp] theorem State.modBank_bank_same (s : State) (k : Nat) (f : Bank → Bank) : (s.modBank k f).bank k = f (s.bank k) :=
  SMap.getD_put_same _ _ _ _

theorem State.modBank_bank_other (s : State) {k j : Nat} (h : j ≠ k) (f : Bank → Bank) :
    (s.modBank k f).bank j = s.bank j := SMap.getD_put_other _ h _ _

/-! ## IoDie tables -/

@[simp] theorem State.setIo_ctxs (s : State) (k : Nat) (v : IoDie) : (s.setIo k v).ctxs = s.ctxs := rfl
@[simp] theorem State.modIo_ctxs (s : State) (k : Nat) (f : IoDie → IoDie) : (s.modIo k f).ctxs = s.ctxs := rfl
@[simp] theorem State.setIo_cores (s : State) (k : Nat) (v : IoDie) : (s.setIo k v).cores = s.cores := rfl
@[simp] theorem State.modIo_cores (s : State) (k : Nat) (f : IoDie → IoDie) : (s.modIo k f).cores = s.cores := rfl
@[simp] theorem State.setIo_gangs (s : State) (k : Nat) (v : IoDie) : (s.setIo k v).gangs = s.gangs := rfl
@[simp] theorem State.modIo_gangs (s : State) (k : Nat) (f : IoDie → IoDie) : (s.modIo k f).gangs = s.gangs := rfl
@[simp] theorem State.setIo_dies (s : State) (k : Nat) (v : IoDie) : (s.setIo k v).dies = s.dies := rfl
@[simp] theorem State.modIo_dies (s : State) (k : Nat) (f : IoDie → IoDie) : (s.modIo k f).dies = s.dies := rfl
@[simp] theorem State.setIo_banks (s : State) (k : Nat) (v : IoDie) : (s.setIo k v).banks = s.banks := rfl
@[simp] theorem State.modIo_banks (s : State) (k : Nat) (f : IoDie → IoDie) : (s.modIo k f).banks = s.banks := rfl
@[simp] theorem State.setIo_ios (s : State) (k : Nat) (v : IoDie) : (s.setIo k v).ios = SMap.put s.ios k v := rfl
@[simp] theorem State.modIo_ios (s : State) (k : Nat) (f : IoDie → IoDie) :
    (s.modIo k f).ios = SMap.put s.ios k (f (s.io k)) := rfl
@[simp] theorem State.setIo_pkg (s : State) (k : Nat) (v : IoDie) : (s.setIo k v).pkg = s.pkg := rfl
@[simp] theorem State.modIo_pkg (s : State) (k : Nat) (f : IoDie → IoDie) : (s.modIo k f).pkg = s.pkg := rfl
@[simp] theorem State.setIo_mem (s : State) (k : Nat) (v : IoDie) : (s.setIo k v).mem = s.mem := rfl
@[simp] theorem State.modIo_mem (s : State) (k : Nat) (f : IoDie → IoDie) : (s.modIo k f).mem = s.mem := rfl
@[simp] theorem State.setIo_tiles (s : State) (k : Nat) (v : IoDie) : (s.setIo k v).tiles = s.tiles := rfl
@[simp] theorem State.modIo_tiles (s : State) (k : Nat) (f : IoDie → IoDie) : (s.modIo k f).tiles = s.tiles := rfl
@[simp] theorem State.setIo_l2 (s : State) (k : Nat) (v : IoDie) : (s.setIo k v).l2 = s.l2 := rfl
@[simp] theorem State.modIo_l2 (s : State) (k : Nat) (f : IoDie → IoDie) : (s.modIo k f).l2 = s.l2 := rfl
@[simp] theorem State.setIo_races (s : State) (k : Nat) (v : IoDie) : (s.setIo k v).races = s.races := rfl
@[simp] theorem State.modIo_races (s : State) (k : Nat) (f : IoDie → IoDie) : (s.modIo k f).races = s.races := rfl
@[simp] theorem State.setIo_pend (s : State) (k : Nat) (v : IoDie) : (s.setIo k v).pend = s.pend := rfl
@[simp] theorem State.modIo_pend (s : State) (k : Nat) (f : IoDie → IoDie) : (s.modIo k f).pend = s.pend := rfl
@[simp] theorem State.setIo_ops (s : State) (k : Nat) (v : IoDie) : (s.setIo k v).ops = s.ops := rfl
@[simp] theorem State.modIo_ops (s : State) (k : Nat) (f : IoDie → IoDie) : (s.modIo k f).ops = s.ops := rfl
@[simp] theorem State.setIo_nextOp (s : State) (k : Nat) (v : IoDie) : (s.setIo k v).nextOp = s.nextOp := rfl
@[simp] theorem State.modIo_nextOp (s : State) (k : Nat) (f : IoDie → IoDie) : (s.modIo k f).nextOp = s.nextOp := rfl
@[simp] theorem State.setIo_deferred (s : State) (k : Nat) (v : IoDie) : (s.setIo k v).deferred = s.deferred := rfl
@[simp] theorem State.modIo_deferred (s : State) (k : Nat) (f : IoDie → IoDie) : (s.modIo k f).deferred = s.deferred := rfl
@[simp] theorem State.setIo_homeq (s : State) (k : Nat) (v : IoDie) : (s.setIo k v).homeq = s.homeq := rfl
@[simp] theorem State.modIo_homeq (s : State) (k : Nat) (f : IoDie → IoDie) : (s.modIo k f).homeq = s.homeq := rfl
@[simp] theorem State.setIo_netOut (s : State) (k : Nat) (v : IoDie) : (s.setIo k v).netOut = s.netOut := rfl
@[simp] theorem State.modIo_netOut (s : State) (k : Nat) (f : IoDie → IoDie) : (s.modIo k f).netOut = s.netOut := rfl
@[simp] theorem State.setIo_graphs (s : State) (k : Nat) (v : IoDie) : (s.setIo k v).graphs = s.graphs := rfl
@[simp] theorem State.modIo_graphs (s : State) (k : Nat) (f : IoDie → IoDie) : (s.modIo k f).graphs = s.graphs := rfl
@[simp] theorem State.setIo_links (s : State) (k : Nat) (v : IoDie) : (s.setIo k v).links = s.links := rfl
@[simp] theorem State.modIo_links (s : State) (k : Nat) (f : IoDie → IoDie) : (s.modIo k f).links = s.links := rfl
@[simp] theorem State.setIo_upsets (s : State) (k : Nat) (v : IoDie) : (s.setIo k v).upsets = s.upsets := rfl
@[simp] theorem State.modIo_upsets (s : State) (k : Nat) (f : IoDie → IoDie) : (s.modIo k f).upsets = s.upsets := rfl
@[simp] theorem State.setIo_poison (s : State) (k : Nat) (v : IoDie) : (s.setIo k v).poison = s.poison := rfl
@[simp] theorem State.modIo_poison (s : State) (k : Nat) (f : IoDie → IoDie) : (s.modIo k f).poison = s.poison := rfl
@[simp] theorem State.setIo_turns (s : State) (k : Nat) (v : IoDie) : (s.setIo k v).turns = s.turns := rfl
@[simp] theorem State.modIo_turns (s : State) (k : Nat) (f : IoDie → IoDie) : (s.modIo k f).turns = s.turns := rfl
@[simp] theorem State.setIo_tick (s : State) (k : Nat) (v : IoDie) : (s.setIo k v).tick = s.tick := rfl
@[simp] theorem State.modIo_tick (s : State) (k : Nat) (f : IoDie → IoDie) : (s.modIo k f).tick = s.tick := rfl
@[simp] theorem State.setIo_free (s : State) (k : Nat) (v : IoDie) : (s.setIo k v).free = s.free := rfl
@[simp] theorem State.modIo_free (s : State) (k : Nat) (f : IoDie → IoDie) : (s.modIo k f).free = s.free := rfl
@[simp] theorem State.setIo_time (s : State) (k : Nat) (v : IoDie) : (s.setIo k v).time = s.time := rfl
@[simp] theorem State.modIo_time (s : State) (k : Nat) (f : IoDie → IoDie) : (s.modIo k f).time = s.time := rfl
@[simp] theorem State.setIo_cur (s : State) (k : Nat) (v : IoDie) : (s.setIo k v).cur = s.cur := rfl
@[simp] theorem State.modIo_cur (s : State) (k : Nat) (f : IoDie → IoDie) : (s.modIo k f).cur = s.cur := rfl

@[simp] theorem State.setIo_ctx (s : State) (k : Nat) (v : IoDie) (j : Nat) :
    (s.setIo k v).ctx j = s.ctx j := rfl
@[simp] theorem State.modIo_ctx (s : State) (k : Nat) (f : IoDie → IoDie) (j : Nat) :
    (s.modIo k f).ctx j = s.ctx j := rfl
@[simp] theorem State.setIo_core (s : State) (k : Nat) (v : IoDie) (j : Nat) :
    (s.setIo k v).core j = s.core j := rfl
@[simp] theorem State.modIo_core (s : State) (k : Nat) (f : IoDie → IoDie) (j : Nat) :
    (s.modIo k f).core j = s.core j := rfl
@[simp] theorem State.setIo_gang (s : State) (k : Nat) (v : IoDie) (j : Nat) :
    (s.setIo k v).gang j = s.gang j := rfl
@[simp] theorem State.modIo_gang (s : State) (k : Nat) (f : IoDie → IoDie) (j : Nat) :
    (s.modIo k f).gang j = s.gang j := rfl
@[simp] theorem State.setIo_die (s : State) (k : Nat) (v : IoDie) (j : Nat) :
    (s.setIo k v).die j = s.die j := rfl
@[simp] theorem State.modIo_die (s : State) (k : Nat) (f : IoDie → IoDie) (j : Nat) :
    (s.modIo k f).die j = s.die j := rfl
@[simp] theorem State.setIo_bank (s : State) (k : Nat) (v : IoDie) (j : Nat) :
    (s.setIo k v).bank j = s.bank j := rfl
@[simp] theorem State.modIo_bank (s : State) (k : Nat) (f : IoDie → IoDie) (j : Nat) :
    (s.modIo k f).bank j = s.bank j := rfl
@[simp] theorem State.setIo_tile (s : State) (k : Nat) (v : IoDie) (j : Nat) :
    (s.setIo k v).tile j = s.tile j := rfl
@[simp] theorem State.modIo_tile (s : State) (k : Nat) (f : IoDie → IoDie) (j : Nat) :
    (s.modIo k f).tile j = s.tile j := rfl

@[simp] theorem State.setIo_io_same (s : State) (k : Nat) (v : IoDie) : (s.setIo k v).io k = v :=
  SMap.getD_put_same _ _ _ _

theorem State.setIo_io_other (s : State) {k j : Nat} (h : j ≠ k) (v : IoDie) : (s.setIo k v).io j = s.io j :=
  SMap.getD_put_other _ h _ _

@[simp] theorem State.modIo_io_same (s : State) (k : Nat) (f : IoDie → IoDie) : (s.modIo k f).io k = f (s.io k) :=
  SMap.getD_put_same _ _ _ _

theorem State.modIo_io_other (s : State) {k j : Nat} (h : j ≠ k) (f : IoDie → IoDie) :
    (s.modIo k f).io j = s.io j := SMap.getD_put_other _ h _ _

/-! ## Tile tables -/

@[simp] theorem State.setTile_ctxs (s : State) (k : Nat) (v : Tile) : (s.setTile k v).ctxs = s.ctxs := rfl
@[simp] theorem State.modTile_ctxs (s : State) (k : Nat) (f : Tile → Tile) : (s.modTile k f).ctxs = s.ctxs := rfl
@[simp] theorem State.setTile_cores (s : State) (k : Nat) (v : Tile) : (s.setTile k v).cores = s.cores := rfl
@[simp] theorem State.modTile_cores (s : State) (k : Nat) (f : Tile → Tile) : (s.modTile k f).cores = s.cores := rfl
@[simp] theorem State.setTile_gangs (s : State) (k : Nat) (v : Tile) : (s.setTile k v).gangs = s.gangs := rfl
@[simp] theorem State.modTile_gangs (s : State) (k : Nat) (f : Tile → Tile) : (s.modTile k f).gangs = s.gangs := rfl
@[simp] theorem State.setTile_dies (s : State) (k : Nat) (v : Tile) : (s.setTile k v).dies = s.dies := rfl
@[simp] theorem State.modTile_dies (s : State) (k : Nat) (f : Tile → Tile) : (s.modTile k f).dies = s.dies := rfl
@[simp] theorem State.setTile_banks (s : State) (k : Nat) (v : Tile) : (s.setTile k v).banks = s.banks := rfl
@[simp] theorem State.modTile_banks (s : State) (k : Nat) (f : Tile → Tile) : (s.modTile k f).banks = s.banks := rfl
@[simp] theorem State.setTile_ios (s : State) (k : Nat) (v : Tile) : (s.setTile k v).ios = s.ios := rfl
@[simp] theorem State.modTile_ios (s : State) (k : Nat) (f : Tile → Tile) : (s.modTile k f).ios = s.ios := rfl
@[simp] theorem State.setTile_pkg (s : State) (k : Nat) (v : Tile) : (s.setTile k v).pkg = s.pkg := rfl
@[simp] theorem State.modTile_pkg (s : State) (k : Nat) (f : Tile → Tile) : (s.modTile k f).pkg = s.pkg := rfl
@[simp] theorem State.setTile_mem (s : State) (k : Nat) (v : Tile) : (s.setTile k v).mem = s.mem := rfl
@[simp] theorem State.modTile_mem (s : State) (k : Nat) (f : Tile → Tile) : (s.modTile k f).mem = s.mem := rfl
@[simp] theorem State.setTile_tiles (s : State) (k : Nat) (v : Tile) : (s.setTile k v).tiles = SMap.put s.tiles k v := rfl
@[simp] theorem State.modTile_tiles (s : State) (k : Nat) (f : Tile → Tile) :
    (s.modTile k f).tiles = SMap.put s.tiles k (f (s.tile k)) := rfl
@[simp] theorem State.setTile_l2 (s : State) (k : Nat) (v : Tile) : (s.setTile k v).l2 = s.l2 := rfl
@[simp] theorem State.modTile_l2 (s : State) (k : Nat) (f : Tile → Tile) : (s.modTile k f).l2 = s.l2 := rfl
@[simp] theorem State.setTile_races (s : State) (k : Nat) (v : Tile) : (s.setTile k v).races = s.races := rfl
@[simp] theorem State.modTile_races (s : State) (k : Nat) (f : Tile → Tile) : (s.modTile k f).races = s.races := rfl
@[simp] theorem State.setTile_pend (s : State) (k : Nat) (v : Tile) : (s.setTile k v).pend = s.pend := rfl
@[simp] theorem State.modTile_pend (s : State) (k : Nat) (f : Tile → Tile) : (s.modTile k f).pend = s.pend := rfl
@[simp] theorem State.setTile_ops (s : State) (k : Nat) (v : Tile) : (s.setTile k v).ops = s.ops := rfl
@[simp] theorem State.modTile_ops (s : State) (k : Nat) (f : Tile → Tile) : (s.modTile k f).ops = s.ops := rfl
@[simp] theorem State.setTile_nextOp (s : State) (k : Nat) (v : Tile) : (s.setTile k v).nextOp = s.nextOp := rfl
@[simp] theorem State.modTile_nextOp (s : State) (k : Nat) (f : Tile → Tile) : (s.modTile k f).nextOp = s.nextOp := rfl
@[simp] theorem State.setTile_deferred (s : State) (k : Nat) (v : Tile) : (s.setTile k v).deferred = s.deferred := rfl
@[simp] theorem State.modTile_deferred (s : State) (k : Nat) (f : Tile → Tile) : (s.modTile k f).deferred = s.deferred := rfl
@[simp] theorem State.setTile_homeq (s : State) (k : Nat) (v : Tile) : (s.setTile k v).homeq = s.homeq := rfl
@[simp] theorem State.modTile_homeq (s : State) (k : Nat) (f : Tile → Tile) : (s.modTile k f).homeq = s.homeq := rfl
@[simp] theorem State.setTile_netOut (s : State) (k : Nat) (v : Tile) : (s.setTile k v).netOut = s.netOut := rfl
@[simp] theorem State.modTile_netOut (s : State) (k : Nat) (f : Tile → Tile) : (s.modTile k f).netOut = s.netOut := rfl
@[simp] theorem State.setTile_graphs (s : State) (k : Nat) (v : Tile) : (s.setTile k v).graphs = s.graphs := rfl
@[simp] theorem State.modTile_graphs (s : State) (k : Nat) (f : Tile → Tile) : (s.modTile k f).graphs = s.graphs := rfl
@[simp] theorem State.setTile_links (s : State) (k : Nat) (v : Tile) : (s.setTile k v).links = s.links := rfl
@[simp] theorem State.modTile_links (s : State) (k : Nat) (f : Tile → Tile) : (s.modTile k f).links = s.links := rfl
@[simp] theorem State.setTile_upsets (s : State) (k : Nat) (v : Tile) : (s.setTile k v).upsets = s.upsets := rfl
@[simp] theorem State.modTile_upsets (s : State) (k : Nat) (f : Tile → Tile) : (s.modTile k f).upsets = s.upsets := rfl
@[simp] theorem State.setTile_poison (s : State) (k : Nat) (v : Tile) : (s.setTile k v).poison = s.poison := rfl
@[simp] theorem State.modTile_poison (s : State) (k : Nat) (f : Tile → Tile) : (s.modTile k f).poison = s.poison := rfl
@[simp] theorem State.setTile_turns (s : State) (k : Nat) (v : Tile) : (s.setTile k v).turns = s.turns := rfl
@[simp] theorem State.modTile_turns (s : State) (k : Nat) (f : Tile → Tile) : (s.modTile k f).turns = s.turns := rfl
@[simp] theorem State.setTile_tick (s : State) (k : Nat) (v : Tile) : (s.setTile k v).tick = s.tick := rfl
@[simp] theorem State.modTile_tick (s : State) (k : Nat) (f : Tile → Tile) : (s.modTile k f).tick = s.tick := rfl
@[simp] theorem State.setTile_free (s : State) (k : Nat) (v : Tile) : (s.setTile k v).free = s.free := rfl
@[simp] theorem State.modTile_free (s : State) (k : Nat) (f : Tile → Tile) : (s.modTile k f).free = s.free := rfl
@[simp] theorem State.setTile_time (s : State) (k : Nat) (v : Tile) : (s.setTile k v).time = s.time := rfl
@[simp] theorem State.modTile_time (s : State) (k : Nat) (f : Tile → Tile) : (s.modTile k f).time = s.time := rfl
@[simp] theorem State.setTile_cur (s : State) (k : Nat) (v : Tile) : (s.setTile k v).cur = s.cur := rfl
@[simp] theorem State.modTile_cur (s : State) (k : Nat) (f : Tile → Tile) : (s.modTile k f).cur = s.cur := rfl

@[simp] theorem State.setTile_ctx (s : State) (k : Nat) (v : Tile) (j : Nat) :
    (s.setTile k v).ctx j = s.ctx j := rfl
@[simp] theorem State.modTile_ctx (s : State) (k : Nat) (f : Tile → Tile) (j : Nat) :
    (s.modTile k f).ctx j = s.ctx j := rfl
@[simp] theorem State.setTile_core (s : State) (k : Nat) (v : Tile) (j : Nat) :
    (s.setTile k v).core j = s.core j := rfl
@[simp] theorem State.modTile_core (s : State) (k : Nat) (f : Tile → Tile) (j : Nat) :
    (s.modTile k f).core j = s.core j := rfl
@[simp] theorem State.setTile_gang (s : State) (k : Nat) (v : Tile) (j : Nat) :
    (s.setTile k v).gang j = s.gang j := rfl
@[simp] theorem State.modTile_gang (s : State) (k : Nat) (f : Tile → Tile) (j : Nat) :
    (s.modTile k f).gang j = s.gang j := rfl
@[simp] theorem State.setTile_die (s : State) (k : Nat) (v : Tile) (j : Nat) :
    (s.setTile k v).die j = s.die j := rfl
@[simp] theorem State.modTile_die (s : State) (k : Nat) (f : Tile → Tile) (j : Nat) :
    (s.modTile k f).die j = s.die j := rfl
@[simp] theorem State.setTile_bank (s : State) (k : Nat) (v : Tile) (j : Nat) :
    (s.setTile k v).bank j = s.bank j := rfl
@[simp] theorem State.modTile_bank (s : State) (k : Nat) (f : Tile → Tile) (j : Nat) :
    (s.modTile k f).bank j = s.bank j := rfl
@[simp] theorem State.setTile_io (s : State) (k : Nat) (v : Tile) (j : Nat) :
    (s.setTile k v).io j = s.io j := rfl
@[simp] theorem State.modTile_io (s : State) (k : Nat) (f : Tile → Tile) (j : Nat) :
    (s.modTile k f).io j = s.io j := rfl

@[simp] theorem State.setTile_tile_same (s : State) (k : Nat) (v : Tile) : (s.setTile k v).tile k = v :=
  SMap.getD_put_same _ _ _ _

theorem State.setTile_tile_other (s : State) {k j : Nat} (h : j ≠ k) (v : Tile) : (s.setTile k v).tile j = s.tile j :=
  SMap.getD_put_other _ h _ _

@[simp] theorem State.modTile_tile_same (s : State) (k : Nat) (f : Tile → Tile) : (s.modTile k f).tile k = f (s.tile k) :=
  SMap.getD_put_same _ _ _ _

theorem State.modTile_tile_other (s : State) {k j : Nat} (h : j ≠ k) (f : Tile → Tile) :
    (s.modTile k f).tile j = s.tile j := SMap.getD_put_other _ h _ _

/-! ## The current context -/

@[simp] theorem State.modMe_cores (s : State) (f : Ctx → Ctx) : (s.modMe f).cores = s.cores := rfl
@[simp] theorem State.modMe_gangs (s : State) (f : Ctx → Ctx) : (s.modMe f).gangs = s.gangs := rfl
@[simp] theorem State.modMe_dies (s : State) (f : Ctx → Ctx) : (s.modMe f).dies = s.dies := rfl
@[simp] theorem State.modMe_banks (s : State) (f : Ctx → Ctx) : (s.modMe f).banks = s.banks := rfl
@[simp] theorem State.modMe_ios (s : State) (f : Ctx → Ctx) : (s.modMe f).ios = s.ios := rfl
@[simp] theorem State.modMe_pkg (s : State) (f : Ctx → Ctx) : (s.modMe f).pkg = s.pkg := rfl
@[simp] theorem State.modMe_mem (s : State) (f : Ctx → Ctx) : (s.modMe f).mem = s.mem := rfl
@[simp] theorem State.modMe_tiles (s : State) (f : Ctx → Ctx) : (s.modMe f).tiles = s.tiles := rfl
@[simp] theorem State.modMe_l2 (s : State) (f : Ctx → Ctx) : (s.modMe f).l2 = s.l2 := rfl
@[simp] theorem State.modMe_races (s : State) (f : Ctx → Ctx) : (s.modMe f).races = s.races := rfl
@[simp] theorem State.modMe_pend (s : State) (f : Ctx → Ctx) : (s.modMe f).pend = s.pend := rfl
@[simp] theorem State.modMe_ops (s : State) (f : Ctx → Ctx) : (s.modMe f).ops = s.ops := rfl
@[simp] theorem State.modMe_nextOp (s : State) (f : Ctx → Ctx) : (s.modMe f).nextOp = s.nextOp := rfl
@[simp] theorem State.modMe_deferred (s : State) (f : Ctx → Ctx) : (s.modMe f).deferred = s.deferred := rfl
@[simp] theorem State.modMe_homeq (s : State) (f : Ctx → Ctx) : (s.modMe f).homeq = s.homeq := rfl
@[simp] theorem State.modMe_netOut (s : State) (f : Ctx → Ctx) : (s.modMe f).netOut = s.netOut := rfl
@[simp] theorem State.modMe_graphs (s : State) (f : Ctx → Ctx) : (s.modMe f).graphs = s.graphs := rfl
@[simp] theorem State.modMe_links (s : State) (f : Ctx → Ctx) : (s.modMe f).links = s.links := rfl
@[simp] theorem State.modMe_upsets (s : State) (f : Ctx → Ctx) : (s.modMe f).upsets = s.upsets := rfl
@[simp] theorem State.modMe_poison (s : State) (f : Ctx → Ctx) : (s.modMe f).poison = s.poison := rfl
@[simp] theorem State.modMe_turns (s : State) (f : Ctx → Ctx) : (s.modMe f).turns = s.turns := rfl
@[simp] theorem State.modMe_tick (s : State) (f : Ctx → Ctx) : (s.modMe f).tick = s.tick := rfl
@[simp] theorem State.modMe_free (s : State) (f : Ctx → Ctx) : (s.modMe f).free = s.free := rfl
@[simp] theorem State.modMe_time (s : State) (f : Ctx → Ctx) : (s.modMe f).time = s.time := rfl
@[simp] theorem State.modMe_cur (s : State) (f : Ctx → Ctx) : (s.modMe f).cur = s.cur := rfl
@[simp] theorem State.modMe_core (s : State) (f : Ctx → Ctx) (j : Nat) : (s.modMe f).core j = s.core j := rfl
@[simp] theorem State.modMe_gang (s : State) (f : Ctx → Ctx) (j : Nat) : (s.modMe f).gang j = s.gang j := rfl
@[simp] theorem State.modMe_die (s : State) (f : Ctx → Ctx) (j : Nat) : (s.modMe f).die j = s.die j := rfl
@[simp] theorem State.modMe_bank (s : State) (f : Ctx → Ctx) (j : Nat) : (s.modMe f).bank j = s.bank j := rfl
@[simp] theorem State.modMe_io (s : State) (f : Ctx → Ctx) (j : Nat) : (s.modMe f).io j = s.io j := rfl
@[simp] theorem State.modMe_tile (s : State) (f : Ctx → Ctx) (j : Nat) : (s.modMe f).tile j = s.tile j := rfl

@[simp] theorem State.setS_cores (s : State) (r : SReg) (v : Word) : (s.setS r v).cores = s.cores := rfl
@[simp] theorem State.setS_gangs (s : State) (r : SReg) (v : Word) : (s.setS r v).gangs = s.gangs := rfl
@[simp] theorem State.setS_dies (s : State) (r : SReg) (v : Word) : (s.setS r v).dies = s.dies := rfl
@[simp] theorem State.setS_banks (s : State) (r : SReg) (v : Word) : (s.setS r v).banks = s.banks := rfl
@[simp] theorem State.setS_ios (s : State) (r : SReg) (v : Word) : (s.setS r v).ios = s.ios := rfl
@[simp] theorem State.setS_pkg (s : State) (r : SReg) (v : Word) : (s.setS r v).pkg = s.pkg := rfl
@[simp] theorem State.setS_mem (s : State) (r : SReg) (v : Word) : (s.setS r v).mem = s.mem := rfl
@[simp] theorem State.setS_tiles (s : State) (r : SReg) (v : Word) : (s.setS r v).tiles = s.tiles := rfl
@[simp] theorem State.setS_l2 (s : State) (r : SReg) (v : Word) : (s.setS r v).l2 = s.l2 := rfl
@[simp] theorem State.setS_races (s : State) (r : SReg) (v : Word) : (s.setS r v).races = s.races := rfl
@[simp] theorem State.setS_pend (s : State) (r : SReg) (v : Word) : (s.setS r v).pend = s.pend := rfl
@[simp] theorem State.setS_ops (s : State) (r : SReg) (v : Word) : (s.setS r v).ops = s.ops := rfl
@[simp] theorem State.setS_nextOp (s : State) (r : SReg) (v : Word) : (s.setS r v).nextOp = s.nextOp := rfl
@[simp] theorem State.setS_deferred (s : State) (r : SReg) (v : Word) : (s.setS r v).deferred = s.deferred := rfl
@[simp] theorem State.setS_homeq (s : State) (r : SReg) (v : Word) : (s.setS r v).homeq = s.homeq := rfl
@[simp] theorem State.setS_netOut (s : State) (r : SReg) (v : Word) : (s.setS r v).netOut = s.netOut := rfl
@[simp] theorem State.setS_graphs (s : State) (r : SReg) (v : Word) : (s.setS r v).graphs = s.graphs := rfl
@[simp] theorem State.setS_links (s : State) (r : SReg) (v : Word) : (s.setS r v).links = s.links := rfl
@[simp] theorem State.setS_upsets (s : State) (r : SReg) (v : Word) : (s.setS r v).upsets = s.upsets := rfl
@[simp] theorem State.setS_poison (s : State) (r : SReg) (v : Word) : (s.setS r v).poison = s.poison := rfl
@[simp] theorem State.setS_turns (s : State) (r : SReg) (v : Word) : (s.setS r v).turns = s.turns := rfl
@[simp] theorem State.setS_tick (s : State) (r : SReg) (v : Word) : (s.setS r v).tick = s.tick := rfl
@[simp] theorem State.setS_free (s : State) (r : SReg) (v : Word) : (s.setS r v).free = s.free := rfl
@[simp] theorem State.setS_time (s : State) (r : SReg) (v : Word) : (s.setS r v).time = s.time := rfl
@[simp] theorem State.setS_cur (s : State) (r : SReg) (v : Word) : (s.setS r v).cur = s.cur := rfl
@[simp] theorem State.setS_core (s : State) (r : SReg) (v : Word) (j : Nat) : (s.setS r v).core j = s.core j := rfl
@[simp] theorem State.setS_gang (s : State) (r : SReg) (v : Word) (j : Nat) : (s.setS r v).gang j = s.gang j := rfl
@[simp] theorem State.setS_die (s : State) (r : SReg) (v : Word) (j : Nat) : (s.setS r v).die j = s.die j := rfl
@[simp] theorem State.setS_bank (s : State) (r : SReg) (v : Word) (j : Nat) : (s.setS r v).bank j = s.bank j := rfl
@[simp] theorem State.setS_io (s : State) (r : SReg) (v : Word) (j : Nat) : (s.setS r v).io j = s.io j := rfl
@[simp] theorem State.setS_tile (s : State) (r : SReg) (v : Word) (j : Nat) : (s.setS r v).tile j = s.tile j := rfl

@[simp] theorem State.setV_cores (s : State) (r : VReg) (v : Vec) : (s.setV r v).cores = s.cores := rfl
@[simp] theorem State.setV_gangs (s : State) (r : VReg) (v : Vec) : (s.setV r v).gangs = s.gangs := rfl
@[simp] theorem State.setV_dies (s : State) (r : VReg) (v : Vec) : (s.setV r v).dies = s.dies := rfl
@[simp] theorem State.setV_banks (s : State) (r : VReg) (v : Vec) : (s.setV r v).banks = s.banks := rfl
@[simp] theorem State.setV_ios (s : State) (r : VReg) (v : Vec) : (s.setV r v).ios = s.ios := rfl
@[simp] theorem State.setV_pkg (s : State) (r : VReg) (v : Vec) : (s.setV r v).pkg = s.pkg := rfl
@[simp] theorem State.setV_mem (s : State) (r : VReg) (v : Vec) : (s.setV r v).mem = s.mem := rfl
@[simp] theorem State.setV_tiles (s : State) (r : VReg) (v : Vec) : (s.setV r v).tiles = s.tiles := rfl
@[simp] theorem State.setV_l2 (s : State) (r : VReg) (v : Vec) : (s.setV r v).l2 = s.l2 := rfl
@[simp] theorem State.setV_races (s : State) (r : VReg) (v : Vec) : (s.setV r v).races = s.races := rfl
@[simp] theorem State.setV_pend (s : State) (r : VReg) (v : Vec) : (s.setV r v).pend = s.pend := rfl
@[simp] theorem State.setV_ops (s : State) (r : VReg) (v : Vec) : (s.setV r v).ops = s.ops := rfl
@[simp] theorem State.setV_nextOp (s : State) (r : VReg) (v : Vec) : (s.setV r v).nextOp = s.nextOp := rfl
@[simp] theorem State.setV_deferred (s : State) (r : VReg) (v : Vec) : (s.setV r v).deferred = s.deferred := rfl
@[simp] theorem State.setV_homeq (s : State) (r : VReg) (v : Vec) : (s.setV r v).homeq = s.homeq := rfl
@[simp] theorem State.setV_netOut (s : State) (r : VReg) (v : Vec) : (s.setV r v).netOut = s.netOut := rfl
@[simp] theorem State.setV_graphs (s : State) (r : VReg) (v : Vec) : (s.setV r v).graphs = s.graphs := rfl
@[simp] theorem State.setV_links (s : State) (r : VReg) (v : Vec) : (s.setV r v).links = s.links := rfl
@[simp] theorem State.setV_upsets (s : State) (r : VReg) (v : Vec) : (s.setV r v).upsets = s.upsets := rfl
@[simp] theorem State.setV_poison (s : State) (r : VReg) (v : Vec) : (s.setV r v).poison = s.poison := rfl
@[simp] theorem State.setV_turns (s : State) (r : VReg) (v : Vec) : (s.setV r v).turns = s.turns := rfl
@[simp] theorem State.setV_tick (s : State) (r : VReg) (v : Vec) : (s.setV r v).tick = s.tick := rfl
@[simp] theorem State.setV_free (s : State) (r : VReg) (v : Vec) : (s.setV r v).free = s.free := rfl
@[simp] theorem State.setV_time (s : State) (r : VReg) (v : Vec) : (s.setV r v).time = s.time := rfl
@[simp] theorem State.setV_cur (s : State) (r : VReg) (v : Vec) : (s.setV r v).cur = s.cur := rfl
@[simp] theorem State.setV_core (s : State) (r : VReg) (v : Vec) (j : Nat) : (s.setV r v).core j = s.core j := rfl
@[simp] theorem State.setV_gang (s : State) (r : VReg) (v : Vec) (j : Nat) : (s.setV r v).gang j = s.gang j := rfl
@[simp] theorem State.setV_die (s : State) (r : VReg) (v : Vec) (j : Nat) : (s.setV r v).die j = s.die j := rfl
@[simp] theorem State.setV_bank (s : State) (r : VReg) (v : Vec) (j : Nat) : (s.setV r v).bank j = s.bank j := rfl
@[simp] theorem State.setV_io (s : State) (r : VReg) (v : Vec) (j : Nat) : (s.setV r v).io j = s.io j := rfl
@[simp] theorem State.setV_tile (s : State) (r : VReg) (v : Vec) (j : Nat) : (s.setV r v).tile j = s.tile j := rfl

@[simp] theorem State.setM_cores (s : State) (r : MReg) (v : Mask) : (s.setM r v).cores = s.cores := rfl
@[simp] theorem State.setM_gangs (s : State) (r : MReg) (v : Mask) : (s.setM r v).gangs = s.gangs := rfl
@[simp] theorem State.setM_dies (s : State) (r : MReg) (v : Mask) : (s.setM r v).dies = s.dies := rfl
@[simp] theorem State.setM_banks (s : State) (r : MReg) (v : Mask) : (s.setM r v).banks = s.banks := rfl
@[simp] theorem State.setM_ios (s : State) (r : MReg) (v : Mask) : (s.setM r v).ios = s.ios := rfl
@[simp] theorem State.setM_pkg (s : State) (r : MReg) (v : Mask) : (s.setM r v).pkg = s.pkg := rfl
@[simp] theorem State.setM_mem (s : State) (r : MReg) (v : Mask) : (s.setM r v).mem = s.mem := rfl
@[simp] theorem State.setM_tiles (s : State) (r : MReg) (v : Mask) : (s.setM r v).tiles = s.tiles := rfl
@[simp] theorem State.setM_l2 (s : State) (r : MReg) (v : Mask) : (s.setM r v).l2 = s.l2 := rfl
@[simp] theorem State.setM_races (s : State) (r : MReg) (v : Mask) : (s.setM r v).races = s.races := rfl
@[simp] theorem State.setM_pend (s : State) (r : MReg) (v : Mask) : (s.setM r v).pend = s.pend := rfl
@[simp] theorem State.setM_ops (s : State) (r : MReg) (v : Mask) : (s.setM r v).ops = s.ops := rfl
@[simp] theorem State.setM_nextOp (s : State) (r : MReg) (v : Mask) : (s.setM r v).nextOp = s.nextOp := rfl
@[simp] theorem State.setM_deferred (s : State) (r : MReg) (v : Mask) : (s.setM r v).deferred = s.deferred := rfl
@[simp] theorem State.setM_homeq (s : State) (r : MReg) (v : Mask) : (s.setM r v).homeq = s.homeq := rfl
@[simp] theorem State.setM_netOut (s : State) (r : MReg) (v : Mask) : (s.setM r v).netOut = s.netOut := rfl
@[simp] theorem State.setM_graphs (s : State) (r : MReg) (v : Mask) : (s.setM r v).graphs = s.graphs := rfl
@[simp] theorem State.setM_links (s : State) (r : MReg) (v : Mask) : (s.setM r v).links = s.links := rfl
@[simp] theorem State.setM_upsets (s : State) (r : MReg) (v : Mask) : (s.setM r v).upsets = s.upsets := rfl
@[simp] theorem State.setM_poison (s : State) (r : MReg) (v : Mask) : (s.setM r v).poison = s.poison := rfl
@[simp] theorem State.setM_turns (s : State) (r : MReg) (v : Mask) : (s.setM r v).turns = s.turns := rfl
@[simp] theorem State.setM_tick (s : State) (r : MReg) (v : Mask) : (s.setM r v).tick = s.tick := rfl
@[simp] theorem State.setM_free (s : State) (r : MReg) (v : Mask) : (s.setM r v).free = s.free := rfl
@[simp] theorem State.setM_time (s : State) (r : MReg) (v : Mask) : (s.setM r v).time = s.time := rfl
@[simp] theorem State.setM_cur (s : State) (r : MReg) (v : Mask) : (s.setM r v).cur = s.cur := rfl
@[simp] theorem State.setM_core (s : State) (r : MReg) (v : Mask) (j : Nat) : (s.setM r v).core j = s.core j := rfl
@[simp] theorem State.setM_gang (s : State) (r : MReg) (v : Mask) (j : Nat) : (s.setM r v).gang j = s.gang j := rfl
@[simp] theorem State.setM_die (s : State) (r : MReg) (v : Mask) (j : Nat) : (s.setM r v).die j = s.die j := rfl
@[simp] theorem State.setM_bank (s : State) (r : MReg) (v : Mask) (j : Nat) : (s.setM r v).bank j = s.bank j := rfl
@[simp] theorem State.setM_io (s : State) (r : MReg) (v : Mask) (j : Nat) : (s.setM r v).io j = s.io j := rfl
@[simp] theorem State.setM_tile (s : State) (r : MReg) (v : Mask) (j : Nat) : (s.setM r v).tile j = s.tile j := rfl

@[simp] theorem State.setH_cores (s : State) (r : HReg) (v : Handle) : (s.setH r v).cores = s.cores := rfl
@[simp] theorem State.setH_gangs (s : State) (r : HReg) (v : Handle) : (s.setH r v).gangs = s.gangs := rfl
@[simp] theorem State.setH_dies (s : State) (r : HReg) (v : Handle) : (s.setH r v).dies = s.dies := rfl
@[simp] theorem State.setH_banks (s : State) (r : HReg) (v : Handle) : (s.setH r v).banks = s.banks := rfl
@[simp] theorem State.setH_ios (s : State) (r : HReg) (v : Handle) : (s.setH r v).ios = s.ios := rfl
@[simp] theorem State.setH_pkg (s : State) (r : HReg) (v : Handle) : (s.setH r v).pkg = s.pkg := rfl
@[simp] theorem State.setH_mem (s : State) (r : HReg) (v : Handle) : (s.setH r v).mem = s.mem := rfl
@[simp] theorem State.setH_tiles (s : State) (r : HReg) (v : Handle) : (s.setH r v).tiles = s.tiles := rfl
@[simp] theorem State.setH_l2 (s : State) (r : HReg) (v : Handle) : (s.setH r v).l2 = s.l2 := rfl
@[simp] theorem State.setH_races (s : State) (r : HReg) (v : Handle) : (s.setH r v).races = s.races := rfl
@[simp] theorem State.setH_pend (s : State) (r : HReg) (v : Handle) : (s.setH r v).pend = s.pend := rfl
@[simp] theorem State.setH_ops (s : State) (r : HReg) (v : Handle) : (s.setH r v).ops = s.ops := rfl
@[simp] theorem State.setH_nextOp (s : State) (r : HReg) (v : Handle) : (s.setH r v).nextOp = s.nextOp := rfl
@[simp] theorem State.setH_deferred (s : State) (r : HReg) (v : Handle) : (s.setH r v).deferred = s.deferred := rfl
@[simp] theorem State.setH_homeq (s : State) (r : HReg) (v : Handle) : (s.setH r v).homeq = s.homeq := rfl
@[simp] theorem State.setH_netOut (s : State) (r : HReg) (v : Handle) : (s.setH r v).netOut = s.netOut := rfl
@[simp] theorem State.setH_graphs (s : State) (r : HReg) (v : Handle) : (s.setH r v).graphs = s.graphs := rfl
@[simp] theorem State.setH_links (s : State) (r : HReg) (v : Handle) : (s.setH r v).links = s.links := rfl
@[simp] theorem State.setH_upsets (s : State) (r : HReg) (v : Handle) : (s.setH r v).upsets = s.upsets := rfl
@[simp] theorem State.setH_poison (s : State) (r : HReg) (v : Handle) : (s.setH r v).poison = s.poison := rfl
@[simp] theorem State.setH_turns (s : State) (r : HReg) (v : Handle) : (s.setH r v).turns = s.turns := rfl
@[simp] theorem State.setH_tick (s : State) (r : HReg) (v : Handle) : (s.setH r v).tick = s.tick := rfl
@[simp] theorem State.setH_free (s : State) (r : HReg) (v : Handle) : (s.setH r v).free = s.free := rfl
@[simp] theorem State.setH_time (s : State) (r : HReg) (v : Handle) : (s.setH r v).time = s.time := rfl
@[simp] theorem State.setH_cur (s : State) (r : HReg) (v : Handle) : (s.setH r v).cur = s.cur := rfl
@[simp] theorem State.setH_core (s : State) (r : HReg) (v : Handle) (j : Nat) : (s.setH r v).core j = s.core j := rfl
@[simp] theorem State.setH_gang (s : State) (r : HReg) (v : Handle) (j : Nat) : (s.setH r v).gang j = s.gang j := rfl
@[simp] theorem State.setH_die (s : State) (r : HReg) (v : Handle) (j : Nat) : (s.setH r v).die j = s.die j := rfl
@[simp] theorem State.setH_bank (s : State) (r : HReg) (v : Handle) (j : Nat) : (s.setH r v).bank j = s.bank j := rfl
@[simp] theorem State.setH_io (s : State) (r : HReg) (v : Handle) (j : Nat) : (s.setH r v).io j = s.io j := rfl
@[simp] theorem State.setH_tile (s : State) (r : HReg) (v : Handle) (j : Nat) : (s.setH r v).tile j = s.tile j := rfl

@[simp] theorem State.modMe_me (s : State) (f : Ctx → Ctx) : (s.modMe f).me = f s.me := State.modCtx_ctx_same _ _ _

theorem State.modMe_ctx_other (s : State) (f : Ctx → Ctx) {j : Nat} (h : j ≠ s.cur) : (s.modMe f).ctx j = s.ctx j :=
  State.modCtx_ctx_other _ h _

@[simp] theorem State.setS_me (s : State) (r : SReg) (v : Word) : (s.setS r v).me = s.me.setS r v := State.modMe_me _ _

@[simp] theorem State.setV_me (s : State) (r : VReg) (v : Vec) : (s.setV r v).me = s.me.setV r v := State.modMe_me _ _

@[simp] theorem State.setM_me (s : State) (r : MReg) (v : Mask) : (s.setM r v).me = s.me.setM r v := State.modMe_me _ _

@[simp] theorem State.setH_me (s : State) (r : HReg) (v : Handle) : (s.setH r v).me = s.me.setH r v := State.modMe_me _ _

/-! ## Registers of a context -/

@[simp] theorem Ctx.getS_zero (c : Ctx) : c.getS 0#6 = 0#64 := rfl

theorem Ctx.getS_setS (c : Ctx) (r q : SReg) (v : Word) :
    (c.setS r v).getS q = if q = 0#6 then 0#64 else if q = r then v else c.getS q := by
  unfold Ctx.getS Ctx.setS
  by_cases hq : q = 0#6
  · simp [hq]
  · by_cases hr : r = 0#6
    · subst hr; simp [hq]
    · simp only [hq, hr, if_false, Vector.getElem_set]
      by_cases h : q = r
      · subst h; simp
      · have : r.toNat ≠ q.toNat := fun e => h (BitVec.eq_of_toNat_eq e.symm)
        simp [h, this]

theorem Ctx.getV_setV (c : Ctx) (r q : VReg) (v : Vec) : (c.setV r v).getV q = if q = r then v else c.getV q := by
  unfold Ctx.getV Ctx.setV
  simp only [Vector.getElem_set]
  by_cases h : q = r
  · subst h; simp
  · have : r.toNat ≠ q.toNat := fun e => h (BitVec.eq_of_toNat_eq e.symm)
    simp [h, this]

theorem Ctx.getM_setM (c : Ctx) (r q : MReg) (v : Mask) : (c.setM r v).getM q = if q = r then v else c.getM q := by
  unfold Ctx.getM Ctx.setM
  simp only [Vector.getElem_set]
  by_cases h : q = r
  · subst h; simp
  · have : r.toNat ≠ q.toNat := fun e => h (BitVec.eq_of_toNat_eq e.symm)
    simp [h, this]

theorem Ctx.getH_setH (c : Ctx) (r q : HReg) (v : Handle) : (c.setH r v).getH q = if q = r then v else c.getH q := by
  unfold Ctx.getH Ctx.setH
  simp only [Vector.getElem_set]
  by_cases h : q = r
  · subst h; simp
  · have : r.toNat ≠ q.toNat := fun e => h (BitVec.eq_of_toNat_eq e.symm)
    simp [h, this]

@[simp] theorem Ctx.setS_st (c : Ctx) (r : SReg) (v : Word) : (c.setS r v).st = c.st := by
  unfold Ctx.setS; split <;> rfl
@[simp] theorem Ctx.setS_prev (c : Ctx) (r : SReg) (v : Word) : (c.setS r v).prev = c.prev := by
  unfold Ctx.setS; split <;> rfl
@[simp] theorem Ctx.setS_pc (c : Ctx) (r : SReg) (v : Word) : (c.setS r v).pc = c.pc := by
  unfold Ctx.setS; split <;> rfl
@[simp] theorem Ctx.setS_vregs (c : Ctx) (r : SReg) (v : Word) : (c.setS r v).vregs = c.vregs := by
  unfold Ctx.setS; split <;> rfl
@[simp] theorem Ctx.setS_mregs (c : Ctx) (r : SReg) (v : Word) : (c.setS r v).mregs = c.mregs := by
  unfold Ctx.setS; split <;> rfl
@[simp] theorem Ctx.setS_hregs (c : Ctx) (r : SReg) (v : Word) : (c.setS r v).hregs = c.hregs := by
  unfold Ctx.setS; split <;> rfl
@[simp] theorem Ctx.setS_round (c : Ctx) (r : SReg) (v : Word) : (c.setS r v).round = c.round := by
  unfold Ctx.setS; split <;> rfl
@[simp] theorem Ctx.setS_fpflags (c : Ctx) (r : SReg) (v : Word) : (c.setS r v).fpflags = c.fpflags := by
  unfold Ctx.setS; split <;> rfl
@[simp] theorem Ctx.setS_fpen (c : Ctx) (r : SReg) (v : Word) : (c.setS r v).fpen = c.fpen := by
  unfold Ctx.setS; split <;> rfl
@[simp] theorem Ctx.setS_mode (c : Ctx) (r : SReg) (v : Word) : (c.setS r v).mode = c.mode := by
  unfold Ctx.setS; split <;> rfl
@[simp] theorem Ctx.setS_doms (c : Ctx) (r : SReg) (v : Word) : (c.setS r v).doms = c.doms := by
  unfold Ctx.setS; split <;> rfl
@[simp] theorem Ctx.setS_asid (c : Ctx) (r : SReg) (v : Word) : (c.setS r v).asid = c.asid := by
  unfold Ctx.setS; split <;> rfl
@[simp] theorem Ctx.setS_troot (c : Ctx) (r : SReg) (v : Word) : (c.setS r v).troot = c.troot := by
  unfold Ctx.setS; split <;> rfl
@[simp] theorem Ctx.setS_icount (c : Ctx) (r : SReg) (v : Word) : (c.setS r v).icount = c.icount := by
  unfold Ctx.setS; split <;> rfl
@[simp] theorem Ctx.setS_wake (c : Ctx) (r : SReg) (v : Word) : (c.setS r v).wake = c.wake := by
  unfold Ctx.setS; split <;> rfl
@[simp] theorem Ctx.setS_deadline (c : Ctx) (r : SReg) (v : Word) : (c.setS r v).deadline = c.deadline := by
  unfold Ctx.setS; split <;> rfl
@[simp] theorem Ctx.setS_met (c : Ctx) (r : SReg) (v : Word) : (c.setS r v).met = c.met := by
  unfold Ctx.setS; split <;> rfl
@[simp] theorem Ctx.setS_mid (c : Ctx) (r : SReg) (v : Word) : (c.setS r v).mid = c.mid := by
  unfold Ctx.setS; split <;> rfl
@[simp] theorem Ctx.setS_entry (c : Ctx) (r : SReg) (v : Word) : (c.setS r v).entry = c.entry := by
  unfold Ctx.setS; split <;> rfl
@[simp] theorem Ctx.setS_srcPc (c : Ctx) (r : SReg) (v : Word) : (c.setS r v).srcPc = c.srcPc := by
  unfold Ctx.setS; split <;> rfl
@[simp] theorem Ctx.setS_line (c : Ctx) (r : SReg) (v : Word) : (c.setS r v).line = c.line := by
  unfold Ctx.setS; split <;> rfl
@[simp] theorem Ctx.setS_checked (c : Ctx) (r : SReg) (v : Word) : (c.setS r v).checked = c.checked := by
  unfold Ctx.setS; split <;> rfl
@[simp] theorem Ctx.setS_fetchReq (c : Ctx) (r : SReg) (v : Word) : (c.setS r v).fetchReq = c.fetchReq := by
  unfold Ctx.setS; split <;> rfl
@[simp] theorem Ctx.setS_refetched (c : Ctx) (r : SReg) (v : Word) : (c.setS r v).refetched = c.refetched := by
  unfold Ctx.setS; split <;> rfl
@[simp] theorem Ctx.setS_rep (c : Ctx) (r : SReg) (v : Word) : (c.setS r v).rep = c.rep := by
  unfold Ctx.setS; split <;> rfl
@[simp] theorem Ctx.setS_windows (c : Ctx) (r : SReg) (v : Word) : (c.setS r v).windows = c.windows := by
  unfold Ctx.setS; split <;> rfl
@[simp] theorem Ctx.setS_replayV (c : Ctx) (r : SReg) (v : Word) : (c.setS r v).replayV = c.replayV := by
  unfold Ctx.setS; split <;> rfl
@[simp] theorem Ctx.setS_replay (c : Ctx) (r : SReg) (v : Word) : (c.setS r v).replay = c.replay := by
  unfold Ctx.setS; split <;> rfl
@[simp] theorem Ctx.setS_ahead (c : Ctx) (r : SReg) (v : Word) : (c.setS r v).ahead = c.ahead := by
  unfold Ctx.setS; split <;> rfl
@[simp] theorem Ctx.setS_skipTo (c : Ctx) (r : SReg) (v : Word) : (c.setS r v).skipTo = c.skipTo := by
  unfold Ctx.setS; split <;> rfl
@[simp] theorem Ctx.setS_look (c : Ctx) (r : SReg) (v : Word) : (c.setS r v).look = c.look := by
  unfold Ctx.setS; split <;> rfl
@[simp] theorem Ctx.setS_awaits (c : Ctx) (r : SReg) (v : Word) : (c.setS r v).awaits = c.awaits := by
  unfold Ctx.setS; split <;> rfl
@[simp] theorem Ctx.setS_reply (c : Ctx) (r : SReg) (v : Word) : (c.setS r v).reply = c.reply := by
  unfold Ctx.setS; split <;> rfl
@[simp] theorem Ctx.setS_passFault (c : Ctx) (r : SReg) (v : Word) : (c.setS r v).passFault = c.passFault := by
  unfold Ctx.setS; split <;> rfl
@[simp] theorem Ctx.setS_xlat (c : Ctx) (r : SReg) (v : Word) : (c.setS r v).xlat = c.xlat := by
  unfold Ctx.setS; split <;> rfl
@[simp] theorem Ctx.setS_node (c : Ctx) (r : SReg) (v : Word) : (c.setS r v).node = c.node := by
  unfold Ctx.setS; split <;> rfl
@[simp] theorem Ctx.setS_graph (c : Ctx) (r : SReg) (v : Word) : (c.setS r v).graph = c.graph := by
  unfold Ctx.setS; split <;> rfl
@[simp] theorem Ctx.setS_codeBase (c : Ctx) (r : SReg) (v : Word) : (c.setS r v).codeBase = c.codeBase := by
  unfold Ctx.setS; split <;> rfl
@[simp] theorem Ctx.setS_codeLim (c : Ctx) (r : SReg) (v : Word) : (c.setS r v).codeLim = c.codeLim := by
  unfold Ctx.setS; split <;> rfl
@[simp] theorem Ctx.setS_incarnation (c : Ctx) (r : SReg) (v : Word) : (c.setS r v).incarnation = c.incarnation := by
  unfold Ctx.setS; split <;> rfl
@[simp] theorem Ctx.setS_inGang (c : Ctx) (r : SReg) (v : Word) : (c.setS r v).inGang = c.inGang := by
  unfold Ctx.setS; split <;> rfl
@[simp] theorem Ctx.setS_interval (c : Ctx) (r : SReg) (v : Word) : (c.setS r v).interval = c.interval := by
  unfold Ctx.setS; split <;> rfl
@[simp] theorem Ctx.setS_atGang (c : Ctx) (r : SReg) (v : Word) : (c.setS r v).atGang = c.atGang := by
  unfold Ctx.setS; split <;> rfl
@[simp] theorem Ctx.setS_upsets (c : Ctx) (r : SReg) (v : Word) : (c.setS r v).upsets = c.upsets := by
  unfold Ctx.setS; split <;> rfl
@[simp] theorem Ctx.setS_blockedAt (c : Ctx) (r : SReg) (v : Word) : (c.setS r v).blockedAt = c.blockedAt := by
  unfold Ctx.setS; split <;> rfl
@[simp] theorem Ctx.setS_ev (c : Ctx) (r : SReg) (v : Word) : (c.setS r v).ev = c.ev := by
  unfold Ctx.setS; split <;> rfl
@[simp] theorem Ctx.setS_watch (c : Ctx) (r : SReg) (v : Word) : (c.setS r v).watch = c.watch := by
  unfold Ctx.setS; split <;> rfl
@[simp] theorem Ctx.setS_passing (c : Ctx) (r : SReg) (v : Word) : (c.setS r v).passing = c.passing := by
  unfold Ctx.setS; split <;> rfl
@[simp] theorem Ctx.setS_message (c : Ctx) (r : SReg) (v : Word) : (c.setS r v).message = c.message := by
  unfold Ctx.setS; split <;> rfl
@[simp] theorem Ctx.setS_getV (c : Ctx) (r : SReg) (v : Word) (q : VReg) : (c.setS r v).getV q = c.getV q := by
  unfold Ctx.getV; simp only [Ctx.setS_vregs]
@[simp] theorem Ctx.setS_getM (c : Ctx) (r : SReg) (v : Word) (q : MReg) : (c.setS r v).getM q = c.getM q := by
  unfold Ctx.getM; simp only [Ctx.setS_mregs]
@[simp] theorem Ctx.setS_getH (c : Ctx) (r : SReg) (v : Word) (q : HReg) : (c.setS r v).getH q = c.getH q := by
  unfold Ctx.getH; simp only [Ctx.setS_hregs]

@[simp] theorem Ctx.setV_st (c : Ctx) (r : VReg) (v : Vec) : (c.setV r v).st = c.st := rfl
@[simp] theorem Ctx.setV_prev (c : Ctx) (r : VReg) (v : Vec) : (c.setV r v).prev = c.prev := rfl
@[simp] theorem Ctx.setV_pc (c : Ctx) (r : VReg) (v : Vec) : (c.setV r v).pc = c.pc := rfl
@[simp] theorem Ctx.setV_sregs (c : Ctx) (r : VReg) (v : Vec) : (c.setV r v).sregs = c.sregs := rfl
@[simp] theorem Ctx.setV_mregs (c : Ctx) (r : VReg) (v : Vec) : (c.setV r v).mregs = c.mregs := rfl
@[simp] theorem Ctx.setV_hregs (c : Ctx) (r : VReg) (v : Vec) : (c.setV r v).hregs = c.hregs := rfl
@[simp] theorem Ctx.setV_round (c : Ctx) (r : VReg) (v : Vec) : (c.setV r v).round = c.round := rfl
@[simp] theorem Ctx.setV_fpflags (c : Ctx) (r : VReg) (v : Vec) : (c.setV r v).fpflags = c.fpflags := rfl
@[simp] theorem Ctx.setV_fpen (c : Ctx) (r : VReg) (v : Vec) : (c.setV r v).fpen = c.fpen := rfl
@[simp] theorem Ctx.setV_mode (c : Ctx) (r : VReg) (v : Vec) : (c.setV r v).mode = c.mode := rfl
@[simp] theorem Ctx.setV_doms (c : Ctx) (r : VReg) (v : Vec) : (c.setV r v).doms = c.doms := rfl
@[simp] theorem Ctx.setV_asid (c : Ctx) (r : VReg) (v : Vec) : (c.setV r v).asid = c.asid := rfl
@[simp] theorem Ctx.setV_troot (c : Ctx) (r : VReg) (v : Vec) : (c.setV r v).troot = c.troot := rfl
@[simp] theorem Ctx.setV_icount (c : Ctx) (r : VReg) (v : Vec) : (c.setV r v).icount = c.icount := rfl
@[simp] theorem Ctx.setV_wake (c : Ctx) (r : VReg) (v : Vec) : (c.setV r v).wake = c.wake := rfl
@[simp] theorem Ctx.setV_deadline (c : Ctx) (r : VReg) (v : Vec) : (c.setV r v).deadline = c.deadline := rfl
@[simp] theorem Ctx.setV_met (c : Ctx) (r : VReg) (v : Vec) : (c.setV r v).met = c.met := rfl
@[simp] theorem Ctx.setV_mid (c : Ctx) (r : VReg) (v : Vec) : (c.setV r v).mid = c.mid := rfl
@[simp] theorem Ctx.setV_entry (c : Ctx) (r : VReg) (v : Vec) : (c.setV r v).entry = c.entry := rfl
@[simp] theorem Ctx.setV_srcPc (c : Ctx) (r : VReg) (v : Vec) : (c.setV r v).srcPc = c.srcPc := rfl
@[simp] theorem Ctx.setV_line (c : Ctx) (r : VReg) (v : Vec) : (c.setV r v).line = c.line := rfl
@[simp] theorem Ctx.setV_checked (c : Ctx) (r : VReg) (v : Vec) : (c.setV r v).checked = c.checked := rfl
@[simp] theorem Ctx.setV_fetchReq (c : Ctx) (r : VReg) (v : Vec) : (c.setV r v).fetchReq = c.fetchReq := rfl
@[simp] theorem Ctx.setV_refetched (c : Ctx) (r : VReg) (v : Vec) : (c.setV r v).refetched = c.refetched := rfl
@[simp] theorem Ctx.setV_rep (c : Ctx) (r : VReg) (v : Vec) : (c.setV r v).rep = c.rep := rfl
@[simp] theorem Ctx.setV_windows (c : Ctx) (r : VReg) (v : Vec) : (c.setV r v).windows = c.windows := rfl
@[simp] theorem Ctx.setV_replayV (c : Ctx) (r : VReg) (v : Vec) : (c.setV r v).replayV = c.replayV := rfl
@[simp] theorem Ctx.setV_replay (c : Ctx) (r : VReg) (v : Vec) : (c.setV r v).replay = c.replay := rfl
@[simp] theorem Ctx.setV_ahead (c : Ctx) (r : VReg) (v : Vec) : (c.setV r v).ahead = c.ahead := rfl
@[simp] theorem Ctx.setV_skipTo (c : Ctx) (r : VReg) (v : Vec) : (c.setV r v).skipTo = c.skipTo := rfl
@[simp] theorem Ctx.setV_look (c : Ctx) (r : VReg) (v : Vec) : (c.setV r v).look = c.look := rfl
@[simp] theorem Ctx.setV_awaits (c : Ctx) (r : VReg) (v : Vec) : (c.setV r v).awaits = c.awaits := rfl
@[simp] theorem Ctx.setV_reply (c : Ctx) (r : VReg) (v : Vec) : (c.setV r v).reply = c.reply := rfl
@[simp] theorem Ctx.setV_passFault (c : Ctx) (r : VReg) (v : Vec) : (c.setV r v).passFault = c.passFault := rfl
@[simp] theorem Ctx.setV_xlat (c : Ctx) (r : VReg) (v : Vec) : (c.setV r v).xlat = c.xlat := rfl
@[simp] theorem Ctx.setV_node (c : Ctx) (r : VReg) (v : Vec) : (c.setV r v).node = c.node := rfl
@[simp] theorem Ctx.setV_graph (c : Ctx) (r : VReg) (v : Vec) : (c.setV r v).graph = c.graph := rfl
@[simp] theorem Ctx.setV_codeBase (c : Ctx) (r : VReg) (v : Vec) : (c.setV r v).codeBase = c.codeBase := rfl
@[simp] theorem Ctx.setV_codeLim (c : Ctx) (r : VReg) (v : Vec) : (c.setV r v).codeLim = c.codeLim := rfl
@[simp] theorem Ctx.setV_incarnation (c : Ctx) (r : VReg) (v : Vec) : (c.setV r v).incarnation = c.incarnation := rfl
@[simp] theorem Ctx.setV_inGang (c : Ctx) (r : VReg) (v : Vec) : (c.setV r v).inGang = c.inGang := rfl
@[simp] theorem Ctx.setV_interval (c : Ctx) (r : VReg) (v : Vec) : (c.setV r v).interval = c.interval := rfl
@[simp] theorem Ctx.setV_atGang (c : Ctx) (r : VReg) (v : Vec) : (c.setV r v).atGang = c.atGang := rfl
@[simp] theorem Ctx.setV_upsets (c : Ctx) (r : VReg) (v : Vec) : (c.setV r v).upsets = c.upsets := rfl
@[simp] theorem Ctx.setV_blockedAt (c : Ctx) (r : VReg) (v : Vec) : (c.setV r v).blockedAt = c.blockedAt := rfl
@[simp] theorem Ctx.setV_ev (c : Ctx) (r : VReg) (v : Vec) : (c.setV r v).ev = c.ev := rfl
@[simp] theorem Ctx.setV_watch (c : Ctx) (r : VReg) (v : Vec) : (c.setV r v).watch = c.watch := rfl
@[simp] theorem Ctx.setV_passing (c : Ctx) (r : VReg) (v : Vec) : (c.setV r v).passing = c.passing := rfl
@[simp] theorem Ctx.setV_message (c : Ctx) (r : VReg) (v : Vec) : (c.setV r v).message = c.message := rfl
@[simp] theorem Ctx.setV_getS (c : Ctx) (r : VReg) (v : Vec) (q : SReg) : (c.setV r v).getS q = c.getS q := by
  unfold Ctx.getS; simp only [Ctx.setV_sregs]
@[simp] theorem Ctx.setV_getM (c : Ctx) (r : VReg) (v : Vec) (q : MReg) : (c.setV r v).getM q = c.getM q := by
  unfold Ctx.getM; simp only [Ctx.setV_mregs]
@[simp] theorem Ctx.setV_getH (c : Ctx) (r : VReg) (v : Vec) (q : HReg) : (c.setV r v).getH q = c.getH q := by
  unfold Ctx.getH; simp only [Ctx.setV_hregs]

@[simp] theorem Ctx.setM_st (c : Ctx) (r : MReg) (v : Mask) : (c.setM r v).st = c.st := rfl
@[simp] theorem Ctx.setM_prev (c : Ctx) (r : MReg) (v : Mask) : (c.setM r v).prev = c.prev := rfl
@[simp] theorem Ctx.setM_pc (c : Ctx) (r : MReg) (v : Mask) : (c.setM r v).pc = c.pc := rfl
@[simp] theorem Ctx.setM_sregs (c : Ctx) (r : MReg) (v : Mask) : (c.setM r v).sregs = c.sregs := rfl
@[simp] theorem Ctx.setM_vregs (c : Ctx) (r : MReg) (v : Mask) : (c.setM r v).vregs = c.vregs := rfl
@[simp] theorem Ctx.setM_hregs (c : Ctx) (r : MReg) (v : Mask) : (c.setM r v).hregs = c.hregs := rfl
@[simp] theorem Ctx.setM_round (c : Ctx) (r : MReg) (v : Mask) : (c.setM r v).round = c.round := rfl
@[simp] theorem Ctx.setM_fpflags (c : Ctx) (r : MReg) (v : Mask) : (c.setM r v).fpflags = c.fpflags := rfl
@[simp] theorem Ctx.setM_fpen (c : Ctx) (r : MReg) (v : Mask) : (c.setM r v).fpen = c.fpen := rfl
@[simp] theorem Ctx.setM_mode (c : Ctx) (r : MReg) (v : Mask) : (c.setM r v).mode = c.mode := rfl
@[simp] theorem Ctx.setM_doms (c : Ctx) (r : MReg) (v : Mask) : (c.setM r v).doms = c.doms := rfl
@[simp] theorem Ctx.setM_asid (c : Ctx) (r : MReg) (v : Mask) : (c.setM r v).asid = c.asid := rfl
@[simp] theorem Ctx.setM_troot (c : Ctx) (r : MReg) (v : Mask) : (c.setM r v).troot = c.troot := rfl
@[simp] theorem Ctx.setM_icount (c : Ctx) (r : MReg) (v : Mask) : (c.setM r v).icount = c.icount := rfl
@[simp] theorem Ctx.setM_wake (c : Ctx) (r : MReg) (v : Mask) : (c.setM r v).wake = c.wake := rfl
@[simp] theorem Ctx.setM_deadline (c : Ctx) (r : MReg) (v : Mask) : (c.setM r v).deadline = c.deadline := rfl
@[simp] theorem Ctx.setM_met (c : Ctx) (r : MReg) (v : Mask) : (c.setM r v).met = c.met := rfl
@[simp] theorem Ctx.setM_mid (c : Ctx) (r : MReg) (v : Mask) : (c.setM r v).mid = c.mid := rfl
@[simp] theorem Ctx.setM_entry (c : Ctx) (r : MReg) (v : Mask) : (c.setM r v).entry = c.entry := rfl
@[simp] theorem Ctx.setM_srcPc (c : Ctx) (r : MReg) (v : Mask) : (c.setM r v).srcPc = c.srcPc := rfl
@[simp] theorem Ctx.setM_line (c : Ctx) (r : MReg) (v : Mask) : (c.setM r v).line = c.line := rfl
@[simp] theorem Ctx.setM_checked (c : Ctx) (r : MReg) (v : Mask) : (c.setM r v).checked = c.checked := rfl
@[simp] theorem Ctx.setM_fetchReq (c : Ctx) (r : MReg) (v : Mask) : (c.setM r v).fetchReq = c.fetchReq := rfl
@[simp] theorem Ctx.setM_refetched (c : Ctx) (r : MReg) (v : Mask) : (c.setM r v).refetched = c.refetched := rfl
@[simp] theorem Ctx.setM_rep (c : Ctx) (r : MReg) (v : Mask) : (c.setM r v).rep = c.rep := rfl
@[simp] theorem Ctx.setM_windows (c : Ctx) (r : MReg) (v : Mask) : (c.setM r v).windows = c.windows := rfl
@[simp] theorem Ctx.setM_replayV (c : Ctx) (r : MReg) (v : Mask) : (c.setM r v).replayV = c.replayV := rfl
@[simp] theorem Ctx.setM_replay (c : Ctx) (r : MReg) (v : Mask) : (c.setM r v).replay = c.replay := rfl
@[simp] theorem Ctx.setM_ahead (c : Ctx) (r : MReg) (v : Mask) : (c.setM r v).ahead = c.ahead := rfl
@[simp] theorem Ctx.setM_skipTo (c : Ctx) (r : MReg) (v : Mask) : (c.setM r v).skipTo = c.skipTo := rfl
@[simp] theorem Ctx.setM_look (c : Ctx) (r : MReg) (v : Mask) : (c.setM r v).look = c.look := rfl
@[simp] theorem Ctx.setM_awaits (c : Ctx) (r : MReg) (v : Mask) : (c.setM r v).awaits = c.awaits := rfl
@[simp] theorem Ctx.setM_reply (c : Ctx) (r : MReg) (v : Mask) : (c.setM r v).reply = c.reply := rfl
@[simp] theorem Ctx.setM_passFault (c : Ctx) (r : MReg) (v : Mask) : (c.setM r v).passFault = c.passFault := rfl
@[simp] theorem Ctx.setM_xlat (c : Ctx) (r : MReg) (v : Mask) : (c.setM r v).xlat = c.xlat := rfl
@[simp] theorem Ctx.setM_node (c : Ctx) (r : MReg) (v : Mask) : (c.setM r v).node = c.node := rfl
@[simp] theorem Ctx.setM_graph (c : Ctx) (r : MReg) (v : Mask) : (c.setM r v).graph = c.graph := rfl
@[simp] theorem Ctx.setM_codeBase (c : Ctx) (r : MReg) (v : Mask) : (c.setM r v).codeBase = c.codeBase := rfl
@[simp] theorem Ctx.setM_codeLim (c : Ctx) (r : MReg) (v : Mask) : (c.setM r v).codeLim = c.codeLim := rfl
@[simp] theorem Ctx.setM_incarnation (c : Ctx) (r : MReg) (v : Mask) : (c.setM r v).incarnation = c.incarnation := rfl
@[simp] theorem Ctx.setM_inGang (c : Ctx) (r : MReg) (v : Mask) : (c.setM r v).inGang = c.inGang := rfl
@[simp] theorem Ctx.setM_interval (c : Ctx) (r : MReg) (v : Mask) : (c.setM r v).interval = c.interval := rfl
@[simp] theorem Ctx.setM_atGang (c : Ctx) (r : MReg) (v : Mask) : (c.setM r v).atGang = c.atGang := rfl
@[simp] theorem Ctx.setM_upsets (c : Ctx) (r : MReg) (v : Mask) : (c.setM r v).upsets = c.upsets := rfl
@[simp] theorem Ctx.setM_blockedAt (c : Ctx) (r : MReg) (v : Mask) : (c.setM r v).blockedAt = c.blockedAt := rfl
@[simp] theorem Ctx.setM_ev (c : Ctx) (r : MReg) (v : Mask) : (c.setM r v).ev = c.ev := rfl
@[simp] theorem Ctx.setM_watch (c : Ctx) (r : MReg) (v : Mask) : (c.setM r v).watch = c.watch := rfl
@[simp] theorem Ctx.setM_passing (c : Ctx) (r : MReg) (v : Mask) : (c.setM r v).passing = c.passing := rfl
@[simp] theorem Ctx.setM_message (c : Ctx) (r : MReg) (v : Mask) : (c.setM r v).message = c.message := rfl
@[simp] theorem Ctx.setM_getS (c : Ctx) (r : MReg) (v : Mask) (q : SReg) : (c.setM r v).getS q = c.getS q := by
  unfold Ctx.getS; simp only [Ctx.setM_sregs]
@[simp] theorem Ctx.setM_getV (c : Ctx) (r : MReg) (v : Mask) (q : VReg) : (c.setM r v).getV q = c.getV q := by
  unfold Ctx.getV; simp only [Ctx.setM_vregs]
@[simp] theorem Ctx.setM_getH (c : Ctx) (r : MReg) (v : Mask) (q : HReg) : (c.setM r v).getH q = c.getH q := by
  unfold Ctx.getH; simp only [Ctx.setM_hregs]

@[simp] theorem Ctx.setH_st (c : Ctx) (r : HReg) (v : Handle) : (c.setH r v).st = c.st := rfl
@[simp] theorem Ctx.setH_prev (c : Ctx) (r : HReg) (v : Handle) : (c.setH r v).prev = c.prev := rfl
@[simp] theorem Ctx.setH_pc (c : Ctx) (r : HReg) (v : Handle) : (c.setH r v).pc = c.pc := rfl
@[simp] theorem Ctx.setH_sregs (c : Ctx) (r : HReg) (v : Handle) : (c.setH r v).sregs = c.sregs := rfl
@[simp] theorem Ctx.setH_vregs (c : Ctx) (r : HReg) (v : Handle) : (c.setH r v).vregs = c.vregs := rfl
@[simp] theorem Ctx.setH_mregs (c : Ctx) (r : HReg) (v : Handle) : (c.setH r v).mregs = c.mregs := rfl
@[simp] theorem Ctx.setH_round (c : Ctx) (r : HReg) (v : Handle) : (c.setH r v).round = c.round := rfl
@[simp] theorem Ctx.setH_fpflags (c : Ctx) (r : HReg) (v : Handle) : (c.setH r v).fpflags = c.fpflags := rfl
@[simp] theorem Ctx.setH_fpen (c : Ctx) (r : HReg) (v : Handle) : (c.setH r v).fpen = c.fpen := rfl
@[simp] theorem Ctx.setH_mode (c : Ctx) (r : HReg) (v : Handle) : (c.setH r v).mode = c.mode := rfl
@[simp] theorem Ctx.setH_doms (c : Ctx) (r : HReg) (v : Handle) : (c.setH r v).doms = c.doms := rfl
@[simp] theorem Ctx.setH_asid (c : Ctx) (r : HReg) (v : Handle) : (c.setH r v).asid = c.asid := rfl
@[simp] theorem Ctx.setH_troot (c : Ctx) (r : HReg) (v : Handle) : (c.setH r v).troot = c.troot := rfl
@[simp] theorem Ctx.setH_icount (c : Ctx) (r : HReg) (v : Handle) : (c.setH r v).icount = c.icount := rfl
@[simp] theorem Ctx.setH_wake (c : Ctx) (r : HReg) (v : Handle) : (c.setH r v).wake = c.wake := rfl
@[simp] theorem Ctx.setH_deadline (c : Ctx) (r : HReg) (v : Handle) : (c.setH r v).deadline = c.deadline := rfl
@[simp] theorem Ctx.setH_met (c : Ctx) (r : HReg) (v : Handle) : (c.setH r v).met = c.met := rfl
@[simp] theorem Ctx.setH_mid (c : Ctx) (r : HReg) (v : Handle) : (c.setH r v).mid = c.mid := rfl
@[simp] theorem Ctx.setH_entry (c : Ctx) (r : HReg) (v : Handle) : (c.setH r v).entry = c.entry := rfl
@[simp] theorem Ctx.setH_srcPc (c : Ctx) (r : HReg) (v : Handle) : (c.setH r v).srcPc = c.srcPc := rfl
@[simp] theorem Ctx.setH_line (c : Ctx) (r : HReg) (v : Handle) : (c.setH r v).line = c.line := rfl
@[simp] theorem Ctx.setH_checked (c : Ctx) (r : HReg) (v : Handle) : (c.setH r v).checked = c.checked := rfl
@[simp] theorem Ctx.setH_fetchReq (c : Ctx) (r : HReg) (v : Handle) : (c.setH r v).fetchReq = c.fetchReq := rfl
@[simp] theorem Ctx.setH_refetched (c : Ctx) (r : HReg) (v : Handle) : (c.setH r v).refetched = c.refetched := rfl
@[simp] theorem Ctx.setH_rep (c : Ctx) (r : HReg) (v : Handle) : (c.setH r v).rep = c.rep := rfl
@[simp] theorem Ctx.setH_windows (c : Ctx) (r : HReg) (v : Handle) : (c.setH r v).windows = c.windows := rfl
@[simp] theorem Ctx.setH_replayV (c : Ctx) (r : HReg) (v : Handle) : (c.setH r v).replayV = c.replayV := rfl
@[simp] theorem Ctx.setH_replay (c : Ctx) (r : HReg) (v : Handle) : (c.setH r v).replay = c.replay := rfl
@[simp] theorem Ctx.setH_ahead (c : Ctx) (r : HReg) (v : Handle) : (c.setH r v).ahead = c.ahead := rfl
@[simp] theorem Ctx.setH_skipTo (c : Ctx) (r : HReg) (v : Handle) : (c.setH r v).skipTo = c.skipTo := rfl
@[simp] theorem Ctx.setH_look (c : Ctx) (r : HReg) (v : Handle) : (c.setH r v).look = c.look := rfl
@[simp] theorem Ctx.setH_awaits (c : Ctx) (r : HReg) (v : Handle) : (c.setH r v).awaits = c.awaits := rfl
@[simp] theorem Ctx.setH_reply (c : Ctx) (r : HReg) (v : Handle) : (c.setH r v).reply = c.reply := rfl
@[simp] theorem Ctx.setH_passFault (c : Ctx) (r : HReg) (v : Handle) : (c.setH r v).passFault = c.passFault := rfl
@[simp] theorem Ctx.setH_xlat (c : Ctx) (r : HReg) (v : Handle) : (c.setH r v).xlat = c.xlat := rfl
@[simp] theorem Ctx.setH_node (c : Ctx) (r : HReg) (v : Handle) : (c.setH r v).node = c.node := rfl
@[simp] theorem Ctx.setH_graph (c : Ctx) (r : HReg) (v : Handle) : (c.setH r v).graph = c.graph := rfl
@[simp] theorem Ctx.setH_codeBase (c : Ctx) (r : HReg) (v : Handle) : (c.setH r v).codeBase = c.codeBase := rfl
@[simp] theorem Ctx.setH_codeLim (c : Ctx) (r : HReg) (v : Handle) : (c.setH r v).codeLim = c.codeLim := rfl
@[simp] theorem Ctx.setH_incarnation (c : Ctx) (r : HReg) (v : Handle) : (c.setH r v).incarnation = c.incarnation := rfl
@[simp] theorem Ctx.setH_inGang (c : Ctx) (r : HReg) (v : Handle) : (c.setH r v).inGang = c.inGang := rfl
@[simp] theorem Ctx.setH_interval (c : Ctx) (r : HReg) (v : Handle) : (c.setH r v).interval = c.interval := rfl
@[simp] theorem Ctx.setH_atGang (c : Ctx) (r : HReg) (v : Handle) : (c.setH r v).atGang = c.atGang := rfl
@[simp] theorem Ctx.setH_upsets (c : Ctx) (r : HReg) (v : Handle) : (c.setH r v).upsets = c.upsets := rfl
@[simp] theorem Ctx.setH_blockedAt (c : Ctx) (r : HReg) (v : Handle) : (c.setH r v).blockedAt = c.blockedAt := rfl
@[simp] theorem Ctx.setH_ev (c : Ctx) (r : HReg) (v : Handle) : (c.setH r v).ev = c.ev := rfl
@[simp] theorem Ctx.setH_watch (c : Ctx) (r : HReg) (v : Handle) : (c.setH r v).watch = c.watch := rfl
@[simp] theorem Ctx.setH_passing (c : Ctx) (r : HReg) (v : Handle) : (c.setH r v).passing = c.passing := rfl
@[simp] theorem Ctx.setH_message (c : Ctx) (r : HReg) (v : Handle) : (c.setH r v).message = c.message := rfl
@[simp] theorem Ctx.setH_getS (c : Ctx) (r : HReg) (v : Handle) (q : SReg) : (c.setH r v).getS q = c.getS q := by
  unfold Ctx.getS; simp only [Ctx.setH_sregs]
@[simp] theorem Ctx.setH_getV (c : Ctx) (r : HReg) (v : Handle) (q : VReg) : (c.setH r v).getV q = c.getV q := by
  unfold Ctx.getV; simp only [Ctx.setH_vregs]
@[simp] theorem Ctx.setH_getM (c : Ctx) (r : HReg) (v : Handle) (q : MReg) : (c.setH r v).getM q = c.getM q := by
  unfold Ctx.getM; simp only [Ctx.setH_mregs]

theorem Ctx.setS_zero (c : Ctx) (v : Word) : c.setS 0#6 v = c := rfl

end Sys2Proof.Machine
end

