-- ==== Sys2Proof/Laws/Ops.lean ====
section
/-! SUPPORT. What each shared operation of Machine/Ops.lean can do, once: memory, the other contexts, and the context itself
after an instruction ends, stalls, waits or faults. -/

namespace Sys2Proof.Machine
open Sys2Proof

/-! ## Folds over contexts -/

theorem foldl_modCtx_mem (f : Ctx → Ctx) (ks : List Nat) (s : State) :
    (ks.foldl (fun s k => s.modCtx k f) s).mem = s.mem := by
  induction ks generalizing s with
  | nil => rfl
  | cons k ks ih => exact ih _

theorem foldl_modCtx_cores (f : Ctx → Ctx) (ks : List Nat) (s : State) :
    (ks.foldl (fun s k => s.modCtx k f) s).cores = s.cores := by
  induction ks generalizing s with
  | nil => rfl
  | cons k ks ih => exact ih _

theorem foldl_modCtx_dies (f : Ctx → Ctx) (ks : List Nat) (s : State) :
    (ks.foldl (fun s k => s.modCtx k f) s).dies = s.dies := by
  induction ks generalizing s with
  | nil => rfl
  | cons k ks ih => exact ih _

theorem foldl_modCtx_cur (f : Ctx → Ctx) (ks : List Nat) (s : State) :
    (ks.foldl (fun s k => s.modCtx k f) s).cur = s.cur := by
  induction ks generalizing s with
  | nil => rfl
  | cons k ks ih => exact ih _

/-- A context that a fold does not name is as before. -/
theorem foldl_modCtx_other (f : Ctx → Ctx) (ks : List Nat) (s : State) (j : Nat) (h : j ∉ ks) :
    (ks.foldl (fun s k => s.modCtx k f) s).ctx j = s.ctx j := by
  induction ks generalizing s with
  | nil => rfl
  | cons k ks ih =>
    simp only [List.mem_cons, not_or] at h
    exact (ih _ h.2).trans (State.modCtx_ctx_other _ h.1 _)

/-- A context that a fold names once is changed once. -/
theorem foldl_modCtx_named (f : Ctx → Ctx) (ks : List Nat) (hn : ks.Nodup) (s : State) (j : Nat) (h : j ∈ ks) :
    (ks.foldl (fun s k => s.modCtx k f) s).ctx j = f (s.ctx j) := by
  induction ks generalizing s with
  | nil => cases h
  | cons k ks ih =>
    simp only [List.nodup_cons] at hn
    rcases List.mem_cons.mp h with rfl | h
    · exact (foldl_modCtx_other f ks _ _ hn.1).trans (State.modCtx_ctx_same _ _ _)
    · have : j ≠ k := fun e => hn.1 (e ▸ h)
      exact (ih hn.2 _ h).trans (by rw [State.modCtx_ctx_other _ this])

/-! ## Packets and freezing -/

@[simp] theorem sendPacket_mem (s : State) (die ring cid : Nat) (b : BitVec 512) :
    (sendPacket s die ring cid b).mem = s.mem := rfl

@[simp] theorem sendPacket_ctxs (s : State) (die ring cid : Nat) (b : BitVec 512) :
    (sendPacket s die ring cid b).ctxs = s.ctxs := rfl

@[simp] theorem sendPacket_cores (s : State) (die ring cid : Nat) (b : BitVec 512) :
    (sendPacket s die ring cid b).cores = s.cores := rfl

@[simp] theorem sendPacket_cur (s : State) (die ring cid : Nat) (b : BitVec 512) :
    (sendPacket s die ring cid b).cur = s.cur := rfl

/-- A packet joins the end of its die's queue (R384). -/
theorem sendPacket_packets (s : State) (die ring cid : Nat) (b : BitVec 512) :
    ((sendPacket s die ring cid b).die die).packets =
      (s.die die).packets ++ [{ ring := ring, cid := cid, bits := b }] := by
  unfold sendPacket; rw [State.modDie_die_same]

@[simp] theorem reportDead_mem (s : State) (die : Nat) : (reportDead s die).mem = s.mem := by
  unfold reportDead; split <;> rfl

@[simp] theorem reportDead_core (s : State) (die k : Nat) : (reportDead s die).core k = s.core k := by
  unfold reportDead; split <;> rfl

@[simp] theorem freezeCore_mem (s : State) (core : Nat) : (freezeCore s core).mem = s.mem := foldl_modCtx_mem _ _ _

@[simp] theorem freezeCore_cur (s : State) (core : Nat) : (freezeCore s core).cur = s.cur := foldl_modCtx_cur _ _ _

@[simp] theorem freezeCore_dies (s : State) (core : Nat) : (freezeCore s core).dies = s.dies := foldl_modCtx_dies _ _ _

/-- A frozen core is frozen (R378). -/
theorem freezeCore_frozen (s : State) (core : Nat) : ((freezeCore s core).core core).frozen = true := by
  unfold freezeCore; dsimp only; rw [State.modCore_core_same]

theorem ctxsOf_nodup (core : Nat) : (ctxsOf core).Nodup := by
  simp only [ctxsOf, List.nodup_cons, List.mem_cons, List.not_mem_nil, or_false, not_or, List.nodup_nil, and_true,
    not_false_eq_true]
  omega

/-- Each context of a frozen core is frozen, with its state kept (R182). -/
theorem freezeCore_ctx (s : State) {core cid : Nat} (h : cid ∈ ctxsOf core) :
    (freezeCore s core).ctx cid = freezeCtx (s.ctx cid) := by
  unfold freezeCore; dsimp only; rw [State.modCore_ctx]
  exact foldl_modCtx_named _ _ (ctxsOf_nodup core) _ _ h

/-- A context of another core is as before. -/
theorem freezeCore_ctx_other (s : State) {core cid : Nat} (h : cid ∉ ctxsOf core) :
    (freezeCore s core).ctx cid = s.ctx cid := by
  unfold freezeCore; dsimp only; rw [State.modCore_ctx]
  exact foldl_modCtx_other _ _ _ _ h

/-! ## Floating-point events and the end of an instruction -/

@[simp] theorem parkIfEvent_mem (s : State) (cid : Nat) : (parkIfEvent s cid).mem = s.mem := by
  unfold parkIfEvent; split <;> rfl

@[simp] theorem parkIfEvent_cores (s : State) (cid : Nat) : (parkIfEvent s cid).cores = s.cores := by
  unfold parkIfEvent; split <;> rfl

@[simp] theorem parkIfEvent_cur (s : State) (cid : Nat) : (parkIfEvent s cid).cur = s.cur := by
  unfold parkIfEvent; split <;> rfl

theorem parkCtx_none {c : Ctx} (h : c.ev = 0) : parkCtx c = none := by unfold parkCtx; rw [if_pos h]

theorem parkIfEvent_none {s : State} {cid : Nat} (h : (s.ctx cid).ev = 0) : parkIfEvent s cid = s := by
  unfold parkIfEvent; rw [parkCtx_none h]

theorem parkIfEvent_ctx_other (s : State) {cid j : Nat} (h : j ≠ cid) : (parkIfEvent s cid).ctx j = s.ctx j := by
  unfold parkIfEvent; split
  · rfl
  · exact State.setCtx_ctx_other _ h _

/-- A floating-point event parks its context, if it may park now (R389). -/
theorem parkIfEvent_ctx_same (s : State) (cid : Nat) :
    (parkIfEvent s cid).ctx cid = (parkCtx (s.ctx cid)).getD (s.ctx cid) := by
  unfold parkIfEvent; split
  · next h => rw [h]; rfl
  · next h => rw [h]; exact State.setCtx_ctx_same _ _ _

/-- A context that has just completed an instruction parks for any event that it owes. -/
theorem parkCtx_ready {c : Ctx} (h : c.st = .ready) :
    (parkCtx c).getD c = if c.ev = 0 then c else { c with ev := 0, st := .parked } := by
  unfold parkCtx; split
  · rfl
  · rw [h]; rfl

@[simp] theorem raiseFlags_mem (s : State) (b : Nat) : (raiseFlags s b).mem = s.mem := rfl
@[simp] theorem raiseFlags_cores (s : State) (b : Nat) : (raiseFlags s b).cores = s.cores := rfl
@[simp] theorem raiseFlags_cur (s : State) (b : Nat) : (raiseFlags s b).cur = s.cur := rfl

/-- What the end of an instruction in sequence does to its context. -/
def endCtx (c : Ctx) : Ctx :=
  if c.passing then { retireInstr c with rep := advanceRep c.rep, passing := false, passFault := none }
  else { retireInstr c with pc := nextSlot c.pc, entry := .seq }

/-- What a taken transfer does to its context. -/
def jumpCtx (p : Nat) (c : Ctx) : Ctx := { retireInstr c with pc := p, entry := .branch, srcPc := some c.pc }

theorem finish_eq (s : State) : finish s = parkIfEvent (s.modMe endCtx) s.cur := rfl
theorem finishTo_eq (s : State) (p : Nat) : finishTo s p = parkIfEvent (s.modMe (jumpCtx p)) s.cur := rfl

theorem endCtx_sregs (c : Ctx) : (endCtx c).sregs = c.sregs := by unfold endCtx; split <;> rfl
theorem endCtx_vregs (c : Ctx) : (endCtx c).vregs = c.vregs := by unfold endCtx; split <;> rfl
theorem endCtx_mregs (c : Ctx) : (endCtx c).mregs = c.mregs := by unfold endCtx; split <;> rfl
theorem endCtx_hregs (c : Ctx) : (endCtx c).hregs = c.hregs := by unfold endCtx; split <;> rfl
theorem endCtx_fpflags (c : Ctx) : (endCtx c).fpflags = c.fpflags := by unfold endCtx; split <;> rfl
theorem endCtx_round (c : Ctx) : (endCtx c).round = c.round := by unfold endCtx; split <;> rfl
theorem endCtx_fpen (c : Ctx) : (endCtx c).fpen = c.fpen := by unfold endCtx; split <;> rfl
theorem endCtx_mode (c : Ctx) : (endCtx c).mode = c.mode := by unfold endCtx; split <;> rfl
theorem endCtx_doms (c : Ctx) : (endCtx c).doms = c.doms := by unfold endCtx; split <;> rfl
theorem endCtx_st (c : Ctx) : (endCtx c).st = .ready := by unfold endCtx; split <;> rfl
theorem endCtx_ev (c : Ctx) : (endCtx c).ev = c.ev := by unfold endCtx; split <;> rfl

@[simp] theorem finish_mem (s : State) : (finish s).mem = s.mem := by rw [finish_eq, parkIfEvent_mem]; rfl
@[simp] theorem finish_cores (s : State) : (finish s).cores = s.cores := by rw [finish_eq, parkIfEvent_cores]; rfl
@[simp] theorem finish_cur (s : State) : (finish s).cur = s.cur := by rw [finish_eq, parkIfEvent_cur]; rfl
@[simp] theorem finishTo_mem (s : State) (p : Nat) : (finishTo s p).mem = s.mem := by rw [finishTo_eq, parkIfEvent_mem]; rfl
@[simp] theorem finishTo_cores (s : State) (p : Nat) : (finishTo s p).cores = s.cores := by
  rw [finishTo_eq, parkIfEvent_cores]; rfl
@[simp] theorem finishTo_cur (s : State) (p : Nat) : (finishTo s p).cur = s.cur := by rw [finishTo_eq, parkIfEvent_cur]; rfl

/-- The other contexts after an instruction has completed. -/
theorem finish_ctx_other (s : State) {j : Nat} (h : j ≠ s.cur) : (finish s).ctx j = s.ctx j := by
  rw [finish_eq, parkIfEvent_ctx_other _ h]; exact State.modMe_ctx_other _ _ h

theorem finishTo_ctx_other (s : State) (p : Nat) {j : Nat} (h : j ≠ s.cur) : (finishTo s p).ctx j = s.ctx j := by
  rw [finishTo_eq, parkIfEvent_ctx_other _ h]; exact State.modMe_ctx_other _ _ h

/-- The context after an instruction has completed, parked if it owes a floating-point event (R389). -/
theorem finish_me_eq (s : State) :
    (finish s).me = if s.me.ev = 0 then endCtx s.me else { endCtx s.me with ev := 0, st := .parked } := by
  have h : ((s.modMe endCtx).ctx s.cur) = endCtx s.me := State.modCtx_ctx_same s s.cur _
  show (finish s).ctx (finish s).cur = _
  rw [finish_cur, finish_eq, parkIfEvent_ctx_same, h, parkCtx_ready (endCtx_st _), endCtx_ev]

/-- The context after a taken transfer. -/
theorem finishTo_me_eq (s : State) (p : Nat) :
    (finishTo s p).me = if s.me.ev = 0 then jumpCtx p s.me else { jumpCtx p s.me with ev := 0, st := .parked } := by
  have h : ((s.modMe (jumpCtx p)).ctx s.cur) = jumpCtx p s.me := State.modCtx_ctx_same s s.cur _
  show (finishTo s p).ctx (finishTo s p).cur = _
  rw [finishTo_cur, finishTo_eq, parkIfEvent_ctx_same, h, parkCtx_ready rfl]; rfl

/-- The context after an instruction without a floating-point event has completed in sequence (R199, R233). -/
theorem finish_me {s : State} (he : s.me.ev = 0) (hp : s.me.passing = false) :
    (finish s).me = { retireInstr s.me with pc := nextSlot s.me.pc, entry := .seq } := by
  rw [finish_me_eq, if_pos he, endCtx, hp]; rfl

/-- A pass instruction without a floating-point event: the sequencer moves on and the program counter stays (R192). -/
theorem finish_me_pass {s : State} (he : s.me.ev = 0) (hp : s.me.passing = true) :
    (finish s).me = { retireInstr s.me with rep := advanceRep s.me.rep, passing := false, passFault := none } := by
  rw [finish_me_eq, if_pos he, endCtx, hp]; rfl

/-- The context after a taken transfer without a floating-point event (R204, R225). -/
theorem finishTo_me {s : State} (he : s.me.ev = 0) (p : Nat) :
    (finishTo s p).me = { retireInstr s.me with pc := p, entry := .branch, srcPc := some s.me.pc } := by
  rw [finishTo_me_eq, if_pos he]; rfl

/-! ## Registers at the end of an instruction: it changes none, whatever event it parks for -/

theorem finish_sregs (s : State) : (finish s).me.sregs = s.me.sregs := by
  rw [finish_me_eq]; split <;> exact endCtx_sregs _

theorem finish_vregs (s : State) : (finish s).me.vregs = s.me.vregs := by
  rw [finish_me_eq]; split <;> exact endCtx_vregs _

theorem finish_mregs (s : State) : (finish s).me.mregs = s.me.mregs := by
  rw [finish_me_eq]; split <;> exact endCtx_mregs _

theorem finish_hregs (s : State) : (finish s).me.hregs = s.me.hregs := by
  rw [finish_me_eq]; split <;> exact endCtx_hregs _

theorem finish_fpflags (s : State) : (finish s).me.fpflags = s.me.fpflags := by
  rw [finish_me_eq]; split <;> exact endCtx_fpflags _

theorem finish_round (s : State) : (finish s).me.round = s.me.round := by
  rw [finish_me_eq]; split <;> exact endCtx_round _

theorem finish_fpen (s : State) : (finish s).me.fpen = s.me.fpen := by
  rw [finish_me_eq]; split <;> exact endCtx_fpen _

theorem finish_mode (s : State) : (finish s).me.mode = s.me.mode := by
  rw [finish_me_eq]; split <;> exact endCtx_mode _

theorem finish_doms (s : State) : (finish s).me.doms = s.me.doms := by
  rw [finish_me_eq]; split <;> exact endCtx_doms _

/-! ## Stalls, waits and faults -/

@[simp] theorem stallNow_mem (s : State) : (stallNow s).mem = s.mem := rfl
@[simp] theorem stallNow_cores (s : State) : (stallNow s).cores = s.cores := rfl
@[simp] theorem blockNow_mem (s : State) (w : Wake) (d : Nat) : (blockNow s w d).mem = s.mem := rfl
@[simp] theorem blockNow_cores (s : State) (w : Wake) (d : Nat) : (blockNow s w d).cores = s.cores := rfl

theorem stallNow_me (s : State) : (stallNow s).me = { s.me with st := .stalled, passing := false } :=
  State.modCtx_ctx_same s s.cur _

theorem blockNow_me (s : State) (w : Wake) (d : Nat) : (blockNow s w d).me =
    { s.me with st := .blocked, wake := w, deadline := d, met := false, passing := false,
                blockedAt := cycleOf s (dieOf s.cur) } := State.modCtx_ctx_same s s.cur _

@[simp] theorem mxWrite_mem (s : State) (die : Nat) (r : BitVec 256) : (mxWrite s die r).2.mem = s.mem := rfl

@[simp] theorem applyMload_mem (s : State) (l : MLoad) : (applyMload s l).mem = s.mem := by
  unfold applyMload; dsimp only
  split
  all_goals (split; all_goals rfl)

theorem foldl_applyMload_mem (ls : List MLoad) (s : State) : (ls.foldl applyMload s).mem = s.mem := by
  induction ls generalizing s with
  | nil => rfl
  | cons l ls ih => exact (ih _).trans (applyMload_mem s l)

@[simp] theorem finishMloads_mem (s : State) (core : Nat) : (finishMloads s core).mem = s.mem :=
  foldl_applyMload_mem _ _

@[simp] theorem settleCtx_mem (s : State) (cid : Nat) : (settleCtx s cid).mem = s.mem := by
  unfold settleCtx; rw [parkIfEvent_mem, State.modCtx_mem, finishMloads_mem]

@[simp] theorem freezeWith_mem (s : State) (cid : Nat) (t : Trap) (f : Ctx → Ctx) : (freezeWith s cid t f).mem = s.mem := by
  unfold freezeWith; dsimp only; rw [reportDead_mem, freezeCore_mem]; rfl

/-- Taking a fault changes no byte of memory (R378). -/
@[simp] theorem takeFault_mem (s : State) (cid : Nat) (t : Trap) : (takeFault s cid t).mem = s.mem := by
  unfold takeFault; dsimp only; rw [freezeWith_mem, settleCtx_mem]; rfl

/-- The core of a context that faults is frozen (R378). -/
theorem takeFault_frozen (s : State) (cid : Nat) (t : Trap) : ((takeFault s cid t).core (coreOf cid)).frozen = true := by
  unfold takeFault freezeWith; dsimp only; rw [reportDead_core]; exact freezeCore_frozen _ _

/-- A fault of the current context, taken now or later, changes no byte of memory (R379). -/
@[simp] theorem faultNow_mem (s : State) (t : Trap) : (faultNow s t).mem = s.mem := by
  unfold faultNow
  split
  · rfl
  · split
    · split
      · dsimp only
        split
        · exact takeFault_mem _ _ _
        · rfl
      · exact takeFault_mem _ _ _
    · exact takeFault_mem _ _ _

/-- Where nothing holds a fault back, and no window of its own instruction may issue first, it is taken (R378, R379). -/
theorem faultNow_eq {s : State} (t : Trap) (hb : awaitsBank s = false) (hl : s.me.look = none) :
    faultNow s t = takeFault s s.cur t := by
  unfold faultNow; rw [hb, hl]; rfl

/-- The memory with which an instruction stops. -/
def stopMem (s : State) : Stop → Memory
  | .trap _ => s.mem
  | .trapIn _ s' => s'.mem
  | .trapFull _ _ => s.mem
  | .stall s' => s'.mem
  | .block _ _ s' => s'.mem

/-- What stops an instruction changes no byte beyond its own effect. -/
theorem stopNow_mem (s : State) (e : Stop) : (stopNow s e).mem = stopMem s e := by
  cases e with
  | trap t => exact faultNow_mem _ _
  | trapIn t s' => exact faultNow_mem _ _
  | trapFull t d => exact faultNow_mem _ _
  | stall s' => rfl
  | block w d s' => rfl

/-! ## Outcomes -/

theorem run_ok (s s' : State) : run s (.ok s') = .next (finish s') := rfl
theorem run_error (s : State) (e : Stop) : run s (.error e) = .next (stopNow s e) := rfl
theorem runJump_go (s s' : State) (t : Nat) : runJump s (.ok (s', some t)) = .next (finishTo s' t) := rfl
theorem runJump_on (s s' : State) : runJump s (.ok (s', none)) = .next (finish s') := rfl
theorem runJump_error (s : State) (e : Stop) : runJump s (.error e) = .next (stopNow s e) := rfl
theorem runLong_ok (s s' : State) (la : BitVec 4) (ds : List RegName) (ws : List RegWrite) :
    runLong s la ds (.ok (s', ws)) = .next (finishLong s' la ds ws) := rfl
theorem runLong_error (s : State) (la : BitVec 4) (ds : List RegName) (e : Stop) :
    runLong s la ds (.error e) = .next (stopNow s e) := rfl

/-- An instruction in sequence always has a next state, with the memory of its effect or of its stop. -/
theorem run_mem (s : State) (r : Res State) : ∃ t, run s r = .next t ∧
    t.mem = (match r with | .ok s' => s'.mem | .error e => stopMem s e) := by
  cases r with
  | ok s' => exact ⟨_, rfl, finish_mem s'⟩
  | error e => exact ⟨_, rfl, stopNow_mem s e⟩

@[simp] theorem finishLong_mem (s : State) (la : BitVec 4) (ds : List RegName) (ws : List RegWrite) :
    (finishLong s la ds ws).mem = s.mem := by
  unfold finishLong
  split
  · rw [finish_mem]; rfl
  · show (finish s).mem = s.mem; rw [finish_mem]

theorem runLong_mem (s : State) (la : BitVec 4) (ds : List RegName) (r : Res (State × List RegWrite)) :
    ∃ t, runLong s la ds r = .next t ∧
      t.mem = (match r with | .ok p => p.1.mem | .error e => stopMem s e) := by
  rcases r with e | ⟨s', ws⟩
  · exact ⟨_, rfl, stopNow_mem s e⟩
  · exact ⟨_, rfl, finishLong_mem s' la ds ws⟩

theorem runJump_mem (s : State) (r : Res (State × Option Nat)) : ∃ t, runJump s r = .next t ∧
    t.mem = (match r with | .ok p => p.1.mem | .error e => stopMem s e) := by
  rcases r with e | ⟨s', _ | t⟩
  · exact ⟨_, rfl, stopNow_mem s e⟩
  · exact ⟨_, rfl, finish_mem s'⟩
  · exact ⟨_, rfl, finishTo_mem s' t⟩

/-! ## Wakes and counters -/

@[simp] theorem wakeAll_mem (s : State) (k src : Nat) (p : Nat → Ctx → Option (Option Mid)) :
    (wakeAll s k src p).mem = s.mem := rfl
@[simp] theorem wakeAll_cores (s : State) (k src : Nat) (p : Nat → Ctx → Option (Option Mid)) :
    (wakeAll s k src p).cores = s.cores := rfl
@[simp] theorem wakeAll_cur (s : State) (k src : Nat) (p : Nat → Ctx → Option (Option Mid)) :
    (wakeAll s k src p).cur = s.cur := rfl
@[simp] theorem wakeAll_ios (s : State) (k src : Nat) (p : Nat → Ctx → Option (Option Mid)) :
    (wakeAll s k src p).ios = s.ios := rfl
@[simp] theorem wakeAll_pend (s : State) (k src : Nat) (p : Nat → Ctx → Option (Option Mid)) :
    (wakeAll s k src p).pend = s.pend := rfl

@[simp] theorem countDie_mem (s : State) (d o n : Nat) : (countDie s d o n).mem = s.mem := rfl
@[simp] theorem countIo_mem (s : State) (d o n : Nat) : (countIo s d o n).mem = s.mem := rfl

/-- A counter counts, up to its maximum (R407). -/
theorem getD_bumpCtr (m : SMap Nat) (o n : Nat) (hn : n ≠ 0) (j : Nat) :
    SMap.getD (bumpCtr m o n) j 0 = if j = o then min (SMap.getD m o 0 + n) (2 ^ 64 - 1) else SMap.getD m j 0 := by
  unfold bumpCtr
  rw [if_neg hn]
  exact SMap.getD_put _ _ _ _ _

@[simp] theorem drawBits_mem (s : State) (w : Nat) : (drawBits s w).2.mem = s.mem := rfl
@[simp] theorem drawChoice_mem (s : State) (n : Nat) : (drawChoice s n).2.mem = s.mem := rfl
@[simp] theorem drawBytes_mem (s : State) (n : Nat) : (drawBytes s n).2.mem = s.mem := rfl

end Sys2Proof.Machine
end

