-- ==== Sys2Proof/Laws/Cache.lean ====
section
/-! SUPPORT. What the operations of homes and caches do to memory, once: a home's store is the one that writes published
bytes, reads change memory only where an undetected error stands, and all keep the canonical form. -/

namespace Sys2Proof.Machine
open Sys2Proof

/-- A byte after a masked write. -/
theorem Memory.read_writeMask (m : Memory) (a k x : Nat) (bs : List Byte) :
    Memory.read (m.writeMask a k bs) x =
      if a ≤ x ∧ x < a + bs.length ∧ k.testBit (x - a) = true then bs.getD (x - a) 0#8 else m.read x := by
  induction bs generalizing m a k with
  | nil => simp [Memory.writeMask]; omega
  | cons b bs ih =>
    rw [Memory.writeMask, ih]
    by_cases hx : x = a
    · subst hx
      have h1 : ¬(x + 1 ≤ x) := by omega
      rw [if_neg (by intro h; exact h1 h.1)]
      simp only [Nat.sub_self, List.length_cons, Nat.le_refl, true_and, List.getD_cons_zero, Nat.testBit_zero]
      by_cases hk : k % 2 = 1
      · rw [if_pos hk, Memory.read_write_same, if_pos ⟨by omega, by simp [hk]⟩]
      · rw [if_neg hk, if_neg (by rintro ⟨-, h⟩; simp at h; exact hk h)]
    · have hw : Memory.read (if k % 2 = 1 then m.write a b else m) x = m.read x := by
        split
        · exact Memory.read_write_other _ hx _
        · rfl
      rw [hw]
      by_cases ha : a < x
      · have e : x - a = (x - (a + 1)) + 1 := by omega
        have hb : (k / 2).testBit (x - (a + 1)) = k.testBit (x - a) := by
          rw [e, Nat.testBit_succ]
        rw [hb, e, List.getD_cons_succ, List.length_cons]
        by_cases hc : a + 1 ≤ x ∧ x < a + 1 + bs.length ∧ k.testBit (x - (a + 1) + 1) = true
        · rw [if_pos hc, if_pos ⟨by omega, by omega, hc.2.2⟩]
        · rw [if_neg hc, if_neg (by rintro ⟨h1, h2, h3⟩; exact hc ⟨by omega, by omega, h3⟩)]
      · rw [if_neg (by omega), if_neg (by omega)]

/-! ## Copies -/

@[simp] theorem modSector_mem (s : State) (x : Nat) (f : Nat → L1Sector → L1Sector) : (modSector s x f).mem = s.mem := rfl
@[simp] theorem modSector_ctxs (s : State) (x : Nat) (f : Nat → L1Sector → L1Sector) : (modSector s x f).ctxs = s.ctxs := rfl
@[simp] theorem dropCopies_mem (s : State) (k : Option Nat) (x : Nat) : (dropCopies s k x).mem = s.mem := rfl
@[simp] theorem dropCopies_ctxs (s : State) (k : Option Nat) (x : Nat) : (dropCopies s k x).ctxs = s.ctxs := rfl
@[simp] theorem recallOwner_mem (s : State) (k x : Nat) : (recallOwner s k x).mem = s.mem := rfl

/-- A pending sector made or added to changes no published byte (R119). -/
theorem pendAdd_mem (s : State) (o : Owner) (x m : Nat) (bs : List Byte) {s' n : State}
    (h : pendAdd s o x m bs = (some s', n)) : s'.mem = s.mem := by
  unfold pendAdd at h
  split at h
  · cases h; rfl
  · dsimp only at h
    split at h
    · cases h; rfl
    · split at h
      · cases h; rfl
      · cases h

theorem tidalHome_mem {s s' : State} {core : Nat} {t : TidalSector} (h : tidalHome s core t = .ok s') :
    s'.mem = s.mem := by
  unfold tidalHome at h
  dsimp only at h
  split at h
  · rename_i heq; cases h; exact (pendAdd_mem _ _ _ _ _ heq).trans rfl
  · cases h

/-- Tidal stores that go home as pending sectors change no published byte (R119, R122). -/
theorem tidalSend_mem {s s' : State} {core : Nat} {f : TidalSector → Bool} (h : tidalSend s core f = .ok s') :
    s'.mem = s.mem := by
  have go : ∀ (ts : List TidalSector) (s : State), ts.foldlM (fun s t => tidalHome s core t) s = .ok s' → s'.mem = s.mem := by
    intro ts
    induction ts with
    | nil => intro s h; cases h; rfl
    | cons t ts ih =>
      intro s h
      rw [List.foldlM_cons] at h
      cases e : tidalHome s core t with
      | error x => rw [e] at h; cases h
      | ok s1 => rw [e] at h; exact (ih s1 h).trans (tidalHome_mem e)
  exact go _ s h

/-- A sector that enters a core's L1 changes no published byte: what its victim owes is posted (R86). -/
theorem l1Enter_mem {s s' : State} {core x : Nat} {v : L1Sector} (h : l1Enter s core x v = .ok s') : s'.mem = s.mem := by
  unfold l1Enter at h
  dsimp only at h
  split at h
  · cases h; rfl
  · split at h
    · cases h; rfl
    · exact (tidalSend_mem h).trans rfl

/-! ## Lines of L2 -/

theorem dropLineCopies_mem (s : State) (line : Nat) : (dropLineCopies s line).mem = s.mem := by
  have go : ∀ (is : List Nat) (s : State), (is.foldl (fun s i => dropCopies s none (line * 4 + i)) s).mem = s.mem := by
    intro is
    induction is with
    | nil => intro s; rfl
    | cons i is ih => intro s; exact ih _
  exact go _ s

@[simp] theorem l2Remove_mem (s : State) (line : Nat) : (l2Remove s line).mem = s.mem := dropLineCopies_mem _ _

/-- A line wanted in L2 changes no published byte (R89). -/
theorem l2Touch_mem {s s' : State} {line : Nat} {tg d : Bool} (h : l2Touch s line tg d = some s') : s'.mem = s.mem := by
  unfold l2Touch at h
  dsimp only at h
  split at h
  · cases h; rfl
  · split at h
    · cases h
    · rename_i v _
      obtain rfl := Option.some.inj h
      cases v with
      | none => rfl
      | some y => exact l2Remove_mem s y

@[simp] theorem l2Refresh_mem (s : State) (line : Nat) : (l2Refresh s line).mem = s.mem := by
  unfold l2Refresh
  split
  · cases h : l2Touch s line false false with
    | none => rfl
    | some s1 => exact l2Touch_mem h
  · rfl

/-! ## Stores at the home -/

@[simp] theorem notifySector_mem (s : State) (x : Nat) : (notifySector s x).mem = s.mem := rfl

@[simp] theorem dirtySlot_mem (s : State) (a : Nat) : (dirtySlot s a).mem = s.mem := by
  unfold dirtySlot; split
  · rfl
  · split <;> rfl

@[simp] theorem clearMarks_mem (s : State) (sector mask : Nat) : (clearMarks s sector mask).mem = s.mem := by
  unfold clearMarks; dsimp only
  split
  · rfl
  · split <;> rfl

theorem foldl_clearMarks_mem (xs : SMap Nat) : ∀ s : State, (xs.foldl (fun s x => clearMarks s x.1 x.2) s).mem = s.mem := by
  induction xs with
  | nil => intro s; rfl
  | cons x xs ih => intro s; rw [List.foldl_cons, ih, clearMarks_mem]

@[simp] theorem clearCovered_mem (s : State) (cid : Nat) (req : ReqType) (ps : List Part) :
    (clearCovered s cid req ps).mem = s.mem := by
  unfold clearCovered
  split
  · rfl
  · exact foldl_clearMarks_mem _ _

/-- A store at a home writes its masked bytes and no other (R91, R111). -/
@[simp] theorem storeHome_mem (s : State) (sector mask : Nat) (bytes : List Byte) :
    (storeHome s sector mask bytes).mem = s.mem.writeMask (sector * 64) mask bytes := by
  unfold storeHome; dsimp only
  rw [notifySector_mem, clearMarks_mem]
  split
  · rfl
  · rw [dirtySlot_mem]

theorem storeHome_wf {s : State} (h : s.mem.wf = true) (sector mask : Nat) (bytes : List Byte) :
    (storeHome s sector mask bytes).mem.wf = true := by rw [storeHome_mem]; exact Memory.wf_writeMask h _ _ _

/-- A posted request writes its masked bytes and no other, or, of a row that has become promotion slots, none (R56, R91). -/
theorem performWriteBack_mem {s s' : State} {r : HomeReq} (h : performWriteBack s r = some s') :
    s'.mem = s.mem ∨ s'.mem = s.mem.writeMask (r.sector * 64) r.mask r.bytes := by
  unfold performWriteBack at h
  split at h
  · cases h; exact .inl rfl
  · split at h
    · split at h
      · cases h
      · cases h; exact .inr (by rw [storeHome_mem, l2Refresh_mem]; rfl)
    · cases e : l2Touch (dropCopies s (some r.core) r.sector) (r.sector / 4) true true with
      | none => rw [e] at h; cases h
      | some s1 => rw [e] at h; cases h; exact .inr (by rw [storeHome_mem, l2Touch_mem e]; rfl)

theorem performWriteBack_wf {s s' : State} {r : HomeReq} (h : s.mem.wf = true) (e : performWriteBack s r = some s') :
    s'.mem.wf = true := by
  rcases performWriteBack_mem e with e | e <;> rw [e]
  · exact h
  · exact Memory.wf_writeMask h _ _ _

theorem serveEach_wf (rs : List HomeReq) {s : State} (h : s.mem.wf = true) : (serveEach s rs).mem.wf = true := by
  induction rs generalizing s with
  | nil => exact h
  | cons r rs ih =>
    unfold serveEach
    split
    · rename_i s1 e; exact ih (performWriteBack_wf (s := { s with homeq := s.homeq.erase r }) h e)
    · exact h

theorem serveHome_wf {s : State} (h : s.mem.wf = true) (x : Nat) : (serveHome s x).mem.wf = true := serveEach_wf _ h

/-- With nothing posted a home has nothing to serve. -/
theorem serveHome_none {s : State} {x : Nat} (h : s.homeq = []) : serveHome s x = s := by
  unfold serveHome; rw [h]; rfl

theorem homeWaits_none {s : State} {x : Nat} (h : s.homeq = []) : homeWaits s x = false := by unfold homeWaits; rw [h]; rfl

theorem flushV_wf {s : State} (h : s.mem.wf = true) (core x : Nat) : (flushV s core x).mem.wf = true := by
  unfold flushV; dsimp only; split
  · exact serveEach_wf _ h
  · exact h

theorem dropV_wf {s : State} (h : s.mem.wf = true) (core : Nat) : (dropV s core).mem.wf = true := by
  have : ∀ (xs : List Nat) (s : State), s.mem.wf = true → (xs.foldl (fun s sec =>
      modSector (flushV s core sec) sec fun k x => if k = core then {} else x) s).mem.wf = true := by
    intro xs
    induction xs with
    | nil => intro s h; exact h
    | cons x xs ih => intro s h; exact ih _ (flushV_wf h core x)
  exact this _ s h

/-! ## Reads through codes -/

theorem codeOutcome_mem (s : State) (key n : Nat) (count : State → Bool → State)
    (hc : ∀ t b, (count t b).mem = t.mem) : (codeOutcome s key n count).2.2.mem = s.mem := by
  unfold codeOutcome
  split
  · exact hc _ _
  · split
    · rfl
    · dsimp only
      split
      · exact hc _ _
      · split
        · exact hc _ _
        · split
          · exact hc _ _
          · rfl

theorem readCode_wf {s : State} (h : s.mem.wf = true) (key n base : Nat) (count : State → Bool → State)
    (hc : ∀ t b, (count t b).mem = t.mem) : (readCode s key n base count).2.mem.wf = true := by
  have e := codeOutcome_mem s key n count hc
  unfold readCode
  split
  · rename_i heq; rw [heq] at e; exact (by rw [show _ = s.mem from e]; exact h)
  · rename_i heq; rw [heq] at e; exact Memory.wf_writeN (by rw [show _ = s.mem from e]; exact h) _ _

/-- A word without an error or a poison mark is read as it is (R399, R400). -/
theorem readCode_clean {s : State} {key : Nat} (n base : Nat) (count : State → Bool → State) (hp : s.poison.contains key = false)
    (hu : SMap.find? s.upsets key = none) : readCode s key n base count = (false, s) := by
  unfold readCode codeOutcome; rw [hp, hu]; rfl

@[simp] theorem countBank_mem (s : State) (bk o : Nat) : (countBank s bk o).mem = s.mem := rfl

theorem readSector_wf {s : State} (h : s.mem.wf = true) (x : Nat) : (readSector s x).2.mem.wf = true :=
  readCode_wf h _ _ _ _ fun _ _ => rfl

theorem readSector_clean {s : State} (hp : s.poison = []) (hu : s.upsets = []) (x : Nat) : readSector s x = (false, s) := by
  unfold readSector; dsimp only; exact readCode_clean _ _ _ (by rw [hp]; rfl) (by rw [hu]; rfl)

theorem readVault_wf {s : State} (h : s.mem.wf = true) (a n : Nat) : (readVault s a n).2.mem.wf = true := by
  have : ∀ (ws : List Nat) (p : Option Nat × State), p.2.mem.wf = true → (ws.foldl (fun (bad, s) w =>
      let (b, s1) := readCode s (2 ^ 48 + w) 8 (w * 8) fun s ok => if ok then countDie s (vaultNo a / 160) 0x10 1 else s
      (bad <|> if b then some (w * 8 - a) else none, s1)) p).2.mem.wf = true := by
    intro ws
    induction ws with
    | nil => intro p h; exact h
    | cons w ws ih =>
      intro p h
      exact ih _ (readCode_wf h _ _ _ _ (fun t b => by cases b <;> rfl))
  exact this _ (none, s) h

theorem readVault_clean {s : State} (hp : s.poison = []) (hu : s.upsets = []) (a n : Nat) : readVault s a n = (none, s) := by
  have : ∀ (ws : List Nat), (ws.foldl (fun (bad, s) w =>
      let (b, s1) := readCode s (2 ^ 48 + w) 8 (w * 8) fun s ok => if ok then countDie s (vaultNo a / 160) 0x10 1 else s
      (bad <|> if b then some (w * 8 - a) else none, s1)) (none, s)) = (none, s) := by
    intro ws
    induction ws with
    | nil => rfl
    | cons w ws ih =>
      rw [List.foldl_cons]
      dsimp only
      rw [readCode_clean _ _ _ (by rw [hp]; rfl) (by rw [hu]; rfl)]
      exact ih
  exact this _

/-- A read of words without an error or a poison mark changes nothing (R399, R400). -/
theorem readProtected_clean {s : State} (hp : s.poison = []) (hu : s.upsets = []) (a n : Nat) :
    readProtected s a n = (none, s) := by
  unfold readProtected
  split
  · exact readVault_clean hp hu a n
  · rw [readSector_clean hp hu]; rfl

theorem readProtected_wf {s : State} (h : s.mem.wf = true) (a n : Nat) : (readProtected s a n).2.mem.wf = true := by
  unfold readProtected
  split
  · exact readVault_wf h a n
  · exact readSector_wf h _

end Sys2Proof.Machine
end

