-- ==== Sys2Proof/Tests/Slice0.lean ====
section
/-! SUPPORT. Tests: decoding of written-out words, witnesses for the statements, well-formedness, single steps. -/

namespace Sys2Proof.Tests
open Sys2Proof Sys2Proof.Machine Sys2Proof.Claims

set_option maxRecDepth 100000
set_option Elab.async false
/-! ## Decoding

Each table gives, for the instructions of one family, the word of an instruction laid out field by field from the
opcode map (R212), the slot layout (R208) and the instruction's own table, beside the instruction it stands for. -/

/-- A slot whose fields hold the given values, by the slot layout of chapter 09; every field not named is zero. -/
def w (major minor : Nat) (la ty dst s1 s2 s3 mask z rnd fzi fzo ext imm : Nat := 0) : Nat :=
  major * 2 ^ 88 + minor * 2 ^ 80 + la * 2 ^ 76 + ty * 2 ^ 72 + dst * 2 ^ 66 + s1 * 2 ^ 60 + s2 * 2 ^ 54 + s3 * 2 ^ 48 +
    mask * 2 ^ 45 + z * 2 ^ 44 + rnd * 2 ^ 41 + fzi * 2 ^ 40 + fzo * 2 ^ 39 + ext * 2 ^ 32 + imm

/-- Majors 0x01 and 0x02 (R218, R219). -/
def scalarWords : List (Nat × Instr) :=
  [(w 0x01 0x01 (dst := 3) (s1 := 1) (s2 := 2), .add 3 1 2 false),
   (w 0x01 0x02 (dst := 3) (s1 := 1) (s2 := 2) (ext := 1), .sub 3 1 2 true),
   (w 0x01 0x03 (dst := 63) (s1 := 32) (s2 := 31), .mul 63 32 31 false),
   (w 0x01 0x04 (dst := 3) (s1 := 1) (s2 := 2), .mulh 3 1 2),
   (w 0x01 0x05 (dst := 3) (s1 := 1) (s2 := 2), .mulhu 3 1 2),
   (w 0x01 0x06 (la := 15) (dst := 3) (s1 := 1) (s2 := 2), .div 15 3 1 2),
   (w 0x01 0x07 (la := 3) (dst := 10) (s1 := 11) (s2 := 12), .divu 3 10 11 12),
   (w 0x01 0x08 (la := 1) (dst := 3) (s1 := 1) (s2 := 2), .rem 1 3 1 2),
   (w 0x01 0x09 (la := 2) (dst := 3) (s1 := 1) (s2 := 2), .remu 2 3 1 2),
   (w 0x01 0x0A (dst := 3) (s1 := 1) (s2 := 2), .andR 3 1 2),
   (w 0x01 0x0B (dst := 3) (s1 := 1) (s2 := 2), .orR 3 1 2),
   (w 0x01 0x0C (dst := 3) (s1 := 1) (s2 := 2), .xorR 3 1 2),
   (w 0x01 0x0D (dst := 3) (s1 := 1) (s2 := 2), .andn 3 1 2),
   (w 0x01 0x0E (dst := 3) (s1 := 1) (s2 := 2), .shl 3 1 2),
   (w 0x01 0x0F (dst := 3) (s1 := 1) (s2 := 2), .shr 3 1 2),
   (w 0x01 0x10 (dst := 3) (s1 := 1) (s2 := 2), .sar 3 1 2),
   (w 0x01 0x11 (dst := 3) (s1 := 1) (s2 := 2), .rot 3 1 2),
   (w 0x01 0x12 (dst := 3) (s1 := 1) (s2 := 2), .minS 3 1 2),
   (w 0x01 0x13 (dst := 3) (s1 := 1) (s2 := 2), .maxS 3 1 2),
   (w 0x01 0x14 (dst := 3) (s1 := 1) (s2 := 2), .minu 3 1 2),
   (w 0x01 0x15 (dst := 3) (s1 := 1) (s2 := 2), .maxu 3 1 2),
   (w 0x01 0x16 (dst := 3) (s1 := 1) (s2 := 2), .seq 3 1 2),
   (w 0x01 0x17 (dst := 3) (s1 := 1) (s2 := 2), .slt 3 1 2),
   (w 0x01 0x18 (dst := 3) (s1 := 1) (s2 := 2), .sltu 3 1 2)]

def immediateWords : List (Nat × Instr) :=
  [(w 0x02 0x01 (dst := 63) (s1 := 63) (imm := 0xFFFFFFC0), .addi 63 63 0xFFFFFFC0),
   (w 0x02 0x02 (dst := 5) (s1 := 6) (imm := 7), .subImm 5 6 7),
   (w 0x02 0x03 (dst := 5) (s1 := 6) (imm := 7), .mulImm 5 6 7),
   (w 0x02 0x04 (dst := 5) (s1 := 6) (imm := 7), .mulhImm 5 6 7),
   (w 0x02 0x05 (dst := 5) (s1 := 6) (imm := 7), .mulhuImm 5 6 7),
   (w 0x02 0x06 (la := 4) (dst := 5) (s1 := 6) (imm := 7), .divImm 4 5 6 7),
   (w 0x02 0x07 (la := 4) (dst := 5) (s1 := 6) (imm := 7), .divuImm 4 5 6 7),
   (w 0x02 0x08 (la := 4) (dst := 5) (s1 := 6) (imm := 7), .remImm 4 5 6 7),
   (w 0x02 0x09 (la := 4) (dst := 5) (s1 := 6) (imm := 7), .remuImm 4 5 6 7),
   (w 0x02 0x0A (dst := 5) (s1 := 6) (imm := 7), .andImm 5 6 7),
   (w 0x02 0x0B (dst := 5) (s1 := 6) (imm := 7), .orImm 5 6 7),
   (w 0x02 0x0C (dst := 44) (s1 := 44) (imm := 1), .xorImm 44 44 1),
   (w 0x02 0x0D (dst := 5) (s1 := 6) (imm := 7), .andnImm 5 6 7),
   (w 0x02 0x0E (dst := 9) (s1 := 8) (imm := 32), .shlImm 9 8 32),
   (w 0x02 0x0F (dst := 5) (s1 := 6) (imm := 3), .shrImm 5 6 3),
   (w 0x02 0x10 (dst := 5) (s1 := 6) (imm := 63), .sarImm 5 6 63),
   (w 0x02 0x11 (dst := 5) (s1 := 6) (imm := 3), .rotImm 5 6 3),
   (w 0x02 0x12 (dst := 5) (s1 := 6) (imm := 7), .minImm 5 6 7),
   (w 0x02 0x13 (dst := 5) (s1 := 6) (imm := 7), .maxImm 5 6 7),
   (w 0x02 0x14 (dst := 5) (s1 := 6) (imm := 7), .minuImm 5 6 7),
   (w 0x02 0x15 (dst := 5) (s1 := 6) (imm := 7), .maxuImm 5 6 7),
   (w 0x02 0x16 (dst := 5) (s1 := 6) (imm := 7), .seqImm 5 6 7),
   (w 0x02 0x17 (dst := 5) (s1 := 6) (imm := 7), .sltImm 5 6 7),
   (w 0x02 0x18 (dst := 5) (s1 := 6) (imm := 7), .sltuImm 5 6 7)]

/-- Majors 0x03, 0x04 and 0x08 (R220 to R224). -/
def shapeWords : List (Nat × Instr) :=
  [(w 0x03 0x01 (dst := 1) (s1 := 2) (s2 := 3) (s3 := 4) (ext := 1), .mad 1 2 3 4 true),
   (w 0x03 0x02 (dst := 1) (s1 := 2), .clz 1 2),
   (w 0x03 0x03 (dst := 1) (s1 := 2), .popc 1 2),
   (w 0x03 0x04 (dst := 1) (s1 := 2), .brev 1 2),
   (w 0x03 0x05 (dst := 1) (s1 := 2) (imm := 63 + 64 * 256), .exts 1 2 63 64),
   (w 0x03 0x06 (dst := 2) (s1 := 3) (imm := 0x0C08), .extu 2 3 8 12),
   (w 0x03 0x07 (dst := 1) (s1 := 2) (imm := 5 + 9 * 256), .ins 1 2 5 9),
   (w 0x03 0x08 (dst := 4) (s1 := 5) (s2 := 6) (s3 := 7), .sel 4 5 6 7),
   (w 0x04 0x01 (dst := 14) (imm := 0xF0000000), .li 14 0xF0000000),
   (w 0x04 0x02 (dst := 9) (imm := 0x12345678), .lih 9 0x12345678),
   (w 0x04 0x03 (dst := 9) (imm := 64), .addr 9 64)]

def floatWords : List (Nat × Instr) :=
  [(w 0x08 0x01 (ty := 9) (dst := 1) (s1 := 2) (s2 := 3) (rnd := 1), .fadd 1 2 3 .bf16 .rtz false false),
   (w 0x08 0x02 (ty := 10) (dst := 1) (s1 := 2) (s2 := 3) (rnd := 5), .fsub 1 2 3 .fp16 .dyn false false),
   (w 0x08 0x03 (ty := 11) (dst := 1) (s1 := 2) (s2 := 3) (rnd := 3), .fmul 1 2 3 .fp32 .rdn false false),
   (w 0x08 0x04 (ty := 11) (dst := 1) (s1 := 2) (s2 := 3) (s3 := 4) (rnd := 2), .ffma 1 2 3 4 .fp32 .rup false false),
   (w 0x08 0x05 (ty := 11) (dst := 1) (s1 := 2) (s2 := 3) (fzi := 1), .fmin 1 2 3 .fp32 .rne true false),
   (w 0x08 0x06 (ty := 11) (dst := 1) (s1 := 2) (s2 := 3) (fzo := 1), .fmax 1 2 3 .fp32 .rne false true),
   (w 0x08 0x07 (ty := 10) (dst := 3) (s1 := 1) (s2 := 2) (ext := 1 * 4), .fcmp 3 1 2 .fp16 .lt false false),
   (w 0x08 0x08 (ty := 8) (dst := 7) (s1 := 8) (ext := 11 * 4 + 2), .fcvt 7 8 .e4m3 .fp32 .rne false false false true)]

/-- Majors 0x20 to 0x22 (R225 to R229). -/
def branchWords : List (Nat × Instr) :=
  [(w 0x20 0x01 (imm := 0xFFFFFFFB), .br 0xFFFFFFFB),
   (w 0x20 0x02 (s1 := 1) (s2 := 2) (imm := 8), .beq 1 2 8),
   (w 0x20 0x03 (s1 := 12) (s2 := 22) (imm := 8), .bne 12 22 8),
   (w 0x20 0x04 (s1 := 1) (s2 := 2) (imm := 0xFFFFFFF3), .blt 1 2 0xFFFFFFF3),
   (w 0x20 0x05 (s1 := 1) (s2 := 2) (imm := 8), .bge 1 2 8),
   (w 0x20 0x06 (s1 := 1) (s2 := 2) (imm := 8), .bltu 1 2 8),
   (w 0x20 0x07 (s1 := 1) (s2 := 2) (imm := 8), .bgeu 1 2 8),
   (w 0x20 0x08 (s1 := 19) (imm := 12), .bz 19 12),
   (w 0x20 0x09 (s1 := 17) (imm := 2), .bnz 17 2),
   (w 0x21 0x01 (dst := 62) (s1 := 9), .jmp 62 9),
   (w 0x21 0x02 (dst := 62) (imm := 3 * 8), .call 62 24),
   (w 0x21 0x03 (s1 := 62), .ret 62),
   (w 0x22 0x01 (s1 := 5) (imm := 0xFFFFFFF9), .loop 5 0xFFFFFFF9),
   (w 0x22 0x02 (imm := 256), .align 256),
   (w 0x22 0x03 (s1 := 6) (imm := 1 + 8 + 16 + 128 + 1 * 2 ^ 8 + 512 * 2 ^ 16), .rep 6 0x02000199),
   (w 0x22 0x04, .nop),
   (w 0x22 0x05, .retire)]

/-- Majors 0x30 to 0x34 and 0x3A (R61, R242 to R249). -/
def memoryWords : List (Nat × Instr) :=
  [(w 0x30 0x01 (la := 2) (ty := 7) (dst := 7) (s1 := 4) (rnd := 1) (ext := 3 + 2 * 4) (imm := 16), .ld 2 .u32 7 4 16 .unc .gang .acq),
   (w 0x30 0x02 (ty := 13) (s1 := 4) (s2 := 9) (rnd := 2) (ext := 1 + 4 * 4) (imm := 8), .st .u64 4 9 8 .wt .pkg .rel),
   (w 0x31 0x01 (la := 1) (ty := 7) (dst := 2) (s1 := 12) (mask := 3) (z := 1), .ldv 1 .u32 2 12 0 3 true .own),
   (w 0x31 0x02 (ty := 11) (s1 := 17) (s2 := 8) (ext := 2), .stv .fp32 17 8 0 0 .sinv),
   (w 0x31 0x03 (ty := 9) (dst := 3) (s1 := 4) (s3 := 5) (mask := 1) (z := 1) (imm := 64), .ldvs 0 .bf16 3 4 5 64 1 true .own),
   (w 0x31 0x04 (ty := 11) (s1 := 4) (s2 := 1) (s3 := 5) (mask := 2), .stvs .fp32 4 1 5 0 2 .own),
   (w 0x32 0x01 (la := 4) (ty := 11) (dst := 6) (s1 := 10) (s2 := 7) (s3 := 11), .gath 4 .fp32 6 10 7 11 0 0 false .own),
   (w 0x32 0x02 (ty := 6) (dst := 11) (s1 := 10) (s2 := 7) (s3 := 6) (mask := 1) (ext := 1), .scat .s32 10 7 6 11 0 1 .wt),
   (w 0x32 0x02 (ty := 11) (dst := 11) (s1 := 10) (s2 := 7) (s3 := 6) (rnd := 5) (fzi := 1) (ext := 32 + 3 * 4),
     .scatAcc .fp32 10 7 6 11 0 0 .own .die .dyn true false),
   (w 0x33 0x01 (la := 1) (ty := 11) (dst := 6) (s1 := 10) (mask := 7), .ldt 1 .fp32 6 10 0 7 false),
   (w 0x33 0x02 (ty := 11) (s1 := 10) (s2 := 6) (imm := 0xFFFFFE00), .stt .fp32 10 6 0xFFFFFE00 0),
   (w 0x33 0x03 (s1 := 43) (s2 := 37) (ext := 1 * 32) (imm := 3), .tdecl 43 37 1 3),
   (w 0x33 0x04 (dst := 2) (s1 := 40) (imm := 127), .tstateRead 2 40 127),
   (w 0x33 0x04 (dst := 2) (s1 := 40) (s2 := 5) (ext := 1 * 32) (imm := 3), .tstateArm 2 40 5 3),
   (w 0x33 0x04 (dst := 2) (s1 := 40) (ext := 2 * 32) (imm := 3), .tstateReady 2 40 3),
   (w 0x33 0x04 (dst := 2) (s1 := 40) (ext := 3 * 32) (imm := 3), .tstateEmpty 2 40 3),
   (w 0x33 0x05 (s1 := 40) (imm := 2), .tfree 40 2),
   (w 0x34 0x01 (s1 := 4) (s2 := 5) (imm := 64), .cinv 4 5 64),
   (w 0x34 0x01 (s1 := 4) (s2 := 5) (ext := 32), .cinvI 4 5 0),
   (w 0x34 0x02 (s1 := 4) (s2 := 5), .cflush 4 5 0),
   (w 0x3A 0x01 (la := 3) (dst := 9) (s1 := 4) (imm := 0x400), .promote 3 9 4 0x400),
   (w 0x3A 0x02 (dst := 9) (s1 := 4), .shpin 0 9 4 0),
   (w 0x3A 0x03 (dst := 2) (s1 := 6) (ext := 1), .shunpin 0 2 6 true 0),
   (w 0x3A 0x04 (s1 := 4) (s2 := 3) (imm := 512), .bcastw 0 4 3 512)]

/-- Majors 0x40 to 0x43 (R250 to R258). -/
def atomicWords : List (Nat × Instr) :=
  [(w 0x40 0x01 (la := 1) (ty := 12) (dst := 1) (s1 := 2) (s2 := 3) (rnd := 4) (ext := 1 + 5 * 4) (imm := 8),
     .amoAdd 1 .s64 1 2 3 8 .wt .sys .sc),
   (w 0x40 0x02 (ty := 6) (dst := 1) (s1 := 2) (s2 := 3), .amoMin 0 .s32 1 2 3 0 .own .thr .rlx),
   (w 0x40 0x03 (ty := 7) (dst := 1) (s1 := 2) (s2 := 3), .amoMax 0 .u32 1 2 3 0 .own .thr .rlx),
   (w 0x40 0x04 (ty := 13) (dst := 1) (s1 := 2) (s2 := 3) (ext := 3), .amoAnd 0 .u64 1 2 3 0 .unc .thr .rlx),
   (w 0x40 0x05 (ty := 13) (s1 := 10) (s2 := 6) (ext := 3 * 4), .amoOr 0 .u64 0 10 6 0 .own .die .rlx),
   (w 0x40 0x06 (ty := 12) (dst := 1) (s1 := 2) (s2 := 3) (rnd := 1), .amoXor 0 .s64 1 2 3 0 .own .thr .acq),
   (w 0x40 0x07 (ty := 12) (dst := 1) (s1 := 2) (s2 := 3) (rnd := 2), .amoSwap 0 .s64 1 2 3 0 .own .thr .rel),
   (w 0x40 0x08 (ty := 12) (dst := 1) (s1 := 2) (s2 := 3) (s3 := 4) (rnd := 3) (ext := 1 * 4), .cas 0 .s64 1 2 3 4 0 .own .core .ar),
   (w 0x40 0x09 (ty := 11) (s1 := 11) (s2 := 16) (ext := 32 + 4 * 4), .amaxf 0 .fp32 0 11 16 0 .own .pkg .rlx true),
   (w 0x41 0x01 (rnd := 2) (ext := 3 * 4), .fence .die .rel),
   (w 0x41 0x02 (ext := 2 * 4) (imm := 4), .publ .gang 4),
   (w 0x41 0x03 (imm := 1), .tide 1),
   (w 0x42 0x01 (s1 := 10) (s2 := 5), .bari 10 5 0 .own .thr),
   (w 0x42 0x02 (dst := 17) (s1 := 10) (s2 := 16) (ext := 3 * 4), .bara 17 10 16 0 .own .die),
   (w 0x42 0x03 (dst := 19) (s1 := 10) (s2 := 18) (ext := 3 * 4), .barw 19 10 18 0 .own .die),
   (w 0x42 0x04 (dst := 18) (s1 := 12) (s2 := 17) (ext := 4 * 4) (imm := 16), .wbar 18 12 17 16 .own .pkg),
   (w 0x43 0x01 (s1 := 4) (s2 := 5) (ext := 5 * 4) (imm := 8), .cmpl 4 5 8 .sys),
   (w 0x43 0x02 (dst := 1) (s1 := 4) (s2 := 5) (s3 := 6) (rnd := 1) (ext := 2 * 32 + 3 * 4 + 1) (imm := 8),
     .waitw 1 4 5 6 8 .wt .die .acq .geu)]

/-- Majors 0x50 and 0x51 (R272 to R275). -/
def vectorWords : List (Nat × Instr) :=
  [(w 0x50 0x01 (ty := 2) (dst := 4) (s1 := 5) (s2 := 6) (mask := 3) (ext := 1), .vadd .s8 4 5 6 3 false .rne false false true),
   (w 0x50 0x02 (ty := 0) (dst := 4) (s1 := 5) (s2 := 6), .vsub .s4 4 5 6 0 false .rne false false false),
   (w 0x50 0x03 (ty := 11) (dst := 4) (s1 := 5) (s2 := 31) (rnd := 2), .vmul .fp32 4 5 31 0 false .rup false false false),
   (w 0x50 0x04 (ty := 11) (dst := 8) (s1 := 1) (s2 := 2) (s3 := 3) (mask := 2) (z := 1) (rnd := 4) (fzo := 1),
     .vfma .fp32 8 1 2 3 2 true .rna false true false),
   (w 0x50 0x05 (ty := 9) (dst := 4) (s1 := 5) (s2 := 6) (fzi := 1), .vmin .bf16 4 5 6 0 false .rne true false false),
   (w 0x50 0x06 (ty := 11) (dst := 8) (s1 := 8) (s2 := 21), .vmax .fp32 8 8 21 0 false .rne false false false),
   (w 0x50 0x07 (ty := 5) (dst := 4) (s1 := 5), .vabs .u16 4 5 0 false .rne false false false),
   (w 0x50 0x08 (ty := 11) (dst := 21) (s1 := 20), .vneg .fp32 21 20 0 false .rne false false false),
   (w 0x51 0x01 (ty := 8) (dst := 4) (s1 := 5) (s2 := 6), .vand .e4m3 4 5 6 0 false),
   (w 0x51 0x02 (ty := 7) (dst := 4) (s1 := 5) (s2 := 6) (mask := 1) (z := 1), .vor .u32 4 5 6 1 true),
   (w 0x51 0x03 (ty := 7) (dst := 4) (s1 := 5) (s2 := 6), .vxor .u32 4 5 6 0 false),
   (w 0x51 0x04 (ty := 4) (dst := 1) (s1 := 2) (ext := 32) (imm := 3), .vshl .s16 1 2 0 0 false true 3),
   (w 0x51 0x05 (ty := 4) (dst := 1) (s1 := 2) (s2 := 3), .vshr .s16 1 2 3 0 false false 0),
   (w 0x51 0x06 (ty := 6) (dst := 1) (s1 := 2) (ext := 32) (imm := 31), .vsar .s32 1 2 0 0 false true 31)]

/-- Majors 0x52 and 0x53 (R276 to R280). -/
def moveWords : List (Nat × Instr) :=
  [(w 0x52 0x01 (ty := 11) (dst := 1) (s1 := 2) (s2 := 3) (ext := 1 * 4), .vcmp .fp32 1 2 3 .lt 0 false),
   (w 0x52 0x02 (ty := 8) (dst := 4) (s1 := 5) (s2 := 6) (s3 := 7) (mask := 1), .vsel .e4m3 4 5 6 7 1 false),
   (w 0x52 0x03 (ty := 6) (dst := 4) (s1 := 5) (mask := 2) (z := 1), .vmov .s32 4 5 2 true),
   (w 0x52 0x03 (dst := 7) (s1 := 5) (ext := 1 * 4), .vmovToMask 7 5),
   (w 0x52 0x03 (dst := 5) (s1 := 7) (ext := 2 * 4), .vmovFromMask 5 7),
   (w 0x52 0x04 (ty := 6) (dst := 63) (s1 := 5) (s2 := 9), .vmovsToScalar .s32 63 5 9),
   (w 0x52 0x04 (ty := 6) (dst := 5) (s1 := 63) (s2 := 9) (ext := 32), .vmovsToVector .s32 5 63 9),
   (w 0x52 0x05 (ty := 11) (dst := 20) (s1 := 7), .vbcast .fp32 20 7 0 false),
   (w 0x52 0x06 (ty := 6) (dst := 8) (s1 := 15), .viota .s32 8 15 0 false),
   (w 0x53 0x01 (ty := 8) (dst := 8) (s1 := 12) (ext := 11 * 4 + 2), .vcvt .e4m3 8 12 .fp32 0 false .rne false false false true),
   (w 0x53 0x02 (ty := 2) (dst := 4) (s1 := 1) (s2 := 2), .vwmul .s8 4 1 2 0 false .rne false false),
   (w 0x53 0x03 (ty := 9) (dst := 4) (s1 := 1) (s2 := 2) (rnd := 1), .vwadd .bf16 4 1 2 0 false .rtz false false),
   (w 0x53 0x04 (ty := 2) (dst := 4) (s1 := 6) (ext := 2 * 4 + 1) (imm := 8), .vnarrow .s8 4 6 8 2 0 false true)]

/-- Majors 0x54, 0x55 and 0x80 (R282 to R287). -/
def treeWords : List (Nat × Instr) :=
  [(w 0x54 0x01 (la := 3) (ty := 11) (dst := 9) (s1 := 1) (s2 := 2) (s3 := 10), .vdot 3 .fp32 9 1 2 10 .rne false false false),
   (w 0x54 0x02 (ty := 6) (dst := 9) (s1 := 1) (mask := 4) (ext := 5 * 4), .vred 0 .s32 9 1 5 4 .rne false false false),
   (w 0x54 0x03 (ty := 6) (dst := 9) (s1 := 1) (s2 := 3) (ext := 32 + 2 * 4), .vscan 0 .s32 9 1 3 2 0 false .rne false false false true),
   (w 0x55 0x01 (ty := 6) (dst := 4) (s1 := 5) (s2 := 6), .vperm .s32 4 5 6 0 false),
   (w 0x55 0x02 (ty := 6) (dst := 4) (s1 := 5) (s2 := 60), .vrot .s32 4 5 60 0 false),
   (w 0x55 0x03 (ty := 6) (dst := 4) (s1 := 5) (mask := 1) (z := 1), .vcompr .s32 4 5 1 true),
   (w 0x55 0x04 (ty := 6) (dst := 4) (s1 := 5) (mask := 1), .vexpand .s32 4 5 1 false),
   (w 0x80 0x01 (la := 1) (ty := 11) (dst := 2) (s1 := 1), .vexp2 1 .fp32 2 1 0 false false false),
   (w 0x80 0x02 (ty := 9) (dst := 2) (s1 := 1), .vexp 0 .bf16 2 1 0 false false false),
   (w 0x80 0x03 (ty := 10) (dst := 2) (s1 := 1) (fzi := 1), .vlog2 0 .fp16 2 1 0 false true false),
   (w 0x80 0x04 (ty := 11) (dst := 2) (s1 := 1) (fzo := 1), .vlog 0 .fp32 2 1 0 false false true),
   (w 0x80 0x05 (ty := 11) (dst := 2) (s1 := 1) (mask := 5), .vrcp 0 .fp32 2 1 5 false false false),
   (w 0x80 0x06 (ty := 11) (dst := 2) (s1 := 1) (mask := 5) (z := 1), .vrsq 0 .fp32 2 1 5 true false false),
   (w 0x80 0x07 (ty := 11) (dst := 2) (s1 := 1), .vsqrt 0 .fp32 2 1 0 false false false),
   (w 0x80 0x08 (ty := 11) (dst := 2) (s1 := 1), .vtanh 0 .fp32 2 1 0 false false false)]

/-- Major 0x90 (R309). -/
def matrixWords : List (Nat × Instr) :=
  [(w 0x90 0x01, .gang),
   (w 0x90 0x02 (ty := 11) (dst := 1) (s1 := 20), .mzero .fp32 1 20),
   (w 0x90 0x03 (ty := 8) (s1 := 6) (s2 := 12) (s3 := 13) (ext := 16), .mldb 0 .e4m3 6 12 13 0 true),
   (w 0x90 0x04 (ty := 8) (s1 := 4) (s2 := 2) (s3 := 5) (imm := 64), .mgath 0 .e4m3 4 2 5 0 64),
   (w 0x90 0x05 (la := 2) (ty := 11) (dst := 2) (s1 := 12) (ext := 6), .mma 2 .fp32 2 12 .rne false false false true 1),
   (w 0x90 0x06 (ty := 11) (s1 := 12) (s2 := 16) (rnd := 1) (fzi := 1) (fzo := 1) (ext := 8),
     .mmas 0 .fp32 0 12 16 .rtz true true false false 0 true),
   (w 0x90 0x07 (ty := 8) (dst := 16) (s1 := 6) (s2 := 7) (s3 := 8), .mcomp 0 .e4m3 16 6 7 8 false),
   (w 0x90 0x08 (ty := 11) (s1 := 3) (ext := 12), .mscale .fp32 3 1 true),
   (w 0x90 0x09 (ty := 9) (dst := 6) (s2 := 9) (s3 := 10) (ext := 3 * 16 + 8) (imm := 0xD),
     .mdrain 0 .bf16 6 9 10 .rne false false false true .die 1 3 0),
   (w 0x90 0x09 (ty := 11) (dst := 17) (s1 := 16) (s2 := 13) (ext := 3 * 16 + 4) (imm := 2),
     .mdrainVault 0 .fp32 17 16 13 0 .rne false false false false .die 2)]

/-- Majors 0xA0 to 0xA3 (R261 to R265). -/
def engineWords : List (Nat × Instr) :=
  [(w 0xA0 0x01 (dst := 2) (s1 := 6) (s2 := 7) (s3 := 8) (ext := 32 + 3 * 4 + 3), .copy 2 6 7 8 .unc .die true),
   (w 0xA0 0x02 (dst := 15) (s1 := 6) (s2 := 7) (s3 := 8), .copy2d 15 6 7 8 .own .thr false),
   (w 0xA1 0x01 (dst := 2) (s1 := 6) (s2 := 7) (s3 := 8) (ext := 32) (imm := 5), .put 2 6 7 8 .own .thr true 5),
   (w 0xA1 0x02 (dst := 2) (s1 := 6) (s2 := 7) (s3 := 8) (ext := 4 * 4) (imm := 0xFFFF), .get 2 6 7 8 .own .pkg 0xFFFF),
   (w 0xA1 0x03 (ty := 12) (dst := 2) (s1 := 6) (s2 := 7) (imm := 5), .radd .s64 2 6 7 ⟨.own, .thr⟩ 5),
   (w 0xA1 0x04 (dst := 2) (s1 := 6) (ext := 5 * 4 + 3), .trig 2 6 ⟨.unc, .sys⟩),
   (w 0xA2 0x01 (s2 := 9) (ext := 32 + 3 * 4) (imm := 255), .cnti 255 9 .die true),
   (w 0xA2 0x02 (dst := 9) (imm := 4), .cntr 9 4),
   (w 0xA3 0x01 (dst := 8) (s1 := 2), .htest 8 2),
   (w 0xA3 0x02 (s1 := 2), .hcancel 2),
   (w 0xA3 0x03 (dst := 3) (s1 := 2), .hwait 3 2),
   (w 0xA3 0x03 (dst := 3) (s1 := 62) (ext := 32), .hwaitToken 3 62),
   (w 0xA3 0x04 (dst := 2) (s1 := 15), .hmov 2 15),
   (w 0xA3 0x05 (dst := 63) (s1 := 2), .htok 63 2)]

/-- Majors 0xB0 and 0xC0 (R320, R348). -/
def rankWords : List (Nat × Instr) :=
  [(w 0xB0 0x01 (dst := 20) (s1 := 21), .rgrp 20 21),
   (w 0xB0 0x01 (dst := 9) (s1 := 20) (ext := 32), .rgrpFree 9 20),
   (w 0xB0 0x02 (dst := 22) (s1 := 20) (s2 := 23) (s3 := 24), .nload 22 20 23 24),
   (w 0xB0 0x03 (dst := 2) (s1 := 10) (s2 := 12) (s3 := 13), .redcfg 2 10 12 13),
   (w 0xB0 0x04 (dst := 1) (s1 := 10) (s2 := 11), .rstep 1 10 11),
   (w 0xB0 0x05 (dst := 5) (s1 := 10) (imm := 1), .rstat 5 10 1),
   (w 0xC0 0x01 (ty := 11) (dst := 4) (s1 := 9) (mask := 2), .sqins .fp32 4 9 2),
   (w 0xC0 0x02 (ty := 6) (dst := 4) (s1 := 9), .shins .s32 4 9 0),
   (w 0xC0 0x03 (ty := 7) (dst := 4) (s1 := 9) (mask := 7), .sdins .u32 4 9 7),
   (w 0xC0 0x04 (la := 2) (dst := 4) (s1 := 4) (s2 := 5) (ext := 1 * 4), .smerge 2 4 4 5 1),
   (w 0xC0 0x05 (la := 1) (dst := 7) (s1 := 4) (s2 := 8), .sqq 1 7 4 8),
   (w 0xC0 0x06 (dst := 7) (s1 := 4) (s2 := 40), .sqrank 0 7 4 40),
   (w 0xC0 0x07 (dst := 7) (s1 := 4) (s2 := 8), .shtop 7 4 8),
   (w 0xC0 0x08 (dst := 7) (s1 := 4), .sdest 7 4),
   (w 0xC0 0x09 (dst := 4) (s1 := 3) (ext := 32), .scoin 4 3 true)]

/-- Majors 0xD0 and 0xE0 (R230, R234, R235). -/
def systemWords : List (Nat × Instr) :=
  [(w 0xD0 0x01 (dst := 1) (s1 := 2), .gnode 1 2),
   (w 0xD0 0x02 (dst := 1) (s1 := 2) (s2 := 3), .gdep 1 2 3),
   (w 0xD0 0x03 (dst := 3) (s1 := 8), .gsub 3 8),
   (w 0xD0 0x04 (dst := 1) (imm := 640), .crew 1 640),
   (w 0xD0 0x05 (imm := 4000), .yield 4000),
   (w 0xE0 0x01 (dst := 5) (imm := 2), .rdc 5 2),
   (w 0xE0 0x02 (s1 := 9) (imm := 1), .wrc 1 9),
   (w 0xE0 0x03 (imm := 0x51), .trap 0x51),
   (w 0xE0 0x04 (dst := 5) (imm := 3), .pair 5 3),
   (w 0xE0 0x05 (dst := 5), .unpair 5),
   (w 0xE0 0x06 (dst := 5) (imm := 1000), .idle 5 1000),
   (w 0xE0 0x07 (dst := 1) (s1 := 2) (imm := 0x11), .svres 1 2 1 1)]


theorem test_decode_scalar : scalarWords.map (fun p => decodeTableWord 96 p.1) = scalarWords.map (fun p => some p.2) := by rfl
theorem test_decode_immediate : immediateWords.map (fun p => decodeTableWord 96 p.1) = immediateWords.map (fun p => some p.2) := by rfl
theorem test_decode_shape : shapeWords.map (fun p => decodeTableWord 96 p.1) = shapeWords.map (fun p => some p.2) := by rfl
theorem test_decode_float : floatWords.map (fun p => decodeTableWord 96 p.1) = floatWords.map (fun p => some p.2) := by rfl
theorem test_decode_branch : branchWords.map (fun p => decodeTableWord 96 p.1) = branchWords.map (fun p => some p.2) := by rfl
theorem test_decode_memory : memoryWords.map (fun p => decodeTableWord 96 p.1) = memoryWords.map (fun p => some p.2) := by rfl
theorem test_decode_atomic : atomicWords.map (fun p => decodeTableWord 96 p.1) = atomicWords.map (fun p => some p.2) := by rfl
theorem test_decode_vector : vectorWords.map (fun p => decodeTableWord 96 p.1) = vectorWords.map (fun p => some p.2) := by rfl
theorem test_decode_move : moveWords.map (fun p => decodeTableWord 96 p.1) = moveWords.map (fun p => some p.2) := by rfl
theorem test_decode_tree : treeWords.map (fun p => decodeTableWord 96 p.1) = treeWords.map (fun p => some p.2) := by rfl
theorem test_decode_matrix : matrixWords.map (fun p => decodeTableWord 96 p.1) = matrixWords.map (fun p => some p.2) := by rfl
theorem test_decode_engine : engineWords.map (fun p => decodeTableWord 96 p.1) = engineWords.map (fun p => some p.2) := by rfl
theorem test_decode_rank : rankWords.map (fun p => decodeTableWord 96 p.1) = rankWords.map (fun p => some p.2) := by rfl
theorem test_decode_system : systemWords.map (fun p => decodeTableWord 96 p.1) = systemWords.map (fun p => some p.2) := by rfl



/-! ## Witnesses

For every statement of Certificates/Slice0/Obligations.lean that has hypotheses, a theorem that gives operands and a state
meeting the hypotheses of each clause, at the ends of their ranges. -/

/-- A state after reset but for its current context, which is ready with these scalar registers. -/
def at_ (cid : Nat) (regs : List (SReg × Word)) : State :=
  ({ State.reset with cur := cid }).modCtx cid fun c =>
    regs.foldl (fun (c : Ctx) (p : SReg × Word) => c.setS p.1 p.2) { c with st := .ready }

/-- Context 0 of the first mesh core with the first byte of its own vault's window in s4. -/
def mesh : State := at_ 0 [(4, 0xFF0FF0000000#64)]
/-- Context 0 of the first supervisor core of D0, which does not translate. -/
def sup : State := at_ 0xF00 []

theorem quiet_mesh : Quiet mesh := by constructor <;> decide
theorem quiet_sup : Quiet sup := by constructor <;> decide

theorem witness_EncodingRoundTrip : (Instr.add 3 1 2 false).wf = true ∧ encode (.add 3 1 2 false) = some 0x0101000C1080000000000000#96 := by
  decide

theorem witness_DecodeEncodes :
    decodeSlot 0x0101000C1080000000000000#96 = .ok (.add 3 1 2 false) ∧
    ∀ m ∈ [0x00#8, 0x05#8, 0x35#8, 0xEF#8, 0xF0#8, 0xFF#8], m ∉ [0x01#8, 0x02#8, 0x03#8, 0x04#8, 0x08#8, 0x20#8, 0x21#8, 0x22#8,
      0x30#8, 0x31#8, 0x32#8, 0x33#8, 0x34#8, 0x3A#8, 0x40#8, 0x41#8, 0x42#8, 0x43#8, 0x50#8, 0x51#8, 0x52#8, 0x53#8, 0x54#8,
      0x55#8, 0x80#8, 0x90#8, 0xA0#8, 0xA1#8, 0xA2#8, 0xA3#8, 0xB0#8, 0xC0#8, 0xD0#8, 0xE0#8] := ⟨rfl, by decide⟩

/-- A supervisor context at the first slot of a held line of zeros but for a NOP, its turn next. -/
def held : State :=
  { (State.reset.withFetchWord 96 (w 0x22 0x04)).modCtx 0xF00 fun c =>
      { c with line := some { va := 0, pa := 0, bytes := oneSlotLine (w 0x22 0x04) }, entry := .seq } with cur := 0xF00 }

theorem witness_StepRunsDecoded : held.turns = [.issue 0xF00] ∧ validCtx 0xF00 = true ∧ dieRuns held (dieOf 0xF00) = true ∧
    (held.core (coreOf 0xF00)).frozen = false ∧ (held.core (coreOf 0xF00)).pair = none ∧ (held.ctx 0xF00).st = .ready ∧
    firstReady held (coreOf 0xF00) = some 0xF00 ∧ (held.ctx 0xF00).rep.body = [] ∧ (held.ctx 0xF00).windows = [] ∧
    (held.ctx 0xF00).upsets = [] ∧ (held.ctx 0xF00).passing = false ∧ (held.ctx 0xF00).round.toNat % 8 ≤ 4 ∧
    (held.ctx 0xF00).line = some { va := (held.ctx 0xF00).pc / 64 * 64, pa := 0, bytes := oneSlotLine (w 0x22 0x04) } ∧
    (held.ctx 0xF00).checked = false ∧ (held.ctx 0xF00).entry = .seq ∧ (held.ctx 0xF00).ev = 0 ∧ (held.ctx 0xF00).replayV = false ∧
    (held.core (coreOf 0xF00)).accUpsets = [] ∧ summaryBusy held (coreOf 0xF00) = false ∧
    slotInstr (slotBits (oneSlotLine (w 0x22 0x04)) ((held.ctx 0xF00).pc % 64 / 12)) = .ok .nop := by
  and_intros <;> first | rfl | decide

theorem witness_StepRunsDecoded_runs : ∃ u, Runs .nop (beginIssue { held with turns := [] } 0xF00) u := ⟨_, rfl⟩

theorem witness_StepHappens :
    let s := { held with pkg := { held.pkg with debugOpen := true } }
    let p := { held with pkg := { held.pkg with p3 := true } }
    let r := { sup with pkg := { sup.pkg with recovery := true } }
    eventHappens s .powerLoss = true ∧ eventHappens s .nop = false ∧ s.pkg.p3 = false ∧ s.pkg.recovery = false ∧
    s.pkg.firmware.isSome = true ∧ s.pkg.debugOpen = true ∧ eventHappens s (.debugUnpark 0) = true ∧
    held.pkg.debugOpen = false ∧ eventHappens held (.debugUnpark 0) = false ∧ eventHappens held (.registerWrite 0 8 0) = true ∧
    eventHappens sup (.registerWrite 0 8 0) = false ∧ p.pkg.p3 = true ∧ eventHappens p .packageLeaveP3 = true ∧
    eventHappens p (.dispatchTask 0) = false ∧ r.pkg.recovery = true ∧ eventHappens r (.dispatchTask 0) = false ∧
    eventHappens r .powerUpBoot = true := by decide

theorem witness_MemoryInvariant : Inv State.reset ∧ ∃ t, step { State.reset with turns := [.event .powerLoss] } = .next t :=
  ⟨by decide, ⟨_, rfl⟩⟩

theorem witness_ScalarOperations : BinOp.shl.isShift = true ∧ (63#32).toNat ≤ 63 ∧ 63 < (64#32).toNat ∧ BinOp.and.isShift = false := by
  decide

theorem witness_ScalarDivision : (0#4 : BitVec 4) = 0#4 ∧ (15#4 : BitVec 4) ≠ 0#4 := by decide

theorem witness_ScalarShapes : mesh.rs 0 = 0#64 ∧ mesh.rs 4 ≠ 0#64 ∧ (0#7 : BitVec 7) = 0#7 ∧ 64 < (63#6).toNat + (2#7).toNat ∧
    64 < (0#6).toNat + (65#7).toNat ∧ 0 < (1#7).toNat ∧ (63#6).toNat + (1#7).toNat ≤ 64 ∧ (0#6).toNat + (64#7).toNat ≤ 64 ∧
    mesh.me.passing = false := by decide

theorem witness_BranchTargets : (62#6 : SReg) ≠ 0#6 ∧ (0#6 : SReg) = 0#6 := by decide

theorem witness_LoopInstruction :
    let s := at_ 0 [(1, 1#64), (2, 2#64), (3, BitVec.ofNat 64 (2 ^ 64 - 1))]
    let x : BitVec 96 := 0x2201000050000000FFFFFFF9
    x.extractLsb' 80 16 = 0x2201#16 ∧ x.extractLsb' 66 14 = 0#14 ∧ x.extractLsb' 32 28 = 0#28 ∧
    (x ||| 1#96 <<< 66).extractLsb' 66 14 ≠ 0#14 ∧ (x ||| 1#96 <<< 32).extractLsb' 32 28 ≠ 0#28 ∧
    s.rs 1 - 1#64 = 0#64 ∧ s.rs 2 - 1#64 ≠ 0#64 ∧ s.rs 4 = 0#64 ∧ s.rs 4 - 1#64 ≠ 0#64 ∧
    s.rs 1 = BitVec.ofNat 64 1 ∧ s.rs 3 = BitVec.ofNat 64 (2 ^ 64 - 1) ∧ s.me.ev = 0 ∧ s.me.passing = false ∧
    (let l : List Byte := List.replicate 11 0#8 ++ [0x22#8] ++ List.replicate 49 0#8 ++ [1#8, 0#8, 0#8]
     let r : List Byte := List.replicate 59 0#8 ++ [0x22#8, 0#8, 8#8, 0#8, 0#8]
     bit (lineWord l) 8 = true ∧ slotMajor (slotBits l 0) = 0x22 ∧ bit (lineWord r) 11 = true ∧ slotMajor (slotBits r 4) = 0x22) := by
  decide

theorem witness_EndOfInstruction : mesh.me.ev = 0 ∧ mesh.me.passing = false := by decide


theorem witness_ScalarFloat : ElemType.fp16 ∈ ([.bf16, .fp16, .fp32] : List ElemType) ∧
    ElemType.e4m3 ∉ ([.bf16, .fp16, .fp32] : List ElemType) ∧ ElemType.e4m3 ∉ ([.s4, .u4] : List ElemType) ∧
    ElemType.u64 ∉ ([.s4, .u4] : List ElemType) ∧ ElemType.u4 ∈ ([.s4, .u4] : List ElemType) := by decide

theorem witness_RoundingExact : ElemType.fp32.isFloat = true ∧ 0x3F800000 < 2 ^ ElemType.fp32.width ∧
    fpValue (fmtOf .fp32) false 0x3F800000 = .fin false (2 ^ 23) (-23) ∧
    fpValue (fmtOf .e4m3) false 1 = .fin false 1 (-9) ∧ fpValue (fmtOf .e4m3) false 0x7E = .fin false 14 5 ∧
    (fpValue (fmtOf .bf16) false (fpAdd .bf16 {} 0x7F80 0xFF80).1).isNan = true ∧
    (fpValue (fmtOf .fp16) false 0x7C01).isSnan = true ∧ (fpFma .fp16 {} 0x3C00 0x3C00 0x7C01).2.testBit 0 = true := by decide

theorem witness_RoundingDirections : ElemType.e4m3.isFloat = true ∧
    (roundFin (fmtOf .e4m3) .rtz false false true 449 0).2.testBit 2 = false ∧
    (roundFin (fmtOf .bf16) .rdn false false true 3 (-200)).2.testBit 2 = false ∧
    (roundFin (fmtOf .fp32) .rup false false false 1 127).2.testBit 2 = false := by decide

/-- The types of major 0x50 and those that it refuses; the same split serves the logic, move, width and permute statements. -/
theorem witness_VectorArithmetic : (ElemType.u32.isFloat = false ∧ ElemType.u32 ≠ .s64 ∧ ElemType.u32 ≠ .u64) ∧
    ElemType.bf16 ∈ ([.bf16, .fp16, .fp32] : List ElemType) ∧ ElemType.e4m3 ∈ ([.e4m3, .s64, .u64] : List ElemType) := by decide

theorem witness_VectorLogicShifts : (ElemType.fp32 ≠ .s64 ∧ ElemType.fp32 ≠ .u64) ∧
    (ElemType.s4.isFloat = false ∧ ElemType.s4 ≠ .s64 ∧ ElemType.s4 ≠ .u64) ∧ ElemType.u64 ∈ ([.s64, .u64] : List ElemType) ∧
    ElemType.e4m3.isFloat = true := by decide

theorem witness_VectorMoves : (ElemType.s4 ≠ .s64 ∧ ElemType.s4 ≠ .u64) ∧ ElemType.fp32.isFloat = true ∧ Pred.ne ≠ .un ∧
    (ElemType.s8.isFloat = false ∧ Pred.un = .un) ∧ ElemType.s64 ∈ ([.s64, .u64] : List ElemType) ∧ ElemType.s4.isFloat = false := by
  decide

theorem witness_VectorWidths :
    (let n := max ElemType.fp32.count ElemType.e4m3.count
     (ElemType.fp32 ≠ .s64 ∧ ElemType.fp32 ≠ .u64) ∧ (ElemType.e4m3 ≠ .s64 ∧ ElemType.e4m3 ≠ .u64) ∧
     n * ElemType.fp32.width ≤ 4 * 4096 ∧ n * ElemType.e4m3.width ≤ 4 * 4096 ∧
     (28#5).toNat % (n * ElemType.fp32.width / 4096) = 0 ∧ (31#5).toNat % (n * ElemType.e4m3.width / 4096) = 0) ∧
    wideOf .fp16 = some .fp32 ∧ (30#5).toNat % 2 = 0 ∧ ElemType.s4.isFloat = false ∧ wideOf .s4 = some .s8 ∧
    (0#5).toNat < ElemType.s8.width ∧ (7#5).toNat < ElemType.s8.width ∧ (31#5).toNat % 2 = 1 ∧
    (let n := max ElemType.bf16.count ElemType.u4.count
     (1#5).toNat % (n * ElemType.bf16.width / 4096) ≠ 0 ∧ (0#5).toNat % (n * ElemType.bf16.width / 4096) = 0) ∧
    4 * 4096 < max ElemType.fp32.count ElemType.u4.count * ElemType.fp32.width := by decide

theorem witness_VectorReductions :
    let s := at_ 0 [(1, 128#64), (2, 129#64)]
    (ElemType.fp32 ≠ .s64 ∧ ElemType.fp32 ≠ .u64) ∧ (s.rs 0).toNat ≤ ElemType.fp32.count ∧ (s.rs 1).toNat ≤ ElemType.fp32.count ∧
    ElemType.fp32.isFloat = true ∧ ElemType.s32.isFloat = false ∧ ElemType.fp32.count < (s.rs 2).toNat ∧
    (5#3 : BitVec 3) ≠ 0#3 ∧ (2#3 : BitVec 3) = 2#3 ∧ ElemType.fp32 ≠ .e4m3 ∧
    ¬((1#3 : BitVec 3) = 0#3 ∨ ElemType.e4m3.isFloat = false ∨
      (((1#3 : BitVec 3) = 1#3 ∨ (1#3 : BitVec 3) = 2#3) ∧ ElemType.e4m3 ≠ .e4m3)) := by decide

theorem witness_VectorPermutes : (ElemType.u8 ≠ .s64 ∧ ElemType.u8 ≠ .u64) ∧ ElemType.u8.width ≠ 4 ∧
    (ElemType.u8.width = 8 → (30#5).toNat % 2 = 0) ∧ (ElemType.u8.width = 8 ∧ (31#5).toNat % 2 = 1) ∧ ElemType.s4.width = 4 ∧
    ¬(ElemType.u64 ≠ .s64 ∧ ElemType.u64 ≠ .u64) := by decide

theorem witness_SpecialFunctions : ElemType.fp16 ∈ ([.bf16, .fp16, .fp32] : List ElemType) ∧
    fpValue (fmtOf .fp16) false 0xBC00 = .fin true 1024 (-10) ∧ fpValue (fmtOf .fp16) false 0x8001 = .fin true 1 (-24) ∧
    fpValue (fmtOf .fp32) false 0x7F800001 = .nan true ∧ fpValue (fmtOf .bf16) false 0x7FC0 = .nan false ∧
    0x8001 % 2 ^ ((fmtOf .fp16).width - 1) < 2 ^ (fmtOf .fp16).mbits ∧ 0x007F % 2 ^ ((fmtOf .bf16).width - 1) < 2 ^ (fmtOf .bf16).mbits := by
  decide

/-- A context with an empty sketch in v0 and a word of ones in v1; v2 is zero, an empty list of hitters and an empty array. -/
def summaries : State := (at_ 0 []).modMe fun c =>
  (c.setV 0 (BitVec.ofNat 4096 ({} : Sketch).bits)).setV 1 (BitVec.ofNat 4096 (2 ^ 4096 - 1))

theorem witness_SummaryInstructions : ElemType.e4m3.isFloat = true ∧ ElemType.u32 ∈ ([.s32, .u32, .fp32] : List ElemType) ∧
    sketchOk (summaries.rv 0).toNat = true ∧ hittersOk (summaries.rv 2).toNat = true ∧ distinctOk (summaries.rv 2).toNat = true ∧
    sketchOk (summaries.rv 1).toNat = false ∧ hittersOk (summaries.rv 1).toNat = false ∧
    distinctOk (summaries.rv 1).toNat = false := by
  and_intros <;> decide +kernel

theorem witness_SummaryInstructions_laws : ({} : Distinct).regs.length = 640 ∧ ({} : Hitters).entries.length = 63 ∧
    ({} : Hitters).entries.all (fun e => e.2 != 0 || e.1 == 0) = true ∧ keysDistinct ({} : Hitters).entries = true ∧
    ({ fast := false, drawn := 0 } : Coin).fast = false ∧ ({ fast := true, drawn := 0 } : Coin).fast = true := by
  and_intros <;> decide +kernel


/-- The first byte of vault 0 of D0, as a region-form address. -/
def vault0 : Nat := 0x40000000000

/-- Places in a context's own vault: its first byte, the last that a sector's access of n bytes takes, and the highest byte. -/
theorem inVault_first (n : Nat) (h : n ∈ [1, 2, 4, 8, 16, 64]) : InVault mesh 0xFF0FF0000000 n vault0 := by
  have : 0 < n ∧ 0xFF0FF0000000 % 64 + n ≤ 64 := by revert n; decide
  constructor <;> first | exact this.1 | exact this.2 | decide
theorem inVault_last : InVault mesh 0xFF0FF0BFFFFF 1 0x40000BFFFFF := by constructor <;> decide

/-- The last sector of a row of DRAM, which a supervisor reaches by its own address. -/
theorem inDram_zero : InDram sup 0 8 0 := by
  constructor <;> first | decide | (intro k; rfl)
theorem inDram_last : InDram sup 1023 1 1023 := by
  constructor <;> first | decide | (intro k; rfl)

theorem witness_VaultScalarAccess : Quiet mesh ∧ (mesh.rs 4 + immVal 0).toNat = 0xFF0FF0000000 ∧
    InVault mesh (mesh.rs 4 + immVal 0).toNat (sizeOf' .u64) vault0 ∧ InVault mesh (mesh.rs 4 + immVal 0xBFFFFF).toNat (sizeOf' .u8) 0x40000BFFFFF ∧
    ¬acquires .rel ∧ ¬releases .acq ∧ ReqType.wt ≠ .unc ∧ ElemType.e4m3.width = 8 ∧ (mesh.rs 4 + immVal 0).toNat % 64 = 0 ∧
    InVault mesh (mesh.rs 4 + immVal 0xBFFE00).toNat 64 0x40000BFFE00 ∧ 0x40000BFFE00 % 2 ^ 24 + 512 ≤ 0xC00000 := by
  refine ⟨quiet_mesh, by decide, inVault_first 8 (by decide), inVault_last, ?_, ?_, by decide, by decide, by decide, ?_, by decide⟩
  · rintro (h | h | h) <;> cases h
  · rintro (h | h | h) <;> cases h
  · constructor <;> decide

theorem witness_DramScalarAccess : Quiet sup ∧ InDram sup (sup.rs 4 + immVal 0).toNat (sizeOf' .u64) 0 ∧
    InDram sup (sup.rs 4 + immVal 1023).toNat (sizeOf' .s8) 1023 ∧ ¬acquires .rlx ∧ ¬releases .rlx := by
  refine ⟨quiet_sup, inDram_zero, inDram_last, ?_, ?_⟩ <;> rintro (h | h | h) <;> cases h

theorem witness_VaultAtomics : ElemType.s32 ∈ ([.s32, .u32, .s64, .u64] : List ElemType) ∧
    (mesh.rs 4 + immVal 0).toNat % sizeOf' .u64 = 0 ∧ Quiet mesh ∧ InVault mesh (mesh.rs 4 + immVal 0).toNat (sizeOf' .u64) vault0 ∧
    ElemType.fp32 ∉ ([.s32, .u32, .s64, .u64] : List ElemType) ∧ (mesh.rs 4 + immVal 4).toNat % sizeOf' .u64 ≠ 0 ∧
    ElemType.u64 ≠ .fp32 ∧ (mesh.rs 4 + immVal 1).toNat % 8 ≠ 0 :=
  ⟨by decide, by decide, quiet_mesh, inVault_first 8 (by decide), by decide, by decide, by decide, by decide⟩

/-- A mesh context whose own vault holds tile 5 of 512 bytes, ready, with strides, extents and a mask of the first two elements. -/
def loads : State :=
  (((at_ 0 [(4, 0xFF0FF0000000#64), (5, 4#64), (6, 0xFFFFFFFF#64), (7, 1#64), (8, 0x100000000#64)]).modMe fun c =>
    c.setM 1 3#1024).modTile 5 fun t => { t with st := .ready, size := 512, w := true })

theorem witness_LoadsComplete :
    0 < sizeOf' .s8 ∧ (loadElems mmioOps loads 0 .own [{ idx := 0, va := 0xFF0FF0000000, n := 1 }] .none).isOk = true ∧
    ¬acquires .rlx ∧ acquires .acq ∧ (acquire loads .gang).isOk = true ∧
    contigAligned .fp32 0xFF0FF0000000 ∧ ¬contigAligned .fp32 0xFF0FF0000002 ∧
    (loadElems mmioOps loads 0 .own ((onElems loads .fp32 1).map fun i => ({ idx := i, va := elemAddr .fp32 0xFF0FF0000000 i, n := 4 } : Elem)) .none).isOk
      = true ∧
    loads.rs 5 ≠ 0#64 ∧ loads.rs 9 = 0#64 ∧ (loads.rs 5).toNat % (ElemType.fp32.width / 8) = 0 ∧ (loads.rs 7).toNat % (ElemType.fp32.width / 8) ≠ 0 ∧
    laneOk .fp32 0xFF0FF0000000 (loads.rs 6) ∧ laneOk .fp32 0xFF0FF0000000 (loads.rs 7) ∧ ¬laneOk .fp32 0xFF0FF0000000 (loads.rs 8) ∧
    ¬laneOk .fp32 0xFF0FF0000000 (loads.rs 9) ∧ (wholeTile loads .fp32 (actives loads .fp32 1) 0xFF0FF0000000 .load).isOk = true ∧ sizeOf' .fp32 = 0 := by
  refine ⟨by decide, by decide +kernel, ?_, .inl rfl, by decide +kernel, ?_, ?_, by decide +kernel, by decide, by decide, by decide, by decide,
    ?_, ?_, ?_, ?_, by decide +kernel, by decide⟩
  · rintro (h | h | h) <;> cases h
  all_goals first | (unfold contigAligned; decide) | (unfold laneOk; decide)

/-- The first two lanes of a scatter-accumulate pass their checks, are found at their homes and are added. -/
def accRuns : Bool :=
  let es := (onLanes loads 1).map fun i => ({ idx := i, va := laneAt .fp32 0xFF0FF0000000 (loads.rv 1) (loads.rs 6) i, n := 4 } : Elem)
  match checkAll loads es fun s e => checkStore s s.cur .atomic .own true e with
  | .ok (pss, s2) => !fifoFull s2 0 && !typeWaits s2 0 .own pss.flatten && (match lanesFound s2 .own pss.flatten with
    | .ok s3 => (lanesAdded s3 .own .fp32 {} ((List.range 128).map (el .fp32 (loads.rv 1))) (es.zip pss)).isOk
    | .error _ => false)
  | .error _ => false

theorem witness_StoresComplete :
    (storeElems mmioOps loads 0 .wt [({ idx := 0, va := 0xFF0FF0000000, n := 8 }, natToBytes 8 1)]).isOk = true ∧ ¬releases .rlx ∧
    ElemType.s4.width = 4 ∧ (storeWith mmioOps loads 0 .wt (nibbleElems 0xFF0FF0000000 0 (actives loads .s4 1) (vElems .s4 (loads.rv 0))) (nibbleByte 0)).isOk = true ∧
    (wholeTile loads .fp32 (actives loads .fp32 1) 0xFF0FF0000000 .store).isOk = true ∧ ElemType.fp32 ≠ .e4m3 ∧ laneOk .fp32 0xFF0FF0000000 (loads.rs 6) ∧
    accRuns = true := by
  refine ⟨by decide +kernel, ?_, by decide, by decide +kernel, by decide +kernel, by decide, ?_, by decide +kernel⟩
  case refine_2 => unfold laneOk; decide
  rintro (h | h | h) <;> cases h

theorem witness_AddressForms :
    let s := at_ 0 [(1, BitVec.ofNat 64 (2 ^ 48)), (2, BitVec.ofNat 64 (0xFF * 2 ^ 40 + 2 ^ 24))]
    let u := at_ 0xF00 [(1, BitVec.ofNat 64 (7 * 2 ^ 42))]
    0 < sizeOf' .s8 ∧ 2 ^ 48 ≤ (s.rs 1).toNat ∧ (s.rs 2).toNat < 2 ^ 48 ∧ (s.rs 2).toNat / 2 ^ 40 = 0xFF ∧
    vaultWindow s.cur (s.rs 2).toNat = none ∧ (u.rs 1).toNat < 2 ^ 48 ∧ (u.rs 1).toNat / 2 ^ 40 ≠ 0xFF ∧
    untranslated u u.cur = true ∧ physLoc u (u.rs 1).toNat = none ∧ s.me.windows = [] := by decide

/-- A context with no open window owes no register, and one with an open window owes none that the window does not write. -/
theorem witness_AddressForms_owed : ¬Owed mesh (.s 4) ∧ ¬Owed mesh (.v 31) ∧
    ¬Owed (mesh.modMe fun c => { c with windows := [{ left := 1, dests := [.s 3], writes := [.s 3 7] }] }) (.s 4) := by
  refine ⟨?_, ?_, ?_⟩ <;> · unfold Owed; decide

/-- Tile entry 127 of the vault in each of its states. -/
def tiles : State :=
  ((at_ 0 [(4, 0xFF0FF0000000#64), (5, 512#64), (6, 0xC00000#64), (7, 0#64)]).modTile 126 fun t => { t with st := .ready, size := 512 }).modTile 125
    fun t => { t with st := .empty, w := true, f := true, base := 512, size := 512 }

theorem witness_TileLifecycle : InVault tiles (tiles.rs 4).toNat 1 vault0 ∧ (1#2 : BitVec 2) ≠ 0#2 ∧
    vault0 % 2 ^ 24 % 64 = 0 ∧ (tiles.rs 6).toNat % 64 = 0 ∧ vault0 % 2 ^ 24 + (tiles.rs 6).toNat ≤ 0xC00000 ∧ (tiles.rs 7).toNat = 0 ∧
    (tiles.tile 127).st = .free ∧ tilesTouched mesh 0 0 0xC00000 = [] ∧ tilesTouched tiles 0 0 512 ≠ [] ∧ (tiles.tile 126).st ≠ .free ∧
    (tiles.modMe fun c => { c with mid := .released }).me.mid = .released ∧
    (∃ x, tileStep (tiles.tile 125) (.arm 512) = .ok x) ∧ (∃ x, tileStep (tiles.tile 125) .markReady = .ok x) ∧
    (∃ x, tileStep (tiles.tile 126) .markEmpty = .ok x) ∧ (tiles.tile 126).st = .ready ∧ (62#6).toNat % 2 = 0 ∧ (63#6).toNat % 2 = 1 := by
  refine ⟨by constructor <;> decide, ?_⟩
  and_intros <;> first | decide +kernel | exact ⟨_, rfl⟩

theorem witness_CacheMaintenance :
    rangePieces sup 0 4096 = .ok ([(0, 4096)], sup) ∧ isSup sup.cur = true ∧ (sup.core (coreOf sup.cur)).l1 = [] ∧
    (sup.core (coreOf sup.cur)).tidal = [] ∧ sup.homeq = [] ∧ isSup mesh.cur = false ∧ mesh.rs 0 = 0#64 :=
  ⟨rfl, by decide⟩

/-- A core whose FIFO holds a store and whose context waits with its marker; and a context in an enabled domain. -/
def releasing : State :=
  (mesh.modCore 0 fun c => { c with fifo := [.marker 0 .die] }).modMe fun c => { c with mid := .marker, st := .stalled }

/-- Nothing keeps a commit waiting after reset. -/
theorem committable_mesh : Committable mesh := ⟨rfl, fun _ => rfl, by decide, fun _ h => nomatch h⟩

theorem witness_ReleasesAndAcquires : Committable mesh ∧ isSup mesh.cur = false ∧
    (mesh.core 0).fifo = [] ∧ (mesh.core 0).l1 = [] ∧ (mesh.core 0).tidal = [] ∧ mesh.me.mid = .none ∧
    (releasing.core 0).fifo = .marker 0 .die :: [] ∧ (releasing.ctx 0).mid = .marker ∧ (releasing.ctx 0).st = .stalled ∧
    (let s := mesh.modCore 0 fun c => { c with fifo := [.store 5 0 .own] }
     (s.core 0).fifo = .store 5 0 .own :: [] ∧ (s.core 0).fifo ≠ [] ∧ (s.core 0).fifo.length < 64 ∧ ReqType.own ≠ .sinv) ∧
    (let s := mesh.modMe fun c => { c with mid := .released, doms := c.doms.set 3 (1#64 <<< 51) }
     s.me.mid = .released ∧ (4#32).toNat = (3 : Fin 4).val + 1 ∧ s.me.doms[3].getLsbD 51 = true) ∧
    releases .sc ∧ ¬releases .acq ∧ (0#32).toNat = 0 ∧ 4 < (5#32).toNat := by
  refine ⟨committable_mesh, ?_, ?_, ?_, ?_, ?_, ?_, ?_, ?_, ?_, ?_, .inr (.inr rfl), ?_, ?_, ?_⟩
  case refine_11 => rintro (h | h | h) <;> cases h
  all_goals decide +kernel


/-- The barrier object of 16 bytes at the first byte of a quiet vault. -/
def object (w : Nat) (regs : List (SReg × Word) := []) : State :=
  let s := at_ 0 ((4, 0xFF0FF0000000#64) :: regs)
  { s with mem := s.mem.writeN vault0 (natToBytes 16 w) }

theorem quiet_object (s : State) (h : s = object (5 + 4 * 2 ^ 10 + 3 * 2 ^ 20) [(1, 1#64), (2, 1023#64), (3, 3#64), (5, 15#64)] ∨
    s = object (5 + 2 ^ 20 * 3 + 2 ^ 24) [(1, 1#64)] ∨ s = object 7 [(1, 1#64)]) :
    Quiet s ∧ Settled s (coreOf s.cur) ∧ InVault s 0xFF0FF0000000 16 vault0 := by
  rcases h with rfl | rfl | rfl <;> (and_intros <;> first | (constructor <;> decide) | decide)

theorem witness_BarrierObjects :
    let s := object (5 + 4 * 2 ^ 10 + 3 * 2 ^ 20) [(1, 1#64), (2, 1023#64), (3, 3#64), (5, 15#64)]
    let obj := bytesToNat (s.mem.readN vault0 16)
    (s.rs 4 + immVal 0).toNat = 0xFF0FF0000000 ∧ (s.rs 4 + immVal 0).toNat % 16 = 0 ∧ (s.rs 4 + immVal 8).toNat % 16 ≠ 0 ∧
    s.me.mid = .none ∧ (s.rs 0).toNat = 0 ∧ 1023 < (1024#64 : Word).toNat ∧
    (s.rs 2).toNat % 2 ^ 10 ≠ 0 ∧ (s.rs 2).toNat / 2 ^ 10 % 2 ^ 22 = 0 ∧ (1024#64 : Word).toNat / 2 ^ 10 % 2 ^ 22 ≠ 0 ∧
    obj / 2 ^ 10 % 2 ^ 10 + (s.rs 1).toNat = obj % 2 ^ 10 ∧ obj % 2 ^ 10 < obj / 2 ^ 10 % 2 ^ 10 + (s.rs 2).toNat ∧
    (s.rs 2).toNat ≤ 1023 ∧ awaitsBank s = false ∧ (s.rs 5).toNat < 16 ∧ obj / 2 ^ 20 % 16 ≠ (s.rs 5).toNat ∧
    obj / 2 ^ 20 % 16 = (s.rs 3).toNat ∧ obj / 2 ^ 24 % 2 = 0 ∧
    (let u := object (5 + 2 ^ 20 * 3 + 2 ^ 24) [(1, 1#64)]
     let w := bytesToNat (u.mem.readN vault0 16)
     (u.rs 1).toNat = 1 ∧ w / 2 ^ 24 % 2 = 1 ∧ w / 2 ^ 10 % 2 ^ 10 + 1 < w % 2 ^ 10 ∧ (s.rs 3).toNat = w / 2 ^ 20 % 16) ∧
    (let u := object 7 [(1, 1#64)]
     let w := bytesToNat (u.mem.readN vault0 16)
     (u.rs 1).toNat = 1 ∧ w / 2 ^ 24 % 2 = 0 ∧ w / 2 ^ 10 % 2 ^ 10 + 1 < w % 2 ^ 10) ∧
    16 ≤ (s.rs 2).toNat := by decide +kernel

/-- A context that waits at a barrier, at a word and behind a window, its bounds passed. -/
def waits : State :=
  let s := (object (5 + 2 ^ 32) []).modCtx 1 fun c =>
    { c with st := .blocked, wake := .barrier 0 0, watch := some vault0, deadline := 1 }
  let s := s.modCtx 2 fun c => { c with st := .blocked, wake := .word 0 0 0, deadline := 1024 }
  s.modDie 0 fun d => { d with cycle2 := 2 * 1024, ungated8 := 16 * 1024 }

theorem witness_WordWaits :
    let s := object 7 [(1, 7#64), (2, 8#64), (3, 6#64), (5, 1#64)]
    bytesToNat (s.mem.readN vault0 8) = (s.rs 1).toNat ∧ bytesToNat (s.mem.readN vault0 8) ≠ (s.rs 2).toNat ∧
    ¬(s.rs 2).toNat ≤ bytesToNat (s.mem.readN vault0 8) ∧ (s.rs 3).toNat ≤ bytesToNat (s.mem.readN vault0 8) ∧
    bytesToNat (s.mem.readN vault0 8) &&& (s.rs 5).toNat ≠ 0 ∧ ¬(bytesToNat (s.mem.readN vault0 8) &&& (s.rs 2).toNat ≠ 0) ∧
    (s.rs 4 + immVal 0).toNat % 8 = 0 ∧ (s.rs 4 + immVal 4).toNat % 8 ≠ 0 ∧ s.me.mid = .none ∧
    (s.modMe fun c => { c with mid := .result 1 }).me.mid = .result 1 ∧ s.me.deadline = 0 ∧
    (waits.ctx 1).st = .blocked ∧ (waits.ctx 1).wake = .barrier 0 0 ∧ (waits.ctx 1).watch = some vault0 ∧
    bytesToNat (waits.mem.readN vault0 8) / 2 ^ 32 % 2 ^ 32 = 1 ∧ isSup 1 = false ∧
    (waits.ctx 1).deadline + 256 * 1 ≤ ungatedOf waits (dieOf 1) ∧ (waits.ctx 2).deadline ≠ 0 ∧ (waits.ctx 2).st = .blocked ∧ (waits.ctx 2).wake = .word 0 0 0 ∧
    (waits.ctx 2).deadline ≤ cycleOf waits (dieOf 2) ∧ (waits.ctx 2).watch = none ∧
    (waits.ctx 2).blockedAt + 1024 ≤ cycleOf waits (dieOf 2) := by decide +kernel

/-- A word wait whose condition the home has found met, in an otherwise quiet state. -/
def met : State := (object 7 [(1, 7#64)]).modMe fun c => { c with mid := .result 0 }

theorem witness_WordWaits_met : met.me.mid = .result 0 ∧ Quiet (met.modMe fun c => { c with mid := .none }) ∧
    Settled met (coreOf met.cur) ∧ InVault met (met.rs 4 + immVal 0).toNat 8 vault0 := by
  refine ⟨rfl, ?_, ?_, ?_⟩ <;> first | (constructor <;> decide) | decide

theorem arrived_mesh (k : Nat) : Arrived mesh 0 k := by
  by_cases h : k = 0
  · exact .inl h
  · refine .inr (.inr (.inr ?_))
    have : mesh.ctx k = {} := by
      show (State.modCtx _ _ _).ctx k = _
      rw [State.modCtx_ctx_other _ h]
      rfl
    rw [this]
    trivial

/-- Contexts 1 to 3 stalled at ALIGN on another line, at YIELD and at IDLE, and context 0 ready. -/
def stalls : State :=
  let s := (at_ 0 []).modCtx 1 fun c => { c with st := .stalled, mid := .waiting 185, deadline := 7, pc := 64 }
  let s := s.modCtx 2 fun c => { c with st := .stalled, mid := .waiting 230, deadline := 1, pc := 64 }
  let s := s.modCtx 3 fun c => { c with st := .stalled, mid := .waiting 185, deadline := 1, pc := 64 }
  (s.modCtx 0xF00 fun c => { c with st := .stalled, mid := .waiting 238, deadline := 1 }).modDie 0 fun d =>
    { d with cycle2 := 2, ungated8 := 16 }

theorem witness_WaitsAndExpiries : mesh.me.mid = .none ∧ (0#32).toNat = 0 ∧ 65535 < (65536#32).toNat ∧ 0 < (1#32).toNat ∧
    (65535#32).toNat ≤ 65535 ∧ validCtx mesh.cur = true ∧ AllArrived mesh mesh.cur ∧ ¬AllArrived stalls 1 ∧
    (mesh.modMe fun c => { c with mid := .released }).me.mid = .released ∧
    (stalls.ctx 1).st = .stalled ∧ (stalls.ctx 1).mid = .waiting 185 ∧ cycleOf stalls (dieOf 1) < (stalls.ctx 1).deadline ∧
    (stalls.ctx 3).st = .stalled ∧ (stalls.ctx 3).mid = .waiting 185 ∧ (stalls.ctx 3).deadline ≤ cycleOf stalls (dieOf 3) ∧
    (stalls.ctx 2).st = .stalled ∧ (stalls.ctx 2).mid = .waiting 230 ∧ (stalls.ctx 2).deadline ≤ ungatedOf stalls (dieOf 2) ∧
    isSup 2 = false ∧ isSup mesh.cur = false ∧ isSup sup.cur = true ∧ sup.me.message = false ∧
    (sup.modMe fun c => { c with message := true }).me.message = true ∧
    (stalls.ctx 0xF00).st = .stalled ∧ (stalls.ctx 0xF00).mid = .waiting 238 ∧ (stalls.ctx 0xF00).deadline ≠ 0 ∧
    (stalls.ctx 0xF00).deadline ≤ cycleOf stalls (dieOf 0xF00) := by
  refine ⟨by decide, by decide, by decide, by decide, by decide, by decide, .inr fun k _ => arrived_mesh k, ?_, ?_⟩
  · rintro (h | h)
    · revert h; decide
    · rcases h 0 (by decide +kernel) with h | h | h | h
      · exact absurd h (by decide)
      · exact h (by decide)
      · exact absurd h (by decide)
      · exact h
  · and_intros <;> first | rfl | decide +kernel

/-- Cores 0 and 1 before a pair, with a PAIR waiting on core 1, and as a pair at an agreed point, wanted closed and closed. -/
def asking : State :=
  ((at_ 0 []).modCtx 16 fun c => { c with st := .stalled, mid := .waiting 237 }).modCore 1 fun c =>
    { c with pairWait := some { ctx := 0, dir := 1, deadline := 65536, dst := 1 } }
/-- A PAIR of context 0 whose time is up. -/
def overAsk : State :=
  (((at_ 0 []).modCtx 0 fun c => { c with st := .stalled, mid := .waiting 237 }).modCore 0 fun c =>
    { c with pairWait := some { ctx := 0, dir := 0, deadline := 65536, dst := 1 } }).modDie 0 fun d => { d with cycle2 := 2 * 65536 }
/-- A PAIR of context 1 of core 0 waits. -/
def beside : State :=
  ((at_ 0 []).modCtx 1 fun c => { c with st := .stalled, mid := .waiting 237 }).modCore 0 fun c =>
    { c with pairWait := some { ctx := 1, dir := 0, deadline := 65536, dst := 1 } }
def paired (want closed fresh : Bool) (crc : Nat) : State :=
  let p : PairRec := { dir := 0, partner := 1, ctx := 0, leader := true, checkpoint := {}, want := want, closed := closed, fresh := fresh }
  ((at_ 0 []).modCore 0 fun c => { c with pair := some p }).modCore 1 fun c =>
    { c with pair := some { p with dir := 1, partner := 0, leader := false, crc := crc } }

theorem l1_after_reset (k : Nat) : ((at_ 0 []).core k).l1 = [] := rfl

theorem committable_paired (want closed fresh : Bool) (crc : Nat) : Committable (paired want closed fresh crc) := by
  refine ⟨rfl, fun k => ?_, Nat.zero_le _, fun _ h => nomatch h⟩
  have inner (f : Core → Core) (hf : ∀ c, (f c).l1 = c.l1) (s : State) (hs : ∀ k, (s.core k).l1 = []) (j : Nat) :
      ∀ k, ((s.modCore j f).core k).l1 = [] := fun k => by
    by_cases h : k = j
    · subst h; rw [State.modCore_core_same, hf, hs]
    · rw [State.modCore_core_other _ h, hs]
  unfold paired
  dsimp only
  refine inner _ ?_ _ (inner _ ?_ _ l1_after_reset 0) 1 k <;> exact fun _ => rfl

theorem witness_CorePairs_beside : beside.me.mid = .none ∧ neighbour (coreOf beside.cur) 0 = some 1 ∧ (beside.core 0).pair = none ∧
    (beside.core 1).pair = none ∧ (beside.core 0).pairWait = some { ctx := 1, dir := 0, deadline := 65536, dst := 1 } ∧
    (beside.ctx (0 * 16 + 1)).st = .stalled ∧ (beside.ctx (0 * 16 + 1)).mid = .waiting 237 ∧ cycleOf beside (0 / 256) < 65536 := by
  decide

theorem witness_CorePairs :
    mesh.me.mid = .none ∧ neighbour (coreOf 0) 1 = none ∧ neighbour (coreOf 0) 0 = some 1 ∧ ((paired false false true 0).core 0).pair ≠ none ∧
    (asking.core 0).pair = none ∧ (asking.core 1).pair = none ∧ (asking.core 0).pairWait = none ∧ (mesh.core 1).pairWait = none ∧
    (asking.core 1).pairWait = some { ctx := 0, dir := 1, deadline := 65536, dst := 1 } ∧ neighbour 1 1 = some (coreOf 0) ∧
    (asking.ctx 16).st = .stalled ∧ (asking.ctx 16).mid = .waiting 237 ∧ ctxNo 16 = 0 ∧ cycleOf asking (1 / 256) < 65536 ∧ overAsk.me.mid = .waiting 237 ∧
    (overAsk.core 0).pairWait = some { ctx := 0, dir := 0, deadline := 65536, dst := 1 } ∧ overAsk.me.st = .stalled ∧
    65536 ≤ cycleOf overAsk (dieOf 0) ∧ Committable (paired true true false 0xFFFFFFFF) ∧
    (∃ p, pairOfCtx (paired true false true 0) 0 = some (0, p, 1) ∧ p.want = true ∧ p.closed = false) ∧
    (∃ p q, pairOfCtx (paired true true false 0xFFFFFFFF) 0 = some (0, p, 1) ∧ ((paired true true false 0xFFFFFFFF).core 1).pair = some q ∧
      p.closed = true ∧ crcFinal p.crc = crcFinal q.crc) ∧
    (∃ p q, pairOfCtx (paired true true false 5) 0 = some (0, p, 1) ∧ ((paired true true false 5).core 1).pair = some q ∧
      p.closed = true ∧ crcFinal p.crc ≠ crcFinal q.crc ∧ p.disagreements + 1 < 3 ∧ p.cid 0 ≠ q.cid 1 ∧
      ((paired true true false 5).ctx (p.cid 0)).st ≠ .frozen ∧ ((paired true true false 5).ctx (q.cid 1)).st ≠ .frozen) ∧
    (∃ p, pairOf (paired false false true 0) 0 = some (0, p, 1) ∧ p.fresh = true) ∧
    (∃ p, pairOf (paired false false false 0) 0 = some (0, p, 1) ∧ p.fresh = false) := by
  refine ⟨?_, ?_, ?_, ?_, ?_, ?_, ?_, ?_, ?_, ?_, ?_, ?_, ?_, ?_, ?_, ?_, ?_, ?_, committable_paired _ _ _ _, ⟨_, rfl, rfl, rfl⟩, ⟨_, _, rfl, rfl, rfl, rfl⟩,
    ⟨_, _, rfl, rfl, rfl, ?_, ?_, ?_, ?_, ?_⟩, ⟨_, rfl, rfl⟩, ⟨_, rfl, rfl⟩⟩ <;> decide +kernel

/-- Domain entry 255 of D0 enabled for two members, with an arrival of context 0 on its way, and the entry in its ebb. -/
def domainWord : Word := BitVec.ofNat 64 (255 + 2 ^ 16 * 2 + 2 ^ 48 * 4 + 2 ^ 51)
def tide (x : Domain) (m : Mid := .none) : State :=
  ((at_ 0 []).modCtx 0 fun c => { c with st := .blocked, wake := .tide 255 false 3, mid := m, doms := c.doms.set 3 domainWord }).modDie 0 fun d =>
    { d with domains := [(255, x)], tideMsgs := [{ cid := 0, dom := domainWord, incarnation := 0 }] }

/-- Arrivals at an entry of a scope of core, gang or die, of context 0 and a first arrival of this core: placed or not. -/
theorem witness_Tides_places :
    (∀ t ∈ [(1, 0, true), (1, 1, false), (2, 7, true), (2, 8, false), (3, 255, true), (3, 256, false)],
      let x : Domain := { en := true, scope := t.1, count := 2, arrived := 1, first := t.2.1 }
      let w := 255 + 2 ^ 16 * 2 + 2 ^ 48 * t.1 + 2 ^ 51
      x.en = true ∧ x.ebb = false ∧ x.gen = w / 2 ^ 12 % 16 ∧ x.count = w / 2 ^ 16 % 2 ^ 13 ∧ x.scope = w / 2 ^ 48 % 8 ∧
      decide (((x.arrived = 0 ∨ ((x.scope = 1 → coreOf 0 = x.first) ∧ (x.scope = 2 → coreOf 0 / 8 = x.first / 8) ∧
        (x.scope = 3 → coreOf 0 / 256 = x.first / 256))) ∧ (x.scope = 3 → coreOf 0 / 256 = w / 2 ^ 8 % 16))) = t.2.2) ∧
    (let s := tide { en := true, scope := 4, count := 2 }
     (s.ctx 0).st ≠ .idle ∧ (s.ctx 0).doms[(3 : Fin 4)].getLsbD 51 = true ∧ ∀ l : Fin 4, (s.ctx 0).doms[l].getLsbD 51 = true →
       (s.ctx 0).doms[l].toNat % 2 ^ 16 = 255 + (0 <<< 8) + ((domainAt s 0 255).gen <<< 12)) := by decide +kernel

theorem committable_tide (x : Domain) (m : Mid) : Committable (tide x m) := ⟨rfl, fun _ => rfl, Nat.zero_le _, fun _ h => nomatch h⟩

theorem witness_Tides :
    (domainAt (tide {}) 0 255).en = false ∧ (domainAt (tide {}) 0 255).arrived = 0 ∧ (domainAt (tide {}) 0 255).ebb = false ∧
    (domainAt (tide { en := true, scope := 4, count := 2 }) 0 255).en = true ∧ mesh.me.mid = .none ∧ (0#32).toNat = 0 ∧ 4 < (5#32).toNat ∧
    (mesh.me.dom 1).getLsbD 51 = false ∧ ((tide {}).me.dom 4).getLsbD 51 = true ∧ 0 < (4#32).toNat ∧ (4#32).toNat ≤ 4 ∧
    Settled (tide {}) (coreOf 0) ∧ ((tide {}).die 0).tideMsgs = [{ cid := 0, dom := domainWord, incarnation := 0 }] ∧
    ((tide {}).ctx 0).st = .blocked ∧ ((tide {}).ctx 0).wake = .tide (domainWord.toNat % 2 ^ 16) ((0 : Nat).testBit 0) 3 ∧ isSup (tide {}).cur = false ∧ isSup sup.cur = true ∧ ((tide {}).ctx 0).incarnation = 0 ∧
    domainWord.toNat % 256 = 255 ∧ 0 = domainWord.toNat / 2 ^ 12 % 16 ∧ 2 = domainWord.toNat / 2 ^ 16 % 2 ^ 13 ∧
    4 = domainWord.toNat / 2 ^ 48 % 8 ∧ ((tide {} (.fault 18)).me).mid = .fault 18 ∧ ((tide {} (.result 1)).me).mid = .result 1 ∧
    (let x := domainAt (tide { en := true, ebb := true, waiting := [(0, 0)] }) 0 255
     x.ebb = true ∧ (0, ((tide {}).ctx 0).incarnation) ∈ x.waiting) ∧ Committable (tide { en := true, ebb := true, waiting := [(0, 0)] }) := by
  refine ⟨?_, ?_, ?_, ?_, ?_, ?_, ?_, ?_, ?_, ?_, ?_, ⟨?_, ?_, ?_⟩, ?_, ?_, ?_, ?_, ?_, ?_, ?_, ?_, ?_, ?_, ?_, ?_, ?_, committable_tide _ _⟩ <;> decide +kernel


/-- A long-latency operation of context 0, one of whose two window instructions has completed, that is about to fault. -/
def lateWin : Window :=
  { left := 1, dests := [.v 1], writes := [],
    late := some { trap := { code := 0x28 }, pc := 12, size := 2, ops := Vector.replicate 3 0#4096 } }
def lating : State := mesh.modMe fun c => { c with windows := [lateWin], pc := 36 }

theorem witness_FaultEntry : validCtx 0 = true ∧ validCtx 0xF13 = true ∧ mesh.me.ev = 0 ∧ mesh.me.windows = [] ∧
    lating.me.ev = 0 ∧ lating.me.windows = [lateWin] ∧ lateWin.writes = [] ∧ lateWin.late.isSome = true ∧
    (mesh.modMe fun c => { c with ev := 31 }).me.ev ≠ 0 ∧ mesh.me.st = .ready := by decide

theorem witness_TrapInstruction : validCtx mesh.cur = true ∧ mesh.me.passing = false ∧ mesh.me.ev = 0 ∧ awaitsBank mesh = false ∧
    mesh.me.windows = [] := by decide

theorem witness_RegisterOnlyFrame : RegisterOnly (.add 3 4 4 false) ∧ RegisterOnly (.vtanh 0 .fp32 2 1 0 false false false) ∧
    RegisterOnly (.sdest 7 4) ∧ (∃ t, Runs (.add 3 4 4 false) mesh t) ∧ RegName.s 4 ∉ (regUse mesh (.add 3 4 4 false)).2 ∧
    (∀ x ∈ mesh.me.windows, ∀ y ∈ x.writes, written y ≠ .s 4) ∧ mesh.cur = 0 ∧ 1 ≠ mesh.cur := by
  refine ⟨⟨_, rfl, ?_⟩, ⟨_, rfl, ?_⟩, ⟨_, rfl, ?_⟩, ⟨_, rfl⟩, ?_⟩ <;> decide

/-- Operands of WRC: each register's largest legal value, the first that it refuses, and domain words. -/
theorem witness_ControlRegisters : (mesh.core 0).pair = none ∧ ((paired false false true 0).core 0).pair ≠ none ∧
    (0x050#12).toNat ∉ [0, 1, 2, 3, 4, 0x10, 0x11, 0x12, 0x13, 0x20, 0x21, 0x30, 0x31, 0x40] ∧
    (0x014#12).toNat ∉ [1, 2, 3, 4, 0x10, 0x11, 0x12, 0x13, 0x20, 0x21] ∧ (0x030#12).toNat ∉ [1, 2, 3, 4, 0x10, 0x11, 0x12, 0x13, 0x20, 0x21] ∧
    (0 : Nat) % 2 ^ 12 = 0 ∧ isSup mesh.cur = false ∧ isSup sup.cur = true ∧ (mesh.core 0).tidal = [] ∧ mesh.pend = [] ∧
    (let clear := fun v : Nat => v / 2 ^ 29 % 8 = 0 ∧ v / 2 ^ 45 % 8 = 0 ∧ v / 2 ^ 52 % 2 ^ 11 = 0
     let legal := fun v : Nat => v.testBit 51 = false ∨ (v / 2 ^ 8 % 16 ≤ 11 ∧ 1 ≤ v / 2 ^ 16 % 2 ^ 13 ∧ v / 2 ^ 16 % 2 ^ 13 ≤ 7680 ∧
      v / 2 ^ 32 % 2 ^ 13 < v / 2 ^ 16 % 2 ^ 13 ∧ 1 ≤ v / 2 ^ 48 % 8 ∧ v / 2 ^ 48 % 8 ≤ 4)
     let v := 255 + 2 ^ 8 * 11 + 2 ^ 16 * 7680 + 2 ^ 32 * 7679 + 2 ^ 48 * 4 + 2 ^ 51
     clear v ∧ legal v ∧ ¬clear (2 ^ 52) ∧ clear (v + 2 ^ 16) ∧ ¬legal (v + 2 ^ 16)) ∧
    (let s := mesh.modCore 0 fun c => { c with tidal := [{ ctx := 0, inc := 0, sector := 5, mask := 1, bytes := List.replicate 64 0#8 }] }
     ∃ y ∈ (s.core (coreOf s.cur)).tidal, y.ctx = s.cur ∧ y.inc = s.me.incarnation) ∧
    (let s := { mesh with pend := [{ owner := .tidal 0 0 255 0, sector := 5, mask := 1, bytes := List.replicate 64 0#8 }] }
     ∃ y ∈ s.pend, y.owner = .tidal s.cur s.me.incarnation 255 0) := by
  and_intros <;> decide +kernel

/-- A supervisor with frozen cores 0, and 1 behind a breakwater, named in s1 and s2; a parked context; an owed window; a ring
with a packet. -/
def serving : State :=
  let s := at_ 0xF00 [(1, 0#64), (2, 0x10#64), (3, 0x20#64), (4, 0xF10#64)]
  let s := s.modCore 0 fun c => { c with frozen := true }
  let s := s.modCore 1 fun c => { c with frozen := true, bwr := true }
  let s := s.modCtx 0 fun c => { c with st := .frozen, prev := .ready }
  let s := s.modCtx 0x20 fun c => { c with st := .parked, windows := [{ left := 0, dests := [.s 3], writes := [.s 3 7] }] }
  let s := s.modDie 0 fun d => { d with rings := #v[{ base := 4096, log2 := 6, en := true, wr := 63 }, {}],
                                        packets := [{ ring := 0, cid := 0, bits := 0x24 }], svpc := d.svpc.set 0 64 }
  { s with pkg := { s.pkg with firmware := some 0 } }

theorem witness_SupervisorActions : isSup mesh.cur = false ∧ isSup serving.cur = true ∧ 2 ≤ (2#2).toNat ∧ (1#2).toNat < 2 ∧
    (∀ r ∈ [1, 2, 3, 4], (serving.rs r).toNat % 16 = 0 ∧ (serving.rs r).toNat < 2 ^ 16 ∧ (serving.rs r).toNat / 2 ^ 12 = dieOf serving.cur ∧
      ((serving.rs r).toNat / 2 ^ 8 % 16 < 10 ∨ ((serving.rs r).toNat / 2 ^ 8 % 16 = 15 ∧ (serving.rs r).toNat / 2 ^ 4 % 16 < 2))) ∧
    (serving.core 2).frozen = false ∧ (serving.core 1).frozen = true ∧ (serving.core 1).bwr = true ∧ (serving.core 0).frozen = true ∧
    (serving.core 0).bwr = false ∧ (serving.ctx 0).st = .frozen ∧ (serving.ctx 0).prev ≠ .blocked ∧ (serving.ctx 0).ev = 0 ∧ (8#4).toNat.testBit 3 = true ∧
    (serving.ctx 0).st ≠ .evicted ∧ (serving.ctx 0x20).st = .parked ∧ (serving.ctx 0x20).st ≠ .idle ∧
    (serving.ctx 0x20).windows = [{ left := 0, dests := [.s 3], writes := [.s 3 7], finished := false, mload := false, bank := none, late := none }] ∧
    (ringAt serving 0 1).en = false ∧ (16 + 6).testBit 4 = true ∧ 6 ≤ (16 + 6) % 16 ∧ (16 + 12) % 16 ≤ 12 ∧
    dramRun serving 0 (64 * 2 ^ 12) = true ∧ (16 + 5) % 16 < 6 ∧ 12 < (16 + 13) % 16 ∧ (6).testBit 4 = false ∧
    (serving.die 0).packets = [{ ring := 0, cid := 0, bits := 0x24 }] ∧ (ringAt serving 0 0).en = true ∧
    (ringAt serving 0 0).wr ≠ (ringAt serving 0 0).rd + 2 ^ (ringAt serving 0 0).log2 ∧
    dramLoc serving ((ringAt serving 0 0).base + 64 * ((ringAt serving 0 0).wr % 2 ^ (ringAt serving 0 0).log2)) = some (4096 + 64 * 63) ∧
    (4096 + 64 * 63) % 64 = 0 ∧ refuses serving 0 (.dram (4096 + 64 * 63)) = false ∧
    heldAt serving .store (.dram (4096 + 64 * 63)) = none ∧ serving.homeq = [] ∧ serving.upsets = [] ∧ serving.poison = [] ∧
    bankLive serving (bankKey (4096 + 64 * 63)) = false ∧ claimedBy serving none (4096 + 64 * 63) 64 = false ∧
    serving.pkg.firmware.isSome = true ∧ (serving.die 0).svRun = false ∧ (serving.die 0).svpc.toList.getD 0 0 ≠ 0 ∧
    (serving.die 0).svpc.toList.getD 7 0 = 0 ∧ (serving.core (supCore 0 0)).frozen = false := by decide +kernel

/-- A blocked task's context with a save area of one slot, a gang task that no gang can take since cycle 0, and a full slot with
an image that is due. -/
def evicting : State :=
  let s := (at_ 0 []).modCtx 0 fun c => { c with st := .blocked, wake := .handle 0, node := some 5 }
  let s := s.modDie 0 fun d => { d with svSlots := 1, svEvmin := 4096, cycle2 := 8192,
                                        pool := [(0, { uid := 7, bits := 1, graph := 0, st := .ready, stuck := some 0 })] }
  { s with gangs := (List.range 20).map fun g => (g, { task := some 9 }), pkg := { s.pkg with firmware := some 0 } }
def imaged (met : Bool) : State :=
  (at_ 1 []).modDie 0 fun d => { d with
    images := [{ slot := 0, cid := 0, ctx := { st := .blocked, met := met }, due := if met then some 0 else none }],
    retries := [{ cid := 0, inc := 0, kind := 0, source := 2 ^ 32 - 1, meets := if met then some (.result 5) else none }], svSlots := 1 }
/-- Breakwater 7 of D0 with a rectangle of the whole mesh. -/
def walled (st rect : Nat) : State := setBw (at_ 0xF00 []) 0 7 { st := st, rect := rect }

theorem witness_PreemptionAndBreakwaters :
    evictable evicting 0 = true ∧ freeSlot evicting (dieOf 0) = some 0 ∧ evictable mesh 0 = false ∧ freeSlot (imaged true) 0 = none ∧
    evictable (evicting.modDie 0 fun d => { d with svSlots := 0 }) 0 = true ∧
    freeSlot (evicting.modDie 0 fun d => { d with svSlots := 0 }) 0 = none ∧
    dispatchRuns evicting 0 = true ∧ (mesh.die 0).svEvmin = 0 ∧ (evicting.die 0).svEvmin ≠ 0 ∧
    (match (contextCands evicting 0).head? with
     | some cand => (nodeAt evicting (cand.nodes.headD 0)).bind (·.stuck) == some 0 && (placeAll evicting 0 cand.nodes [] []).isNone
     | none => false) = true ∧ 0 + 4096 ≤ cycleOf evicting 0 ∧ (evicting.die 0).lastEvict = none ∧
    longestBlocked evicting 0 (evicting.die 0).svEvmin = some 0 ∧ (freeSlot evicting (dieOf 0)).isSome = true ∧
    ((imaged true).die 0).images = [{ slot := 0, cid := 0, ctx := { st := .blocked, met := true }, due := some 0 }] ∧
    ((imaged true).ctx 0).st = .idle ∧ ((imaged true).core 0).frozen = false ∧ ((imaged true).core 0).fenced = false ∧
    dramLoc (imaged true) (slotAddr (imaged true) 0 0 8) = some 8 ∧
    slotHeld (imaged true) (dieOf 0) 0 = none ∧
    ((imaged false).die 0).retries = [{ cid := 0, inc := 0, kind := 0, source := 2 ^ 32 - 1, meets := none }] ∧
    ((imaged false).die 0).images = [{ slot := 0, cid := 0, ctx := { st := .blocked, met := false }, events := [], due := none }] ∧
    (bwAt (walled 0 0xF900) 0 7).st = 0 ∧ bwRectOk (bwAt (walled 0 0xF900) 0 7).rect = true ∧
    (∀ i, i < 8 → i ≠ 7 % 8 → (bwAt (walled 0 0xF900) 0 i).st = 0) ∧ (bwAt (walled 1 0xF900) 0 7).st = 1 ∧
    bwRectOk (bwAt (walled 0 0xFA00) 0 7).rect = false ∧ (bwAt (walled 2 0) 0 7).st = 2 ∧ (bwAt (walled 3 0) 0 7).st = 3 ∧
    (∀ st ∈ [0, 2, 3], (bwAt (walled st 0) 0 7).st ≠ 1) ∧ ∀ st ∈ [0, 2], (bwAt (walled st 0) 0 7).st ≠ 3 := by
  and_intros <;> decide +kernel

theorem witness_PreemptionAndBreakwaters_place : dramLoc ((imaged true).modDie 0 fun d => { d with svBase := 2 ^ 31 })
    (slotAddr ((imaged true).modDie 0 fun d => { d with svBase := 2 ^ 31 }) 0 0 8) = none := by decide +kernel

/-- A supervisor before bank 0 (and stack 0): a promotion queued by a stalled context, with slot 3,968 of subarray 0 holding row 0
or not. -/
def banked (kind : Nat) (f : Bank → Bank) : State :=
  let s := (at_ 0xF00 []).modCtx 0xF01 fun c => { c with st := .stalled, mid := .waiting 1009 }
  s.modBank 0 fun b => f { b with shmode := 1, queue := [{ uid := 9, cid := 0xF01, kind := kind, row := 0, dst := 1 }] }

theorem witness_BankOperations :
    sup.me.mid = .none ∧ classOf 0 = 0 ∧ (sup.modMe fun c => { c with mid := .result 3 }).me.mid = .result 3 ∧
    (let s := banked 0 id
     let b := s.bank 0
     b.queue = [{ uid := 9, cid := 0xF01, kind := 0, row := 0, dst := 1 }] ∧ b.shBusy = false ∧ b.rtBusy = false ∧
     bankPublish s 0 = false ∧ 0xF01 ≠ newtAgent ∧ (s.ctx 0xF01).st = .stalled ∧ (s.ctx 0xF01).mid = .waiting (1000 + 9) ∧
     (s.ctx 0xF01).incarnation = 0 ∧ ((s.modCtx 0xF01 fun c => { c with incarnation := 1 }).ctx 0xF01).incarnation ≠ 0 ∧
     b.fenced = false ∧ slotOfRow b 0 = none ∧ ((slotRows b (0 % 128)).find? fun i => (SMap.find? b.slots i).isNone).isSome = true) ∧
    ((banked 0 fun b => { b with fenced := true }).bank 0).fenced = true ∧
    slotOfRow ((banked 1 fun b => { b with slots := [(3968, { row := 0 })] }).bank 0) 0 = some (3968, { row := 0 }) ∧
    ({ row := 0 } : PromoSlot).pin ≠ decide (1 = 1) ∧ ({ row := 0, pin := true } : PromoSlot).pin ≠ decide (2 = 1) ∧
    4 % 8 < 5 ∧ 5 ≤ 5 % 8 ∧ bankInStep sup 0 = false ∧ ((banked 0 fun b => { b with shBusy := true }).bank 0).shBusy = true ∧
    61439 < 61440 ∧ (sup.bank 0).rtBusy = false ∧ 61439 ∉ (sup.bank 0).retired ∧ (rowOwner (sup.bank 0) 59519).isSome = true ∧
    (poolRow (sup.bank 0) (59519 % 128)).isSome = true ∧ sup.upsets = [] ∧ sup.poison = [] ∧ 61440 < 65536 ∧
    ((sup.modBank 0 fun b => { b with retired := [5] }).bank 0).retired = [5] ∧
    ((banked 0 fun b => { b with rtBusy := true }).bank 0).rtBusy = true ∧
    ((sup.bank 0).refreshes + 1) * 3413 ≤ newtCycles { sup with time := 6826 } ∧
    bankLive sup 0 = false ∧ (match bcastCheck sup 0 with
     | .ok (ts, s1) => !fifoFull s1 sup.cur && decide (s1.races.length ≤ 16384) && ts.all fun y => y % 512 == 0
     | .error _ => false) = true := by decide +kernel

theorem witness_BankOperations_place : InDram sup (sup.rs 0 + immVal 0).toNat 1 0 := by
  constructor <;> first | decide | exact fun _ => rfl


/-- The eight members of a gang task on gang 0 of D0 in interval 1: member 0 is current, its A latch and every published eighth
loaded with types ta and tb in one form, its slice a0 valid and 16 wide; v16 holds .S24 keep masks, v31 none. -/
def member (ta : ElemType) (sp : Bool) (cls : ElemType) (regs : List (SReg × Word) := []) : State :=
  let s := at_ 0 ([(4, 0xFF0FF0000000#64), (5, 16#64), (6, 512#64), (7, 64#64), (8, 24#64), (9, 4#64)] ++ regs)
  let s := s.modCtx 0 fun c => { c.setV 16 (BitVec.ofNat 4096 ((2 ^ 4096 - 1) / 15 * 3)) with inGang := true, interval := 1, node := some 9 }
  let s := s.modCore 0 fun c => { c with
    alatch := Vector.replicate 2 { st := .loaded, ty := ta, rows := List.replicate 16 0 },
    acc := c.acc.set 0 { valid := true, cls := cls, n := 16 } }
  s.modGang 0 fun g => { g with
    task := some 9, members := (coresOfGang 0).map (· * 16),
    bpub := Vector.replicate 2 { eighths := Vector.replicate 8 { st := .loaded, ty := ta, sp := sp, n := 512 } } }

theorem mmaReady_dense : MmaReady (member .bf16 false .fp32) .fp32 0 16 1 false := by constructor <;> decide +kernel
theorem mmaReady_sparse : MmaReady (member .s4 true .s32) .s32 0 16 0 true := by constructor <;> decide +kernel

/-- A member whose page at address 0 its TLB maps to the DRAM line 0, which an ill-formed format window has tagged. -/
def tagged : State :=
  let s := (member .e4m3 false .fp32).modCore 0 fun c => { c with tlb := [{ asid := 0, va := 0, log2 := 16, oa := 0, attrs := 7 }] }
  { s with l2 := [(homeSlice 0, [{ line := 0, dirty := false, tag := some { fmt := 8, index := 0, stack := 0, win := 0, scl := 0, ill := true } }])] }

/-- A gang whose members all wait at GANG, with a load under way on core 0 and a written eighth 7. -/
def gathered : State :=
  let s := (coresOfGang 0).foldl (fun (s : State) k => s.modCtx (k * 16) fun c => { c with st := .stalled, atGang := true })
    (member .e4m3 false .fp32)
  let s := s.modCore 0 fun c => { c with mloads := [{ cid := 0, bside := true, pair := 1, interval := 1, a := {}, b := { n := 16 } }] }
  s.modGang 0 fun g => { g with bshadow := Vector.replicate 2 { eighths := [(7, 1, { st := .loaded, n := 16 })] } }

theorem witness_MatrixLoads :
    let s := member .e4m3 false .fp32
    isMember mesh mesh.cur = false ∧ isMember s s.cur = true ∧ ElemType.bf16 ∈ ([.s4, .u4, .s8, .u8, .e4m3, .bf16] : List ElemType) ∧
    (s.rs 5).toNat % 16 = 0 ∧ 16 ≤ (s.rs 5).toNat ∧ (s.rs 6).toNat ≤ 512 ∧
    (∀ r, r < 8 → (s.rs 4 + wd (8 * 0 + r) * s.rs 7).toNat % (2 * ElemType.e4m3.width) = 0) ∧
    (matrixRows s s.cur ((List.range 8).map fun r =>
      ({ idx := r, va := (s.rs 4 + wd (8 * 0 + r) * s.rs 7).toNat, n := (s.rs 5).toNat * ElemType.e4m3.width / 8 } : Elem))).isOk = true ∧
    (matrixRows s s.cur ((List.range 16).map fun r =>
      ({ idx := r, va := (s.rs 4).toNat, n := 8 * ElemType.e4m3.width } : Elem))).isOk = true ∧
    0 < (s.rs 9).toNat ∧ (s.rs 9).toNat < 2 ^ 32 ∧ (s.rs 4).toNat % (8 * ElemType.e4m3.width) = 0 ∧
    (match matrixRows s s.cur [{ idx := 0, va := (s.rs 4).toNat, n := 16 }] with
      | .ok (rs, u) => rowsError .e4m3 true rs == none && (groupScales .e4m3 u 0 rs 16).isOk && (rowScales .e4m3 u 0 rs).isOk
      | .error _ => false) = true ∧
    lateLoad s true (some (1#1 : BitVec 1).toNat) = false ∧ lateLoad s false (some (0#1 : BitVec 1).toNat) = false ∧
    lateLoad s true none = false ∧ ElemType.bf16 ≠ .e4m3 ∧
    (match matrixRows tagged 0 [{ idx := 0, va := 0, n := 16 }] with
      | .ok (rs, _) => (rowsError .e4m3 false rs).isSome | .error _ => false) = true ∧
    (s.core 0).alatch[0].st = .loaded ∧ aLoading s 0 = false ∧ (mesh.core 0).alatch[0].st = .empty ∧
    (s.gang 0).retired = [] ∧ bLoading s 0 = false ∧ ElemType.s4 ≠ .fp32 ∧ s.me.mid = .none ∧ (s.core 0).mloads = [] ∧
    (s.modMe fun c => { c with mid := .released }).me.mid = .released ∧
    (gathered.core 0).mloads = [{ cid := 0, err := none, bside := true, pair := 1, interval := 1, a := {}, b := { n := 16 } }] ∧
    (gathered.gang 0).task ≠ none ∧ (gathered.gang 0).members.length = 8 ∧ (gathered.gang 0).members.Nodup ∧
    (∀ m ∈ (gathered.gang 0).members, (gathered.ctx m).atGang = true ∧ (gathered.ctx m).st = .stalled) ∧
    (7, 1, ({ st := .loaded, n := 16 } : BEighth)) ∈ (gathered.gang 0).bshadow[0].eighths ∧
    ((gathered.gang 0).bshadow[0].eighths.map (·.1)).Nodup ∧ (∀ x ∈ (gathered.gang 0).bshadow[0].eighths, x.1 < 8) ∧
    (gathered.gang 0).bshadow[0].eighths ≠ [] := by decide +kernel

theorem witness_MatrixLoads_empty : isMember ((member .e4m3 false .fp32).setCore 0 {}) 0 = true ∧
    (((member .e4m3 false .fp32).setCore 0 {}).core 0).alatch[1].st = .empty ∧ Quiet mesh ∧ InVault mesh 0xFF0FF0000000 64 vault0 :=
  ⟨by decide +kernel, by decide +kernel, quiet_mesh, inVault_first 64 (by decide)⟩

theorem witness_MatrixProducts :
    let s := member .bf16 false .fp32
    let z := member .s4 true .s32
    isMember s s.cur = true ∧ ((s.rs 5).toNat % 16 = 0 ∧ 16 ≤ (s.rs 5).toNat ∧ (s.rs 5).toNat ≤ 512) ∧ (s.rs 6).toNat = 512 ∧
    ¬((s.rs 8).toNat % 16 = 0 ∧ 16 ≤ (s.rs 8).toNat ∧ (s.rs 8).toNat ≤ 512) ∧ (s.core 0).halted = none ∧
    (s.gang 0).bpub[1].poison = none ∧ ((s.modCore 0 fun c => { c with halted := some 3 }).core 0).halted = some 3 ∧
    (16#5).toNat + (16 + 63) / 64 ≤ 32 ∧ (31#5).toNat + (16 + 63) / 64 ≤ 32 ∧
    (∀ c, c < 16 → ∀ j, j < 64 / 4 → ((List.range 4).filter fun i =>
      ((z.rv (vPlus 16 (c / 64))).toNat / 2 ^ (64 * (c % 64)) % 2 ^ 64).testBit (4 * j + i)).length = 4 / 2) ∧
    (let m := (z.rv (vPlus 31 0)).toNat / 2 ^ 0 % 2 ^ 64
     ¬∀ j, j < 64 / 4 → ((List.range 4).filter fun i => m.testBit (4 * j + i)).length = 4 / 2) ∧
    mclass .u4 = .int ∧ mclass .s8 = .int ∧ (sliceOf s 3).valid = false ∧ aLoading s 0 = false ∧
    (sliceOf s 0).valid = true ∧ (sliceOf s 0).cls = .fp32 ∧ ElemType.e4m3 ∈ ([.e4m3, .bf16, .fp16, .fp32] : List ElemType) ∧
    (sliceOf z 0).cls = .s32 ∧ ElemType.s16 ∈ ([.s8, .s16, .s32] : List ElemType) ∧ s.rs 0 = 0#64 ∧
    (0#4).toNat * ElemType.e4m3.count < (sliceOf s 0).n ∧ (sliceOf s 0).n ≤ (1#4).toNat * ElemType.e4m3.count ∧
    (match drainParts s (s.rs 4).toNat (16 * ((sliceOf s 0).n * ElemType.e4m3.width / 8)) with
      | .ok (ps, u) => (drainWrite u ps (List.replicate 256 0#8)).isOk | .error _ => false) = true := by decide +kernel

/-- A dense block of 64 rows of 16 one-byte elements at s4, to be compressed to s10, with its shape in s12 and s13. -/
def compressing : State := at_ 0 [(4, 0xFF0FF0000000#64), (10, 0xFF0FF0000400#64), (12, 16#64), (13, 0x1000000010#64)]

theorem witness_MatrixProducts_mcomp :
    let s := compressing
    let src := (List.range 64).map fun i =>
      ({ idx := i, va := (s.rs 4 + wd i * BitVec.ofInt 64 ((s.rs 13).extractLsb' 0 32).toInt).toNat, n := 16 * 8 / 8 } : Elem)
    let outs := (List.range 32).map fun i =>
      ({ idx := i, va := (s.rs 10 + wd i * BitVec.ofInt 64 ((s.rs 13).extractLsb' 32 32).toInt).toNat, n := 16 * 8 / 8 } : Elem)
    ElemType.e4m3 ∈ ([.s8, .u8, .e4m3, .bf16] : List ElemType) ∧ (12#6).toNat % 2 = 0 ∧ (12#6).toNat < 62 ∧ (s.rs 12).toNat = 16 ∧
    (31#5).toNat + (16 + 63) / 64 ≤ 32 ∧ (∀ e ∈ src ++ outs, e.va % (ElemType.e4m3.width / 8) = 0) ∧
    (checkAll s outs fun s e => checkStore s s.cur .store .wt true e).isOk = true ∧
    (match matrixRows s s.cur src with
      | .ok (_, u) => (storeElems mmioOps u s.cur .wt (outs.map fun e => (e, List.replicate 16 0#8))).isOk
      | .error _ => false) = true := by decide +kernel


/-- A released context with a copy's and a block's operands, a full set of engines or not, a counter and one armed trigger. -/
def engines (busy : Nat) : State :=
  let s := (at_ 0 [(1, 0xFF0FF0000100#64), (2, 0xFF0FF0000200#64), (3, 0x100000000#64), (4, 0xFF0FF0000000#64), (5, 0x100000001#64),
    (6, 0xFFFF01000000#64), (8, 0x100000040#64), (10, 0x1000000000040#64)]).modMe fun c => { c with mid := .released }
  { s with ops := (List.range busy).map fun k => (k, { kind := .copy, die := 0, engine := k }), nextOp := 100 }

theorem witness_EngineInstructions :
    let s := engines 15
    let shape := fun n : SReg => (s.rs n).toNat % 2 ^ 32 ≠ 0 ∧ (s.rs n).toNat % 2 ^ 32 ≤ 2 ^ 24 ∧ (s.rs n).toNat / 2 ^ 32 % 2 ^ 16 ≠ 0 ∧
      (s.rs n).toNat / 2 ^ 48 % 2 ^ 16 = 0
    s.me.mid = .released ∧ s.me.getH 3 = .idle ∧ s.me.node = none ∧ (s.rs 3).toNat ≤ 2 ^ 32 ∧ 2 ^ 32 < (s.rs 5).toNat ∧
    destIllegal s (spaceOf s s.cur) (s.rs 1).toNat 64 = false ∧ freeEngine s (dieOf s.cur) = some 15 ∧
    freeEngine (engines 16) (dieOf s.cur) = none ∧ (8#6).toNat % 2 = 0 ∧ (60#6).toNat < 62 ∧ 62 ≤ (62#6).toNat ∧ (61#6).toNat % 2 = 1 ∧
    shape 8 ∧ shape 6 ∧ ¬shape 0 ∧ ¬shape 10 ∧ (shapeRows (s.rs 1).toNat (s.rs 2).toNat (s.rs 8).toNat (s.rs 9).toNat).length = 1 ∧
    (∀ r ∈ shapeRows (s.rs 1).toNat (s.rs 2).toNat (s.rs 8).toNat (s.rs 9).toNat, destIllegal s (spaceOf s s.cur) r.1 r.2.2 = false) ∧
    ElemType.s32 ≠ .u32 ∧ ¬(ElemType.u32 = .s32 ∨ ElemType.u32 = .s64) ∧
    ((s.modMe fun c => { c with mid := .none }).me).mid = .none ∧ (s.rs 8).toNat % 64 = 0 ∧ (s.rs 5).toNat % 64 ≠ 0 ∧
    (s.setH 3 (.pending 7)).me.getH 3 = .pending 7 ∧ (mesh.die 0).triggers = [] := by
  and_intros <;> decide +kernel

theorem witness_EngineInstructions_near :
    Direct (some (spaceOf (engines 15) 0)) ((engines 15).rs 1).toNat 64 ∧ Direct (some (spaceOf (engines 15) 0)) ((engines 15).rs 2).toNat 64 ∧
    ∀ r ∈ shapeRows ((engines 15).rs 1).toNat ((engines 15).rs 2).toNat ((engines 15).rs 8).toNat ((engines 15).rs 9).toNat,
      Direct (some (spaceOf (engines 15) 0)) r.1 r.2.2 ∧ Direct (some (spaceOf (engines 15) 0)) r.2.1 r.2.2 := by
  have h1 : Direct (some (spaceOf (engines 15) 0)) ((engines 15).rs 1).toNat 64 := fun x h => by cases h; exact .inr (by decide +kernel)
  have h2 : Direct (some (spaceOf (engines 15) 0)) ((engines 15).rs 2).toNat 64 := fun x h => by cases h; exact .inr (by decide +kernel)
  refine ⟨h1, h2, fun r hr => ?_⟩
  have e : shapeRows ((engines 15).rs 1).toNat ((engines 15).rs 2).toNat ((engines 15).rs 8).toNat ((engines 15).rs 9).toNat =
      [(((engines 15).rs 1).toNat, ((engines 15).rs 2).toNat, 64)] := by decide +kernel
  rw [e, List.mem_singleton] at hr
  subst hr
  exact ⟨h1, h2⟩

/-- A record that arms on counter 0 reaching 1 and adds 5 to counter 1, in the context's vault. -/
def triggerWord : Nat := 5 + 2 ^ 16 * 1 + 2 ^ 64 + 2 ^ 128 * 2 ^ 256 * 5
def arming (k : Nat) : State :=
  let s := { engines 0 with mem := (engines 0).mem.writeN vault0 (natToBytes 64 triggerWord) }
  s.modDie 0 fun d => { d with triggers := (List.range k).map fun i =>
    (i, { bits := BitVec.ofNat 512 triggerWord, cid := 0, sp := spaceOf s 0, op := i }) }

theorem witness_EngineInstructions_triggers :
    (∃ s2, trigCheck (arming 0) 3 ((arming 0).rs 4).toNat = .ok (BitVec.ofNat 512 triggerWord, s2) ∧ (s2.die 0).triggers = [] ∧
      (SMap.getD (s2.die 0).counters (triggerWord / 2 ^ 8 % 2 ^ 8) 0#64).toNat < triggerWord / 2 ^ 64 % 2 ^ 64) ∧
    (∃ r s2, trigCheck (arming 1024) 3 ((arming 1024).rs 4).toNat = .ok (r, s2) ∧ 1024 ≤ (s2.die 0).triggers.length) ∧
    (∃ t, ((arming 1).die (dieOf (arming 1).cur)).triggers = [(0, t)] ∧ t.fired = false ∧ t.bits.toNat / 2 ^ 0 % 2 ^ 8 = 5 ∧
      t.bits.toNat / 2 ^ 8 % 2 ^ 8 = (0#8).toNat ∧ t.bits.toNat / 2 ^ 16 % 2 ^ 8 ≠ (0#8).toNat ∧
      t.bits.toNat / 2 ^ 64 % 2 ^ 64 ≤ (1#64 : Word).toNat) := by
  refine ⟨⟨_, rfl, ?_, ?_⟩, ⟨_, _, rfl, ?_⟩, ⟨_, rfl, ?_, ?_, ?_, ?_, ?_⟩⟩ <;> decide +kernel

/-- Handles complete, pending and idle; token 0xFFF of each kind; an operation that moves data; a waiting copy; a posted request;
a context that waits for a remote load; a held completion store. -/
def handled (o : EngOp) (h : Handle) : State :=
  let s := (at_ 0 [(1, 0x1FFF#64), (2, 0x2FFF#64), (3, 0x10FFF#64), (4, 0x101FFF#64)]).modMe fun c =>
    ((c.setH 1 (.complete 5#64 .die)).setH 2 (.pending 9)).setH 3 .idle
  let s := s.modDie 0 fun d => { d with tokens := [(0xFFF, { gen := 1, h := h })] }
  { s with ops := [(9, o)] }

/-- A copy of one byte at the ends of two sectors, and one of a sector into a filling tile. -/
def moving : EngOp := { kind := .copy, die := 0, engine := 0, stage := 2, src := [(vault0 + 63, 1)], dst := [(vault0 + 64, 1)], snap := [0#8],
                        total := 1 }
def arriving : EngOp := { kind := .copy, die := 0, engine := 0, stage := 2, src := [(vault0, 64)], dst := [(vault0 + 1024, 64)],
                          snap := List.replicate 64 0#8, total := 64, tileDst := some (0, 5) }

theorem witness_HandlesAndEngineEvents :
    let s := handled moving (.complete 6#64 .die)
    let named := fun tok : Nat => tok / 2 ^ 20 = 0 ∧ tok / 2 ^ 16 % 16 = dieOf s.cur
    let clean := s.upsets = [] ∧ s.poison = [] ∧ s.races = [] ∧ s.homeq = [] ∧ s.tiles = []
    Settled s (coreOf s.cur) ∧ s.me.getH 1 = .complete 5#64 .die ∧ named (s.rs 1).toNat ∧
    SMap.getD (s.die 0).tokens ((s.rs 1).toNat % 4096) {} = { gen := (s.rs 1).toNat / 2 ^ 12 % 16, h := .complete 6#64 .die } ∧
    named (s.rs 2).toNat ∧ (SMap.getD (s.die 0).tokens ((s.rs 2).toNat % 4096) {}).gen ≠ (s.rs 2).toNat / 2 ^ 12 % 16 ∧
    ¬named (s.rs 3).toNat ∧ ¬named (s.rs 4).toNat ∧ s.me.getH 2 = .pending 9 ∧ s.me.getH 3 = .idle ∧
    (SMap.getD (s.die 0).tokens ((s.die 0).tokNext % 4096) {}).h = .idle ∧ s.me.getH 1 ≠ .idle ∧
    SMap.getD ((handled moving (.pending 9)).die 0).tokens 0xFFF {} = { gen := 1, h := .pending 9 } ∧
    SMap.find? s.ops 9 = some moving ∧ moving.stage ≠ 3 ∧ s.graphs = [] ∧ stepOfOp s 9 = none ∧
    (∀ p ∈ s.dies, p.2.waiting = [] ∧ p.2.triggers = []) ∧ clean ∧ s.pend = [] ∧ (∀ p ∈ s.dies, p.2.images = []) ∧
    moving.stage = 2 ∧ moving.kind = .copy ∧ moving.run = none ∧ moving.ord = false ∧ moving.freed = false ∧ moving.tileSrc = none ∧ moving.tileDst = none ∧ moving.dest = .none ∧
    moving.src = [(vault0 + 63, 1)] ∧ moving.dst = [(vault0 + 64, 1)] ∧ 0 < 1 ∧ (vault0 + 63) % 64 + 1 ≤ 64 ∧ (vault0 + 64) % 64 + 1 ≤ 64 ∧
    regionOf (vault0 + 63) = 1 ∧ regionOf (vault0 + 64) = 1 ∧ (∀ x ∈ [vault0 + 63, vault0 + 64], refusesUnit s moving.die (.vault x) = false ∧
      parkedAt s (.vault x) = none) ∧
    moving.snap = s.mem.readN (vault0 + 63) 1 := by
  refine ⟨⟨?_, ?_, ?_⟩, ?_⟩
  all_goals and_intros
  all_goals decide +kernel

theorem witness_HandlesAndEngineEvents_events :
    let s := (handled arriving .idle).modTile 5 fun t => { t with st := .filling, base := 1024, size := 64, expect := 64 }
    let w : Waiting := { op := 8, sp := some (spaceOf s 0), cid := 0, scope := .die, dst := 0xFF0FF0000040, src := 0xFF0FF0000000, len := 64, dest := .none }
    let q := { s with homeq := [{ sector := 0, core := 0, writer := 0, mask := 2 ^ 63, bytes := List.replicate 64 1#8 }] }
    let f : Deferred := { unit := 0, addr := vault0 + 56, value := 7 }
    let u := { sup with deferred := [{ unit := 0, addr := vault0, value := 1 }, f] }
    SMap.find? s.ops 9 = some arriving ∧ arriving.done < arriving.total ∧
    slicePieces arriving.dst arriving.done (min 256 (arriving.total - arriving.done)) = (vault0 + 1024, 64) :: [] ∧
    arriving.freed = false ∧ refusesUnit s arriving.die (keyLoc (vault0 + 1024)) = false ∧ heldAt s .store (keyLoc (vault0 + 1024)) = none ∧
    (s.tile (0 * 128 + 5)).st = .filling ∧ (s.tile (0 * 128 + 5)).arrived + 64 ≤ (s.tile (0 * 128 + 5)).expect ∧
    (∃ bs s1, engineRead readOps s arriving.die arriving.req none (slicePieces arriving.src arriving.done 64) = .ok (bs, s1) ∧
      (arriving.snap.drop arriving.done).take 64 = bs ∧ bs.length = 64) ∧
    ((s.modDie 0 fun d => { d with waiting := [w] }).die 0).waiting = w :: [] ∧ freeEngine { s with ops := [] } 0 = some 0 ∧
    (∃ r rs, q.homeq = r :: rs ∧ r.bytes.length = 64 ∧ q.races.length ≤ 16384 ∧ rowGone q r.sector = false ∧ r.dev = false) ∧
    (let r : HomeReq := { sector := 0, core := 0, writer := 0, mask := 2 ^ 63, bytes := List.replicate 64 1#8, dev := true }
     writeHeld { q with homeq := [] } r.sector = none ∧ r.dev = true) ∧
    rowGone (s.modBank 0 fun b => { b with shmode := 1 }) ((2 ^ 26 + 2 ^ 10 * 3072) / 64) = true ∧
    rowGone (s.modBank 0 fun b => { b with shmode := 1 }) ((2 ^ 26 + 2 ^ 10 * 3071) / 64) = false ∧
    (let x := (s.modCtx 1 fun c => { c with st := .blocked, mid := .waiting 6, wake := .remote 0 false 0 }).modDie 0 fun d =>
       { d with remotes := [(1, 0)] }
     (x.die (dieOf 1)).remotes.find? (fun y => y.1 == 1) = some (1, (x.ctx 1).incarnation) ∧ (∀ p ∈ x.dies, p.2.images = []) ∧
     (x.ctx 1).st = .blocked ∧ (x.ctx 1).mid = .waiting 6 ∧ (x.ctx 1).wake.kind = 6) ∧
    u.deferred[1]? = some f ∧ (u.deferred.take 1).all (fun y => y.addr != f.addr) = true ∧
    storeWaits { u with deferred := [] } f.addr = false ∧ regionOf f.addr = 1 ∧ f.addr % 8 = 0 ∧
    f.after = .none ∧ refusesUnit u f.unit (.vault f.addr) = false := by
  refine ⟨?_, ?_, ?_, ?_, ?_, ?_, ?_, ?_, ⟨_, _, rfl, ?_, ?_⟩, ?_, ?_, ⟨_, _, rfl, ?_⟩, ?_, ?_, ?_, ?_⟩
  all_goals and_intros
  all_goals decide +kernel

theorem witness_HandlesAndEngineEvents_near : Direct (some (spaceOf mesh 0)) 0xFF0FF0000040 64 ∧
    Direct (some (spaceOf mesh 0)) 0xFF0FF0000000 64 ∧ Direct none 0 64 ∧ Committable mesh :=
  ⟨fun x h => by cases h; exact .inr (by decide),
    fun x h => by cases h; exact .inr (by decide), (fun _ h => absurd h (by simp)), committable_mesh⟩


/-- Group 63 of D0 with generation 15 and the last two banks, and its number, specs, a legal program and a configuration; the
bytes at s4 are zeros, a descriptor among others. -/
def ranks (steps : List RStep) (mid : Mid := .none) : State :=
  let s := (at_ 0 [(1, 0xF03F#64), (2, 0x905FE#64), (3, 0x90400#64), (4, 0xFF0FF0000000#64), (5, 256#64), (6, 257#64), (7, 0xE03F#64),
    (8, BitVec.ofNat 64 (2 + 8 * 4 + 127 * 64)), (9, 0xFF0FF0000008#64)]).modMe fun c => { c with mid := mid }
  s.modDie 0 fun d => { d with groups := [(63, { en := true, gen := 15, first := 1534, log2 := 1, steps := steps })] }

/-- A step of group 63, in a phase. -/
def rstep (ph : StepPhase) (bits : BitVec 512 := 0) : RStep := { op := 7, bits := bits, gen := 15, phase := ph }

theorem witness_RankGroups :
    let s := ranks []
    let spec := fun w : Nat => w / 2 ^ 11 % 2 ^ 5 = 0 ∧ w / 2 ^ 20 = 0 ∧ w / 2 ^ 16 % 16 ≤ 9 ∧ w % 2 ^ 11 % 2 ^ (w / 2 ^ 16 % 16) = 0 ∧
      w % 2 ^ 11 + 2 ^ (w / 2 ^ 16 % 16) ≤ 1536
    let names := fun (w : Nat) (i : Nat) => w % 2 ^ 6 = i ∧ w / 2 ^ 6 % 4 = 0 ∧ w / 2 ^ 8 % 16 = 0 ∧
      w / 2 ^ 12 % 16 = (groupAt s 0 i).gen ∧ w / 2 ^ 16 = 0 ∧ (groupAt s 0 i).en = true
    let tree := fun (c : Nat) => c / 2 ^ 13 = 0 ∧ c % 4 ≠ 3 ∧ c / 4 % 16 < 9 ∧ (c / 4 % 16 = 5 → c / 64 % 128 % 2 = 1) ∧
      (6 ≤ c / 4 % 16 → c / 64 % 128 = 127)
    dieOf s.cur = 0 ∧ spec (s.rs 3).toNat ∧ spec 1535 ∧ ¬spec (s.rs 2).toNat ∧ ¬spec 1536 ∧ ¬spec 0xA0000 ∧
    (∀ i, i < 63 → (groupAt s 0 i).en = false) ∧ names (s.rs 1).toNat 63 ∧ (∀ i, i < 64 → ¬names (s.rs 7).toNat i) ∧
    (groupAt s 0 63).steps = [] ∧ (groupAt (ranks [rstep .armed]) 0 63).steps ≠ [] ∧ s.me.mid = .none ∧ 0 < (s.rs 5).toNat ∧
    (s.rs 5).toNat ≤ 256 ∧ (s.rs 4).toNat % 8 = 0 ∧ 256 < (s.rs 6).toNat ∧ (s.rs 6).toNat % 8 ≠ 0 ∧ (s.rs 0).toNat = 0 ∧
    (match loadWords s (s.rs 4).toNat 2 with | .ok (_, s1) => s1.cur == s.cur | .error _ => false) = true ∧
    tree (s.rs 8).toNat ∧ ¬tree (4 * 5 + 64 * 6) ∧ ¬tree 3 ∧ ¬tree (9 * 4) ∧ (s.rs 4).toNat % 64 = 0 ∧ (s.rs 9).toNat % 64 ≠ 0 ∧
    (match translate s s.cur .store .own (s.rs 4).toNat 64 0 with | .ok (p, _) => p.tide == false && p.loc == .vault vault0 | .error _ => false)
      = true ∧
    (ranks [] (.result 2)).me.mid = .result 2 ∧ (ranks [] .released).me.mid = .released ∧ s.me.node = none ∧
    (match rstepCheck (ranks [] .released) 1 (s.rs 1) (s.rs 4).toNat with
      | .ok (e, _, _, s1) => e == 63 && s1.cur == s.cur && decide ((groupAt s1 0 e).steps.length < 8) | .error _ => false) = true ∧
    (match rstepCheck (ranks (List.replicate 8 (rstep .armed)) .released) 1 (s.rs 1) (s.rs 4).toNat with
      | .ok (e, _, _, s1) => decide (8 ≤ (groupAt s1 0 e).steps.length) | .error _ => false) = true := by
  and_intros <;> decide +kernel

/-- Every group of D0 allocated; and a program on its way to one bank, fenced or not, with a context that waits for it. -/
def fullTable : State := (at_ 0 [(1, 0#64)]).modDie 0 fun d => { d with groups := (List.range 64).map fun e => (e, { en := true }) }
def copying (fenced : Bool) : State :=
  let s := ((ranks []).modCtx 0 fun c => { c with st := .stalled, mid := .waiting 322 }).modBank 1535 fun b => { b with fenced := fenced }
  s.modDie 0 fun d => { d with nloads := [{ cid := 0, group := 0xF03F, words := [1], first := 1534, size := 2 }] }

theorem witness_RankGroups_ends : (∀ i, i < 64 → (groupAt fullTable 0 i).en = true) ∧ fullTable.rs 1 = 0#64 ∧
    (∀ f, ∃ job, ((copying f).die (dieOf 0)).nloads = [job] ∧ job.cid = 0 ∧ ((copying f).ctx 0).mid = .waiting 322 ∧
      ((copying f).ctx 0).st = .stalled ∧ job.size = 2 ∧ ((copying f).bank (0 * 1536 + job.first + 1)).fenced = f ∧
      ((copying f).bank (0 * 1536 + job.first)).fenced = false ∧ (namedGroup (copying f) (dieOf 0) job.group).isSome = true ∧
      (namedGroup (State.modDie (copying f) 0 fun d => { d with groups := [] }) (dieOf 0) job.group).isNone = true) := by
  refine ⟨by decide +kernel, by decide +kernel, fun f => ⟨_, rfl, ?_⟩⟩
  cases f <;> decide +kernel

theorem witness_RankStatus :
    let s := ranks [rstep .publish]
    let w := (s.rs 1).toNat
    let x := groupAt s (dieOf s.cur) 63
    w % 2 ^ 6 = 63 ∧ w / 2 ^ 6 % 4 = 0 ∧ w / 2 ^ 8 % 16 = dieOf s.cur ∧ w / 2 ^ 12 % 16 = x.gen ∧ w / 2 ^ 16 = 0 ∧ x.en = true ∧
    (0#32).toNat ≤ 3 ∧ 3 < (4#32).toNat ∧ (match x.steps with | [] => false | st :: _ => st.phase == .publish) = true := by decide +kernel

/-- Group 63 with its step in a phase: its members hold its number as program, but for one that is fenced or holds another; the
first newt's next word is this. -/
def stepping (st : RStep) (w : Nat) (fenced other : Bool) : State :=
  let s := ranks [st]
  let s := s.modBank 1534 fun b => { b with progTag := some 0xF03F, prog := [(0, BitVec.ofNat 64 w)], newt := { pc := 0, halted := false, busy := [2, 9] },
                                            shadows := if st.phase = .publish then [(65535, { prow := 0, cells := [(1023, 1)] })] else [] }
  let s := s.modBank 1535 fun b => { b with progTag := some (if other then 0xE03F else 0xF03F), fenced := fenced, newt := { halted := true } }
  { s with time := 2048 }

/-- A word whose second move is guarded out as the statement has it. -/
def newtWordOf (lo : Nat) : Nat := lo + (0xFF * 2 ^ 13 + 2 ^ 12) * 2 ^ 32
/-- SHIFT by 1 of one row, and a flood's timeout of one unit. -/
def shiftBits : BitVec 512 := BitVec.ofNat 512 (1 + 2 ^ 20 + 2 ^ 80 + 65535 * 2 ^ 96 + 2 ^ 112)

theorem witness_RankSteps :
    (∀ f o, ∃ st, (groupAt (stepping (rstep .armed) 0 f o) 0 63).steps = st :: [] ∧ st.phase = .armed ∧ st.node = none ∧
      overdue (stepping (rstep .armed) 0 f o) 0 63 = none ∧ (stepping (rstep .armed) 0 f o).homeq = [] ∧
      (stepping (rstep .armed) 0 f o).races = [] ∧ mayLeave (stepping (rstep .armed) 0 f o) 0 63 = true) ∧
    mayLeave (stepping (rstep .flood) 0 false false) 0 63 = false ∧
    (let s := stepping (rstep .armed) 0 false false
     ∀ i, i < 2 ^ 1 → (s.bank (0 * 1536 + 1534 + i)).fenced = false ∧ (s.bank (0 * 1536 + 1534 + i)).progTag = some (63 + 0 * 2 ^ 8 + 15 * 2 ^ 12)) ∧
    (let s := stepping (rstep .armed) 0 true false
     (s.bank (0 * 1536 + 1534 + 0)).fenced = false ∧ (s.bank (0 * 1536 + 1534 + 1)).fenced = true) ∧
    (let s := stepping (rstep .armed) 0 false true
     (s.bank (0 * 1536 + 1534 + 1)).fenced = false ∧ (s.bank (0 * 1536 + 1534 + 1)).progTag ≠ some (63 + 15 * 2 ^ 12)) := by
  refine ⟨?_, ?_, ?_, ?_, ?_⟩
  · intro f o; cases f <;> cases o <;> exact ⟨_, rfl, rfl, rfl, by decide +kernel, by decide +kernel, by decide +kernel, by decide +kernel⟩
  all_goals decide +kernel

theorem witness_RankSteps_words :
    ∀ w ∈ [newtWordOf (31 * 2 ^ 13 + 2 ^ 12 + 4095), newtWordOf (0x91 * 2 ^ 13 + 2 ^ 12), newtWordOf (0x25 * 2 ^ 13 + 2 ^ 12)],
    ∀ bits ∈ [0#512, shiftBits],
    let s := stepping (rstep .flood bits) w false false
    ∃ x, floodAt s 1534 = some x ∧ groupAt s x.die x.entry = x.grp ∧ x.rank = 0 ∧ (s.bank 1534).newt.halted = false ∧
      overdue s x.die x.entry = none ∧ (s.bank 1534).newt.last ≤ newtCycles s ∧
      SMap.getD (s.bank 1534).prog (s.bank 1534).newt.pc 0#64 = BitVec.ofNat 64 w ∧ (s.bank 1534).newt.pc < 255 ∧
      (∀ i, i < 2 ^ x.grp.log2 → x.die * 1536 + x.grp.first + i ≠ 1534 → (s.bank (x.die * 1536 + x.grp.first + i)).newt.halted = true) ∧
      stepColl x.step.bits = (if bits = 0 then 0 else 1) ∧ x.grp.steps = [x.step] ∧ x.step.node = none := by
  intro w hw b hb
  simp only [List.mem_cons, List.not_mem_nil, or_false] at hw hb
  rcases hw with rfl | rfl | rfl <;> rcases hb with rfl | rfl <;>
    (refine ⟨_, rfl, rfl, rfl, rfl, ?_, ?_, rfl, ?_, ?_, ?_, rfl, rfl⟩ <;> decide +kernel)

theorem witness_RankSteps_ends :
    (let s := stepping (rstep .move shiftBits) 0 false false
     let g := groupAt s 0 63
     ∃ st rest, g.steps = st :: rest ∧ st.phase = .move ∧ overdue s 0 63 = none ∧ stepColl st.bits = 1 ∧ s.upsets = [] ∧ s.poison = [] ∧
       (moveRows s 0 g (transfers s 0 g st)).isOk = true ∧ 1 < 2 ^ g.log2 ∧ 0 < stepSrows st.bits ∧ stepSbase st.bits + 0 < 65536 ∧
       stepRbase st.bits + stepSrows st.bits ≤ 65536) ∧
    (let s := stepping (rstep .publish) 0 false false
     ∃ st dr sh, (groupAt s 0 63).steps = st :: [] ∧ st.phase = .publish ∧ st.node = none ∧ st.cwpa = none ∧ s.pend = [] ∧ s.homeq = [] ∧
       (∀ p ∈ s.dies, p.2.images = []) ∧ 0 < 2 ^ (groupAt s 0 63).log2 ∧ 0 * 1536 + (groupAt s 0 63).first + 0 = 1534 ∧
       (s.bank 1534).shadows = [(dr, sh)] ∧ dr < 65536 ∧ (s.bank (0 * 1536 + (groupAt s 0 63).first + 1)).shadows = []) ∧
    (∀ k ∈ [1, 2], let s := stepping (rstep .flood (BitVec.ofNat 512 (k * 2 ^ 32))) 0 false false
     ∃ st, (groupAt s 0 63).steps = [st] ∧ st.node = none ∧ st.phase ≠ .publish ∧ stepTimeout st.bits = k ∧
       (st.since + 1024 * stepTimeout st.bits ≤ newtCycles s ↔ k = 1)) ∧
    (∀ l ∈ [[2 ^ 32 - 1, 0], [1, 5]], l.length = 2 ∧ ∀ y ∈ l, y < 2 ^ 32) := by
  refine ⟨⟨_, _, rfl, rfl, ?_⟩, ⟨_, _, _, rfl, rfl, rfl, rfl, rfl, rfl, ?_, ?_, rfl, rfl, ?_, rfl⟩, ?_, by decide⟩
  · decide +kernel
  · decide +kernel
  · decide +kernel
  · decide +kernel
  · intro k hk
    simp only [List.mem_cons, List.not_mem_nil, or_false] at hk
    rcases hk with rfl | rfl <;> exact ⟨_, rfl, rfl, by decide +kernel, by decide +kernel, by decide +kernel⟩

theorem witness_RankSteps_commit : Committable (stepping (rstep .publish) 0 false false) :=
  ⟨rfl, fun _ => rfl, by decide +kernel, fun _ h => nomatch h⟩


/-- A node record: a TASK of D0 with no successor, no crew and no completion word; with more in it. -/
def record (more : Nat) : Nat := 0xFFFFFFFFFFFFFFFF * 2 ^ 128 * 2 ^ 256 + more
/-- A state with this pool on D0 and a graph 1 whose page table at 0x10000 maps the first 2 MiB, and firmware in force. -/
def pooled (s : State) (pool : List (Nat × Node)) : State :=
  let s := { s with
    mem := ((s.mem.writeN 0x10000 (natToBytes 8 0x11001)).writeN 0x11000 (natToBytes 8 0x12001)).writeN 0x12000 (natToBytes 8 0xF)
    graphs := [(1, { die := 0, asid := 0, troot := 0x10, codeBase := 0, codeLim := 4096, op := 90 })]
    nextOp := 100
    pkg := { s.pkg with firmware := some 0 } }
  s.modDie 0 fun d => { d with pool := pool }
/-- A node of graph 1. -/
def node (uid bits : Nat) (st : NodeSt := .ready) (left : Nat := 1) (succ : List (Nat × Nat) := []) : Node :=
  { uid := uid, bits := BitVec.ofNat 512 bits, graph := 1, st := st, left := left, succ := succ }

/-- A task's context with node 0 that holds a page of DRAM, released; nodes 1 and 2 wait, node 3 has eight edges. -/
def tasked : State :=
  let s := (at_ 0 [(1, 1#64), (2, 2#64), (3, 3#64), (4, 4#64)]).modCore 0 fun c =>
    { c with tlb := [{ asid := 0, va := 0, log2 := 16, oa := 0, attrs := 15 }] }
  let s := s.modCtx 0 fun c => { c with node := some 0, mid := .released }
  let s := { s with mem := s.mem.writeN 64 (natToBytes 64 (record 0)) }
  pooled s [(0, node 10 (record 0) .running), (1, node 11 (record 0) .waiting), (2, node 12 (record 0) .waiting),
    (3, node 13 (record 0) .waiting 1 (List.replicate 8 (1, 11)))]

theorem witness_GraphInstructions :
    isSup sup.cur = true ∧ isSup tasked.cur = false ∧ tasked.me.rep.body = [] ∧ (∀ r : HReg, tasked.me.getH r = .idle) ∧
    tasked.me.windows = [] ∧ (tasked.setH 31 (.pending 5)).me.getH 31 = .pending 5 ∧ unpublished tasked tasked.cur = none ∧
    (unpublished (tasked.modCore 0 fun c => { c with tidal := [{ ctx := 0, inc := 0, sector := 5, mask := 1, bytes := List.replicate 64 0#8 }] }) 0).isSome
      = true ∧
    tasked.me.mid = .released ∧ (tasked.gang (gangOf tasked.cur)).members = [] ∧ tasked.me.node = some 0 ∧
    (∃ x, nodeAt tasked 0 = some x ∧ nodeKind x.bits ≠ 1 ∧ x.cwpa = none) ∧ mesh.me.mid = .none ∧ mesh.me.node = none ∧
    (match gnodeCheck tasked 64 with | .ok (w, s2) => w.die == 0 && (myNode s2).isOk && !dieOut s2 w.die | .error _ => false) = true ∧
    (∃ y z, nodeAt tasked 1 = some y ∧ nodeAt tasked (tasked.rs 2).toNat = some z ∧ y.graph = 1 ∧ z.graph = 1 ∧ y.finished = false ∧ y.succ.length < 8 ∧
      z.st ≠ .running) ∧ (∃ y, nodeAt tasked 3 = some y ∧ y.finished = false ∧ 8 ≤ y.succ.length) ∧ nodeAt tasked 4 = none ∧
    (∃ g, SMap.find? tasked.graphs 1 = some g ∧ 4 ∉ g.gone) ∧ (gsubCheck tasked 1 64).isOk = true ∧
    (match gsubCheck tasked 1 64 with
      | .ok (r, _) => decide (descFld r 48 13 = 0) | .error _ => false) = true ∧
    (4096 < (4097 : Nat)) ∧ (1 ≤ (1#32).toNat ∧ (640#32).toNat ≤ 640) ∧ SMap.find? (tasked.die 0).crews 1 = none ∧
    640 < (641#32).toNat ∧
    ((tasked.modDie 0 fun d => { d with succMsgs := [(1, 11)] }).die 0).succMsgs = (1, 11) :: [] ∧
    (∃ x, SMap.find? ((pooled tasked [(4095, node 1 0)]).die 0).pool 4095 = some x ∧ x.st = .ready) := by
  refine ⟨?_, ?_, ?_, ?_, ?_, ?_, ?_, ?_, ?_, ?_, ?_, ⟨_, rfl, ?_, rfl⟩, ?_, ?_, ?_, ⟨_, _, rfl, rfl, ?_, ?_, rfl, ?_, ?_⟩, ⟨_, rfl, rfl, ?_⟩, ?_, ⟨_, rfl, ?_⟩,
    ?_, ?_, ?_, ?_, ?_, ?_, ?_, ⟨_, rfl, ?_⟩⟩ <;> decide +kernel

/-- Which of its two completions a GNODE takes depends on the size of the pool, which the spec leaves open. -/
theorem witness_GraphInstructions_pool (s : State) : freeEntry s 0 = none ∨ ∃ e, freeEntry s 0 = some e := by
  cases freeEntry s 0 <;> simp

/-- A GNODE in a graph that goes on and in one that has halted; a finished predecessor; and a graph whose reading must wait at a
bank that changes its mode, or need not. -/
theorem witness_GraphInstructions_graph :
    graphHalted tasked 1 = false ∧
    graphHalted { tasked with graphs := [(1, { die := 0, asid := 0, troot := 0, codeBase := 0, codeLim := 4096, op := 90, halted := true })] } 1
      = true ∧
    ({ node 11 (record 0) with finished := true } : Node).finished = true ∧
    (let s := pooled mesh []
     let by_ : Submitter := { die := 0, sys := false, asid := 0, troot := 0x10, run := none }
     let desc : BitVec 512 := BitVec.ofNat 512 (0x2000 + 2 ^ 48 + 2 ^ 140 * 0x10)
     (submitGraph (s.modBank (bankKey 0x10000) fun b => { b with shBusy := true }) by_ desc 5 .none).1 = 0x100 ∧
     (submitGraph s by_ desc 5 .none).1 ≠ 0x100) ∧
    descFld 0 48 13 = 0 ∧ descFld 0 320 48 = 0 ∧ 4096 < descFld (BitVec.ofNat 512 (4097 * 2 ^ 48)) 48 13 ∧
    descFld (BitVec.ofNat 512 (63 + 2 ^ 48)) 0 6 ≠ 0 := by
  and_intros <;> decide +kernel

/-- What a die's pool has free of a graph's first record, whose entry 0 is free, whatever the pool's size. -/
theorem allots_first (s : State) (home : Nat) (r : BitVec 512) (h : dieRefusesNodes s (nodeDie r home) = false)
    (free : SMap.find? (s.die (nodeDie r home)).pool 0 = none) :
    allotEntries s home [r] [] = some [nodeNumber (nodeDie r home) 0] := by
  obtain ⟨k, hk⟩ : ∃ k, Config.poolSize = k + 1 := ⟨Config.poolSize - 1, by unfold Config.poolSize; omega⟩
  simp [allotEntries, h, hk, List.range_succ_eq_map, free]

/-- The state with the graph of one record entered in entry 0 of its die. -/
def entered (s : State) (by_ : Submitter) (b r : BitVec 512) (op : Nat) (dest : Dest) : State :=
  let x : Graph := {
    die := by_.die, asid := descFld b 64 16, troot := descFld b 140 36, codeBase := descFld b 192 48, codeLim := descFld b 256 48,
    cwpa := none, cwseq := descFld b 384 64, op := op, dest := dest, run := by_.run }
  enterNode { s with nextOp := s.nextOp + 1 + 1, graphs := SMap.put s.graphs s.nextOp x } (nodeNumber (nodeDie r by_.die) 0) r
    s.nextOp (nodeDcnt r) ((nodeSucc r).map fun j => ([nodeNumber (nodeDie r by_.die) 0].getD j 0, s.nextOp + 1 + j)) none
    (s.nextOp + 1 + 0)

/-- A graph of one legal record without a completion word is accepted where entry 0 of its die is free. -/
theorem submits {s s1 : State} {by_ : Submitter} {b r0 r : BitVec 512} (op : Nat) (dest : Dest)
    (read : readRecords s (spaceOfGraph by_.die (descFld b 64 16) (descFld b 140 36)) by_.run (descFld b 0 48) (descFld b 48 13)
      = .ok ([r0], s1))
    (home : (if by_.run.isSome then homeRecord r0 else r0) = r)
    (ok : (!nodeCw r && descFld b 320 48 == 0 && descOk b && (by_.sys || (descFld b 64 16 == by_.asid && descFld b 140 36 == by_.troot))
      && recordsOk s1 by_.die by_.sys [r] && crewsOk s1 by_.die [r] && !dieRefusesNodes s1 (nodeDie r by_.die)
      && (SMap.find? (s1.die (nodeDie r by_.die)).pool 0).isNone) = true) :
    submitGraph s by_ b op dest = (0, entered s1 by_ b r op dest) := by
  simp only [Bool.and_eq_true, Bool.not_eq_true', beq_iff_eq, Option.isNone_iff_eq_none] at ok
  obtain ⟨⟨⟨⟨⟨⟨⟨cw, g⟩, dok⟩, own⟩, rok⟩, cok⟩, out⟩, free⟩ := ok
  have rs : (if by_.run.isSome then [r0].map homeRecord else [r0]) = [r] := by
    rw [← home]; split <;> rfl
  have cws : readCws s1 (spaceOfGraph by_.die (descFld b 64 16) (descFld b 140 36)) [r] = .ok ([none], s1) := by
    simp [readCws, cw, pure, Except.pure, bind, Except.bind]
  unfold submitGraph
  simp only [read, bind, Except.bind, rs, cws, g, if_true, dok, own, rok, cok, Bool.not_true, Bool.or_false, Bool.false_eq_true,
    if_false, allots_first s1 by_.die r out free]
  rfl

/-- A descriptor of one record at 0x2000 and code below 4,096, with its table root. -/
def desc : Nat := 0x2000 + 2 ^ 48 + 2 ^ 140 * 0x10 + 2 ^ 256 * 4096
/-- A task in that graph's address space whose descriptor stands at 128, and its record where the graph's table maps it. -/
def submitting : State :=
  let s := ((at_ 0 [(1, 128#64)]).modCore 0 fun c => { c with tlb := [{ asid := 0, va := 0, log2 := 16, oa := 0, attrs := 15 }] }).modCtx 0
    fun c => { c with node := some 5, mid := .released, troot := 0x10000 }
  let s := { s with mem := (s.mem.writeN 128 (natToBytes 64 desc)).writeN 0x2000 (natToBytes 64 (record 0)) }
  pooled s [(5, node 10 (record 0) .running)]

theorem witness_GraphInstructions_accepted : submitting.me.mid = .released ∧ ∃ rec s2 s4,
    gsubCheck submitting 1 (submitting.rs 1).toNat = .ok (rec, s2) ∧
    submitGraph { s2 with nextOp := s2.nextOp + 1 }
      { die := dieOf submitting.cur, sys := sysEnabled submitting.cur, asid := submitting.me.asid.toNat % 2 ^ 16,
        troot := submitting.me.troot.toNat / 2 ^ 12 % 2 ^ 36, run := runOf submitting submitting.cur } rec s2.nextOp .none = (0, s4) ∧
    (0 : Nat) ≠ 0x100 :=
  ⟨rfl, _, _, _, rfl, submits _ _ rfl rfl (by decide +kernel), by decide⟩

/-- The member of a gang task that two members have yet to leave. -/
theorem witness_GraphInstructions_gang :
    ∃ x, nodeAt (pooled tasked [(0, node 10 (record 1) .running 2)]) 0 = some x ∧ nodeKind x.bits = 1 ∧ 2 ≤ x.left :=
  ⟨_, rfl, by decide +kernel, by decide +kernel⟩

/-- Pools whose first candidate is a TASK, a GANGTASK, a crew of one TASK, a STEP of group 63 and a COPY of 64 bytes. -/
def pool (more : Nat) : State := pooled (ranks []) [(4, node 11 (record more))]
def crewed : State := (pool (2 ^ 16)).modDie 0 fun d => { d with crews := [(1, { size := 1, entered := 1, live := 1 })] }

theorem witness_Dispatching :
    (∃ c cs, contextCands (pool 0) 0 = c :: cs) ∧ dispatchRuns (pool 0) 0 = true ∧ (∀ i : Fin 3, classFree (pool 0) 0 i = true) ∧
    (∃ c ps x, contextPick (pool 0) 0 = some (c, ps) ∧ (ps.map (·.1)).Nodup ∧ ((ps.map (·.2)).flatten).Nodup ∧ c.crew = false ∧
      c.nodes.headD 0 = 4 ∧ ps.length = 1 ∧ nodeAt (pool 0) 4 = some x ∧ nodeKind x.bits = 0 ∧ (SMap.find? (pool 0).graphs x.graph).isSome = true) ∧
    (∃ c ks x, contextPick (pool 1) 0 = some (c, [(4, ks)]) ∧ ks.Nodup ∧ c.crew = false ∧ c.nodes.headD 0 = 4 ∧
      nodeAt (pool 1) 4 = some x ∧ nodeKind x.bits = 1 ∧ ks.length = 8) ∧
    (∃ c ps, contextPick crewed 0 = some (c, ps) ∧ c.crew = true ∧ ps.map (·.1) = [4] ∧ ((ps.map (·.2)).flatten).Nodup) := by
  refine ⟨⟨_, _, rfl⟩, ?_, ?_, ⟨_, _, _, rfl, ?_, ?_, ?_, ?_, ?_, rfl, ?_, ?_⟩, ⟨_, _, _, rfl, ?_, ?_, ?_, rfl, ?_, ?_⟩, ⟨_, _, rfl, ?_, ?_, ?_⟩⟩ <;>
    decide +kernel

theorem witness_Dispatching_units :
    (let s := pool (2 + 0xF03F * 2 ^ 64 + 0x2000 * 2 ^ 128)
     ∃ x g, dispatchRuns s 0 = true ∧ kindCand s 0 2 = some 4 ∧ nodeAt s 4 = some x ∧ stepRoom s 0 x = true ∧
       SMap.find? s.graphs x.graph = some g ∧ (stepNodeCheck s 0 x g).isOk = true ∧ 4 / 4096 = 0) ∧
    (let s := pool (3 + 0x2000 * 2 ^ 64 + 0x3000 * 2 ^ 128 + 2 ^ 192 * 2 ^ 32)
     ∃ x g, dispatchRuns s 0 = true ∧ kindCand s 0 3 = some 4 ∧ nodeAt s 4 = some x ∧ freeEngine s 0 = some 0 ∧
       SMap.find? s.graphs x.graph = some g ∧ nodeFld x.bits 192 33 = 2 ^ 32) ∧
    (let s := pool (3 + 0x2000 * 2 ^ 64 + 0x3000 * 2 ^ 128 + 2 ^ 192 * 64)
     ∃ x g, nodeAt s 4 = some x ∧ SMap.find? s.graphs x.graph = some g ∧ nodeFld x.bits 192 33 ≤ 2 ^ 32 ∧
       destIllegal s (spaceOfGraph 0 g.asid g.troot) (nodeOpa x.bits) (nodeFld x.bits 192 33) = false) ∧
    (let s := pool (3 + 0xFF0FF0002000 * 2 ^ 64 + 0xFF0FF0003000 * 2 ^ 128 + 2 ^ 192 * 64)
     ∃ x g, nodeAt s 4 = some x ∧ SMap.find? s.graphs x.graph = some g ∧
       ∀ va ∈ [nodeOpa x.bits, nodeOpb x.bits], Direct (some (spaceOfGraph 0 g.asid g.troot)) va (nodeFld x.bits 192 33)) := by
  refine ⟨⟨_, _, ?_, ?_, rfl, ?_, rfl, ?_, ?_⟩, ⟨_, _, ?_, ?_, rfl, ?_, rfl, ?_⟩, ⟨_, _, rfl, rfl, ?_, ?_⟩,
    ⟨_, _, rfl, rfl, fun va h x e => ?_⟩⟩
  all_goals first
    | decide +kernel
    | (cases e; exact .inr (by revert va; decide +kernel))


/-- Queue 1023 of I/O die 0 over a ring of 16 entries at 0x1000 with its tail word, of this value, at 0x2000. -/
def queueOf (head done : Nat) : Queue :=
  { en := true, swin := true, log2n := 4, base := 0x1000, tail := 0x2000, prog := 0x2008, head := head, done := done, run := 1 }
def queued (x : Queue) (tail : Nat) (entry : Nat := 0) : State :=
  let s := setQueue sup 0 1023 x
  { s with mem := (s.mem.writeN 0x2000 (natToBytes 8 tail)).writeN (0x1000 + 64 * (x.head % 16)) (natToBytes 64 entry) }

/-- What a read of a tail or an entry ends with: the code of its fault, 0 for one that must wait, or none. -/
def readCode (r : URes (List Byte × State)) : Option Nat := match r with | .error (t, _) => some t.code | .ok _ => none
/-- Whether a read gives bytes with this property. -/
def readBytes (r : URes (List Byte × State)) (f : List Byte → Bool) : Bool := match r with | .ok (bs, _) => f bs | .error _ => false

theorem witness_QueuesAndRuns_queues :
    (0 < 2) ∧ (1023 < 1024) ∧
    (let x := ((queued {} 7).io 0).queue 1023
     let y := { x with base := 0x1000, tail := 0x2000, prog := 0x2008 }
     let s := setQueue (queued {} 7) 0 1023 y
     x.en = false ∧ bit 0x41 0 = true ∧ queueOk s 0 1023 { y with swin := bit 0x41 1, log2n := fld 0x41 4 4, hctx := fld 0x41 8 8 } = true ∧
     (ioRead s 0 y.tail 8).isOk = true ∧ queueOk s 0 1023 { y with swin := bit 0x31 1, log2n := fld 0x31 4 4, hctx := fld 0x31 8 8 } = false) ∧
    (((queued (queueOf 5 5) 5).io 0).queue 1023).en = true ∧ bit 2 0 = false ∧
    (∀ t ∈ [(5, 5, 5), (5, 5, 4), (5, 5, 6), (20, 5, 21), (20, 5, 22)],
      let s := queued (queueOf t.1 t.2.1) t.2.2
      let x := (s.io 0).queue 1023
      queuesServed s 0 = true ∧ nextQueue s 0 = some 1023 ∧ readBytes (ioRead s 0 x.tail 8) (fun bs => bytesToNat bs == t.2.2) = true) ∧
    4 < 5 ∧ (5 ≤ 22 ∧ 2 ^ 4 < 22 - 5) ∧ (21 = 20 + 1 ∧ 21 - 5 ≤ 2 ^ 4) ∧
    (let s := queued (queueOf 5 5) 6
     readBytes (ioRead s 0 (0x1000 + 64 * 5) 64) (fun bs => commandRefused s 0 (BitVec.ofNat 512 (bytesToNat bs)) == false) = true) ∧
    (let s := queued (queueOf 5 5) 6 4
     readBytes (ioRead s 0 (0x1000 + 64 * 5) 64) (fun bs => commandRefused s 0 (BitVec.ofNat 512 (bytesToNat bs)) == true) = true) ∧
    (let s := setQueue (queued (queueOf 5 5) 6) 0 1023 { queueOf 5 5 with tail := 7 * 2 ^ 42 }
     queuesServed s 0 = true ∧ nextQueue s 0 = some 1023 ∧ readCode (ioRead s 0 (7 * 2 ^ 42) 8) = some 7) ∧
    (let s := (queued (queueOf 5 5) 6).modBank 0 fun b => { b with shBusy := true }
     queuesServed s 0 = true ∧ nextQueue s 0 = some 1023 ∧ readCode (ioRead s 0 0x2000 8) = some 0) ∧
    (∀ fenced : Bool,
      let s := (queued { queueOf 5 5 with base := 2 ^ 28 } 6).modBank 2 fun b => { b with shBusy := !fenced, fenced := fenced }
      readBytes (ioRead s 0 0x2000 8) (fun bs => bytesToNat bs == 6) = true ∧
      readCode (ioRead (s.modIo 0 fun d => { d with visit := 0 }) 0 (2 ^ 28 + 64 * 5) 64) = some (if fenced then 0x2A else 0)) := by
  and_intros <;> decide +kernel

/-- A command handed over: its operation, its die D0 parked or not, and its first three operands. -/
def commanded (op a b c : Nat) (parked : Bool) (busy : Nat := 0) : State :=
  let s := (queued (queueOf 5 5) 6).modIo 0 fun d =>
    { d with cmdq := [{ q := 1023, entry := 6 + 2 ^ 64, bits := BitVec.ofNat 512 (op + a * 2 ^ 64 + b * 2 ^ 128 + c * 2 ^ 192) }] }
  let s := { s with ops := (List.range busy).map fun k => (k, { kind := .copy, die := 0, engine := k }), nextOp := 100 }
  if parked then s.modDie 0 fun d => { d with pstate := 2 } else s

theorem witness_QueuesAndRuns_commands :
    (∀ op ∈ [0, 1, 2, 3], ∀ p, ∃ c, nextCommand (commanded op 0x4000 0x5000 64 p) 0 op = some c ∧ cmdDie c.bits = 0 ∧ c.q = 1023 ∧
      ((commanded op 0x4000 0x5000 64 p).io 0).cmdq = [c] ∧ cmdCw c.bits = false) ∧
    ((commanded 1 0x4000 0 0 true).die 0).pstate = 2 ∧ ((commanded 1 0x4000 0 0 false).die 0).pstate ≠ 2 ∧
    dramLoc (commanded 1 0x4000 0 0 false) 0x4000 = some 0x4000 ∧ (readUnit (commanded 1 0x4000 0 0 false) 0 (.engine 0) 0x4000 64).isOk = true ∧
    (∃ st s3, submitGraph (commanded 1 0x4000 0 0 false) { die := 0, sys := true } 0 100 (.tranar 0 1023 (6 + 2 ^ 64)) = (st, s3) ∧ st ≠ 0 ∧ st ≠ 0x100) ∧
    dieOut (commanded 2 0 0 0 false) 0 = false ∧ freeEngine (commanded 2 0 0 0 false 15) 0 = some 15 ∧ freeEngine (commanded 2 0 0 0 false 16) 0 = none ∧
    (let s := commanded 3 0x4000 0x5000 0 false
     let z := (s.io 0).queue 1023
     0x4000 % 8 = 0 ∧ refuses s 0 (.dram 0x4000) = false ∧ bankLive s (bankKey 0x4000) = false ∧ claimedBy s none 0x4000 8 = false ∧
     heldAt s .store (.dram 0x4000) = none ∧ homeWaits (serveHome s (0x4000 / 64)) (0x4000 / 64) = false ∧ z.finished = [] ∧ z.done = 5 ∧ (6 + 2 ^ 64) / 2 ^ 64 = z.run ∧
     (6 + 2 ^ 64) % 2 ^ 64 ≠ z.done ∧ (5 + 2 ^ 64) % 2 ^ 64 = z.done) := by
  refine ⟨?_, ?_, ?_, ?_, ?_, ⟨_, _, rfl, ?_, ?_⟩, ?_⟩
  case refine_1 =>
    intro op h p
    simp only [List.mem_cons, List.not_mem_nil, or_false] at h
    rcases h with rfl | rfl | rfl | rfl <;> cases p <;> exact ⟨_, rfl, by decide +kernel, by decide +kernel, rfl, by decide +kernel⟩
  all_goals first | decide +kernel | (and_intros <;> decide +kernel)

/-- A redundant run of D0 with a state, a peer, and one pending sector of each copy. -/
def redundant (st peer : Nat) (b : Byte) (fail : Bool := false) : State :=
  let s := sup.modDie 0 fun d => { d with rx := { st := st, peer := peer, sta := some 0, stb := some 0, fail := fail, desc := 0x4000 } }
  { s with pend := [{ owner := .run 0 0, sector := 5, mask := 1, bytes := List.replicate 64 0#8 },
                    { owner := .run 0 1, sector := 5, mask := 1, bytes := List.replicate 64 b }] }

/-- A run to go on D0 and D1 of the graph of one record whose descriptor stands at 0x4000. -/
def going : State :=
  let s := pooled (redundant 0 1 0) []
  { s with mem := (s.mem.writeN 0x4000 (natToBytes 64 desc)).writeN 0x2000 (natToBytes 64 (record 0)), pend := [] }

theorem witness_QueuesAndRuns_go :
    let rx := (going.die 0).rx
    rx.st ≠ 1 ∧ rx.st ≠ 2 ∧ runAlive going 0 = false ∧ rx.peer ≠ 0 ∧ rx.peer < 12 ∧ rx.desc % 64 = 0 ∧ dramLoc going rx.desc = some 0x4000 ∧
    ∃ bs s1, readUnit going 0 (.engine 0) 0x4000 64 = .ok (bs, s1) ∧ ∃ s5 s7,
      (let s3 := (pendDrop s1 (isRun 0)).modDie 0 fun d => { d with rx := { d.rx with
          st := 1, fstat := 0, sta := none, stb := none, siga := 0#256, sigb := 0#256, fail := false, cw := none, go := false } }
       submitGraph { s3 with nextOp := s3.nextOp + 1 } { die := 0, sys := true, run := some (0, 0) }
        (BitVec.ofNat 512 (bytesToNat bs)) s3.nextOp (.run 0 0) = (0, s5)) ∧
      submitGraph { s5 with nextOp := s5.nextOp + 1 } { die := rx.peer, sys := true, run := some (0, 1) }
        (BitVec.ofNat 512 (bytesToNat bs)) s5.nextOp (.run 0 1) = (0, s7) :=
  ⟨by decide +kernel, by decide +kernel, by decide +kernel, by decide +kernel, by decide +kernel, by decide +kernel, by decide +kernel, _, _, rfl,
    _, _, submits _ _ rfl rfl (by decide +kernel), submits _ _ rfl rfl (by decide +kernel)⟩

theorem witness_QueuesAndRuns_runs :
    ((redundant 0 0 0).die 0).rx.desc % 64 = 0 ∧ (0x4001 : Nat) % 64 ≠ 0 ∧ runAlive (redundant 1 1 0) 0 = false ∧
    rowGone (redundant 2 1 0) 5 = false ∧ ((redundant 1 1 0).die 0).rx.st = 1 ∧ ((redundant 0 0 0).die 0).rx.st ≠ 1 ∧ ((redundant 0 0 0).die 0).rx.st ≠ 2 ∧
    ((redundant 0 0 0).die 0).rx.peer = 0 ∧ ((redundant 5 11 0).die 0).rx.st ≠ 2 ∧ runAlive (redundant 5 11 0) 0 = false ∧
    ((redundant 5 11 0).die 0).rx.peer ≠ 0 ∧ ((redundant 5 11 0).die 0).rx.peer < 12 ∧
    dramLoc (redundant 5 11 0) ((redundant 5 11 0).die 0).rx.desc = some 0x4000 ∧ (readUnit (redundant 5 11 0) 0 (.engine 0) 0x4000 64).isOk = true ∧
    ((redundant 2 1 0).die 0).rx.fail = false ∧ ((redundant 2 1 0).die 0).rx.go = false ∧ ((redundant 2 1 0).die 0).rx.sta = some 0 ∧ ((redundant 2 1 0).die 0).rx.stb = some 0 ∧
    ((redundant 2 1 0).die 0).rx.cw = none ∧ runSignature (redundant 2 1 0) 0 0 = runSignature (redundant 2 1 0) 0 1 ∧
    runSignature (redundant 2 1 7) 0 0 ≠ runSignature (redundant 2 1 7) 0 1 ∧ (redundant 2 1 0).homeq = [] ∧
    ((redundant 2 1 0).pend.filter fun r => r.owner == .run 0 0) = [{ owner := .run 0 0, sector := 5, mask := 1, bytes := List.replicate 64 0#8 }] ∧
    ((redundant 1 1 0 true).die 0).rx.fail = true ∧ runAlive (redundant 1 1 0 true) 0 = false ∧ 11 < 12 ∧ (1 < 2) ∧
    (let s := ({ sup with time := 2 ^ 30 } : State).modDie 11 fun d => { d with cycle2 := 2 * 2 ^ 30 }
     (s.die 11).persists < cycleOf s 11 / 2 ^ 30 ∧ cycleOf s 10 / 2 ^ 30 ≤ (s.die 10).persists ∧ (s.io 1).persists < s.time / 2 ^ 30 ∧
     sup.time / 2 ^ 30 ≤ (sup.io 1).persists) := by
  and_intros <;> decide +kernel

theorem witness_QueuesAndRuns_commit : Committable (redundant 2 1 0) :=
  ⟨rfl, fun _ => rfl, by decide +kernel, by decide +kernel⟩


/-- D0 with a TLB entry, a queued miss of a stalled context that translates through a page table at 0x10000, an enabled or busy
format window, and two requests at the fetch port of gang 0, one of them since cycle 0. -/
def translating (cycle : Nat) (busy : Bool) : State :=
  let s := pooled (at_ 0 []) []
  let s := s.modCore 0 fun c => { c with tlb := [{ asid := 0, va := 5, log2 := 16, oa := 0, attrs := 7 }] }
  let s := s.modCtx 0 fun c => { c with st := .stalled, fetchReq := some { va := 128, pa := 128, since := 0 } }
  let s := s.modCtx 16 fun c => { c with st := .stalled, fetchReq := some { va := 64, pa := 64, since := 1 } }
  let s := setFmt s 0 7 { base := 1#64, busy := if busy then some 4096#64 else none }
  s.modDie 0 fun d => { d with missq := [{ asid := 0, page := 1, root := 0x10000, cids := [0] }], tinvBusy := busy, cycle2 := 2 * cycle }

theorem witness_TranslationAndFetch :
    ((translating 0 true).die 0).tinvBusy = true ∧ ((translating 0 false).die 0).tinvBusy = false ∧ bit (2 ^ 18) 18 = true ∧ 11 < 12 ∧
    tinvPerformed (translating 0 true) 0 = true ∧
    tinvPerformed ((translating 0 true).modDie 0 fun d => { d with tinvMiss := [(0, 0, 1)] }) 0 = false ∧
    tinvPerformed ((translating 0 true).modDie 0 fun d => { d with tinvLines := [(0, 128)] }) 0 = false ∧
    tinvPerformed ((translating 0 true).modDie 0 fun d => { d with tinvLines := [(0, 192)] }) 0 = true ∧
    tinvMatches 0x50000 0 { asid := 0, va := 5, log2 := 16, oa := 0, attrs := 7 } = true ∧
    tinvMatches 0x60000 0 { asid := 0, va := 5, log2 := 16, oa := 0, attrs := 7 } = false ∧
    (∃ m s1, ((translating 0 false).die 0).missq = [m] ∧ m.cids = [0] ∧
      walk (translating 0 false) 0 m.asid m.root (m.page * 65536) = (.leaf 21 0 15, s1) ∧ (s1.die 0).missq = [m] ∧ (s1.ctx 0).st = .stalled) ∧
    (fmtAt (translating 0 false) 0 7).base.getLsbD 0 = true ∧ (fmtAt (translating 0 false) 0 7).busy = none ∧
    (fmtAt (translating 0 true) 0 7).busy = some 4096#64 ∧
    (let s := { translating 0 true with l2 := [(homeSlice 0, [{ line := 0, dirty := true, tag := some { fmt := 8, index := 0, stack := 0, win := 7, scl := 0, ill := false } }])] }
     s.races.length ≤ 16384 ∧ s.l2 = [(homeSlice 0, (s.l2.head?.map (·.2)).getD [])] ∧ ∀ kv ∈ s.l2, ∀ y ∈ kv.2, homeSlice (y.line * 256) = homeSlice 0) ∧
    (∃ r, portChoice (translating 31 false) 0 = some (16, r) ∧ r.va = 64 ∧
      List.find? (fun y => y.1 == r.pa) ((translating 31 false).gang 0).icache = none ∧
      ∀ p ∈ portRequests (translating 31 false) 0, cycleOf (translating 31 false) (0 / 20) < p.2.since + 32) ∧
    (∃ r, portChoice (translating 32 false) 0 = some (0, r) ∧ r.since = 0 ∧
      ∃ p ∈ portRequests (translating 32 false) 0, p.2.since + 32 ≤ cycleOf (translating 32 false) (0 / 20)) ∧
    (let s := (translating 32 false).modGang 0 fun g => { g with icache := [(128, List.replicate 64 0#8)] }
     List.find? (fun y => y.1 == 128) (s.gang 0).icache = some (128, List.replicate 64 0#8) ∧ List.replicate 64 0#8 = s.mem.readN 128 64) := by
  refine ⟨?_, ?_, ?_, ?_, ?_, ?_, ?_, ?_, ?_, ?_, ⟨_, _, rfl, rfl, rfl, ?_, ?_⟩, ?_, ?_, ?_, ?_, ⟨_, rfl, ?_, ?_, ?_⟩, ⟨_, rfl, ?_, ?_⟩, ?_⟩ <;> decide +kernel

/-- A line of an odd byte in a context's buffer, and a sequencer at the first and at the last of its slots. -/
def buffered (pos pass : Nat) : State :=
  (at_ 0 []).modCtx 0 fun c => { c with
    line := some { va := 0, pa := 0, bytes := 1#8 :: List.replicate 63 0#8 }, checked := true
    rep := { body := List.replicate 8 ((encode (.vmov .u32 1 2 0 false)).getD 0), count := 65535, pass := pass, pos := pos } }

theorem witness_TranslationAndFetch_lines :
    ((mesh.gang 0).miss = []) ∧ (((mesh.modGang 0 fun g => { g with miss := [64] }).gang 0).miss = 64 :: []) ∧
    (∃ bs s2, readLine (mesh.modGang 0 fun g => { g with miss := [] }) (0 / 20) 64 = .bytes bs s2) ∧
    (∃ off s2, readLine ((setBw mesh 0 0 {}).modBank 0 fun b => { b with fenced := true }) (0 / 20) 64 = .fault 0x2A off s2) ∧
    (∃ l, ((buffered 0 0).ctx 0).line = some l ∧ ((buffered 0 0).ctx 0).checked = true ∧ ((buffered 0 0).ctx 0).refetched = false ∧
      parityOk l.bytes = false ∧ ∃ bs s2, readLine (countDie (buffered 0 0) (dieOf 0) 0x18 1) (dieOf 0) l.pa = .bytes bs s2) ∧
    (mesh.ctx 0).line = none ∧ (mesh.ctx 0).rep.body = [] ∧
    (∀ t ∈ [(6, 0), (7, 65533), (7, 65534)], passInstr ((buffered t.1 t.2).ctx 0).rep = .ok (.vmov .u32 1 2 0 false)) ∧
    ((buffered 7 65534).ctx 0).rep.body ≠ [] ∧ ((buffered 7 65534).ctx 0).st = .ready ∧ ((buffered 7 65534).ctx 0).windows = [] ∧
    ((buffered 7 65534).ctx 0).upsets = [] ∧ ((buffered 7 65534).ctx 0).ev = 0 ∧ ((buffered 7 65534).ctx 0).replayV = false ∧ 6 + 1 < 8 ∧ 8 ≤ 7 + 1 ∧ 65533 + 1 < 65535 ∧ 65535 ≤ 65534 + 1 ∧
    validDev 0 = false ∧ validDbg 0 = false ∧ validDev (2 * 2 ^ 42 + 11 * 2 ^ 36) = true ∧ regionOf (2 * 2 ^ 42 + 11 * 2 ^ 36) = 2 ∧
    fld (2 * 2 ^ 42 + 11 * 2 ^ 36) 36 4 = 11 ∧ fld (2 * 2 ^ 42 + 11 * 2 ^ 36) 0 36 = 0 := by
  refine ⟨?_, ?_, ⟨_, _, rfl⟩, ⟨_, _, rfl⟩, ⟨_, rfl, ?_, ?_, ?_, _, _, rfl⟩, ?_, ?_, ?_, ?_⟩
  case refine_8 =>
    intro t h
    simp only [List.mem_cons, List.not_mem_nil, or_false] at h
    rcases h with rfl | rfl | rfl <;> rfl
  all_goals first | decide +kernel | (and_intros <;> decide +kernel)

/-- A REP at the first slot of a line of vector moves that ends its code region, with counts in s1 to s3. -/
def repeating : State :=
  let v := natToBytes 12 ((encode (.vmov .u32 1 2 0 false)).getD 0).toNat
  let s := (at_ 0xF00 [(1, 65535#64), (2, 65536#64)]).modDie 0 fun d => { d with svcLim := 64 }
  s.modCtx 0xF00 fun c => { c with line := some { va := 0, pa := 0, bytes := v ++ v ++ v ++ v ++ v ++ List.replicate 4 0#8 } }

theorem witness_TranslationAndFetch_rep :
    let s := repeating
    let r : RepBuf := { count := 65535, pc := nextSlot s.me.pc }
    (buffered 0 0).me.rep.body ≠ [] ∧ s.me.rep.body = [] ∧ (s.rs 1).toNat ≤ 65535 ∧ 65535 < (s.rs 2).toNat ∧ (s.rs 3).toNat = 0 ∧
    (3#32).toNat % 8 + 1 = 4 ∧ (7#32).toNat % 8 + 1 = 8 ∧ inCode s s.cur (lineAddr (bodySlot r 7)) = false ∧
    (∀ i, i < 4 → inCode s s.cur (lineAddr (bodySlot r i)) = true) ∧
    (match bodySlots s 4 (nextSlot s.me.pc) with
     | .ok (ws, _) => ws.all (fun y => bodySlotOk y.1) && (ws.drop 1).all (fun y => !y.2)
     | .error _ => false) = true := by
  and_intros <;> decide +kernel


/-- A package in a lifecycle state with an identity, staged shares of this size and a grant or none. -/
def package (lc : Lifecycle) (id : Option Nat) (share : Nat) (grant : Option (List Nat × List Nat × List Nat)) : State :=
  { sup with pkg := { sup.pkg with lifecycle := lc, identity := id, stagedShare := Vector.replicate 12 share, grant := grant } }

/-- Whether a key and a signature are accepted is the package's own matter, so each of the two cases is open and one of them holds. -/
theorem witness_PowerAndBoot_keys (d f : BitVec 256) (v : Bool) : (d = f ∧ v = true) ∨ ¬(d = f ∧ v = true) := by
  by_cases h : d = f ∧ v = true
  · exact .inl h
  · exact .inr h

theorem witness_PowerAndBoot :
    let s := package .develop (some 5) 515 none
    let total := fun s : State => 300 + s.pkg.stagedShare.toList.foldl (· + ·) 0 + s.pkg.stagedStk.toList.foldl (· + ·) 0
    sup.pkg.firmware = none ∧ sup.pkg.recovery = false ∧ bootStore sup = bootStore sup ∧ held.pkg.firmware.isSome = true ∧
    s.pkg.lifecycle = .develop ∧ s.pkg.p3 = false ∧ s.pkg.identity = some 5 ∧ sup.pkg.identity = none ∧ sup.pkg.lifecycle = .manufacture ∧
    3 < 4 ∧ 1 ≤ s.pkg.lifecycle.code ∧ s.pkg.lifecycle.code < 2 ∧ sup.pkg.lifecycle.code < 1 ∧ s.pkg.lifecycle.code < 3 ∧
    s.pkg.grant = none ∧ total s = 8400 ∧ total (package .develop none 516 none) = 8412 ∧ 8400 < 8412 ∧ (∃ x ∈ (package .develop none 119 none).pkg.stagedShare.toList, x < 120) ∧
    (∀ x ∈ s.pkg.stagedShare.toList, 120 ≤ x) ∧ (∀ x ∈ s.pkg.stagedStk.toList, 20 ≤ x) ∧ (∀ x ∈ s.pkg.stagedPstate.toList, x ≤ 1) ∧
    (package .develop none 120 (some ([], [], []))).pkg.grant.isSome = true ∧
    (∀ i, i < 12 → ¬((s.die i).intervals + 1) * 4096 ≤ cycleOf s i) ∧
    (let t := { s with dies := (List.range 12).map fun i => (i, { cycle2 := 2 * 4096 }) }
     ∀ i, i < 12 → ((t.die i).intervals + 1) * 4096 ≤ cycleOf t i) ∧
    (let t := s.modDie 11 fun d => { d with cycle2 := 2 * 4096 }
     ((t.die 11).intervals + 1) * 4096 ≤ cycleOf t 11 ∧ ¬((t.die 10).intervals + 1) * 4096 ≤ cycleOf t 10) ∧
    (let p := s.modDie 0 fun d => { d with pstate := 2, returning := true }
     (p.die 0).pstate = 2 ∧ (p.die 0).returning = true) ∧ (s.die 0).pstate ≠ 2 ∧ 7 < 8 ∧ 47 < 48 ∧
    16 ≤ (SMap.getD ({ s with links := [(47, { retries := 16 })] } : State).links 47 {}).retries ∧
    (SMap.getD ({ s with links := [(47, { retries := 15 })] } : State).links 47 {}).retries < 16 ∧ 48 ≤ 48 := by
  refine ⟨?_, ?_, rfl, ?_⟩
  all_goals first | decide +kernel | (and_intros <;> decide +kernel)

/-- Values of the package's own functions for which a key and its signature of a challenge are accepted: those functions are open, so
no clause here can be evaluated, but the conditions that a clause puts on them can hold together. -/
theorem witness_PowerAndBoot_accepted (ch : BitVec 256) : ∃ (digest : Nat → BitVec 256) (fused : Nat → Nat → BitVec 256)
    (verify : Nat → Nat → Nat → Bool) (key sig image : Nat), digest key = fused 1 1 ∧ verify key sig ch.toNat = true ∧
      digest key = fused 1 0 ∧ verify key sig image = true :=
  ⟨fun _ => 0, fun _ _ => 0, fun _ _ _ => true, 5, 7, 9, rfl, rfl, rfl, rfl⟩

theorem witness_PowerAndBoot_challenge : ∃ ch s1, drawBits sup 256 = (ch, s1) := ⟨_, _, rfl⟩


/-- A package whose unit u is in a state. -/
def unitAt (u : Fin 38) (st : Nat) : State := { State.reset with pkg := { State.reset.pkg with svuState := State.reset.pkg.svuState.set u st } }
/-- A package whose checkpoint is in a state, cores frozen by it. -/
def checkpointed (st : Nat) : State :=
  { (State.reset.modCore 0 fun c => { c with frozen := true, ckFrozen := true }) with pkg := { State.reset.pkg with ckState := st } }
/-- An I/O die whose entry 255 admits the key 9 to 64 bytes at 0x4000 with these permissions. -/
def admitting (perm : Nat) : State :=
  State.reset.modIo 0 fun d => { d with regs := [(0x30000 + 32 * 255, BitVec.ofNat 64 (1 + perm + 9 * 2 ^ 32)), (0x30000 + 32 * 255 + 8, 0x4000#64),
    (0x30000 + 32 * 255 + 16, 64#64)] }

/-- What a read of 64 bytes at 0x4000 for an inbound message ends with: none for bytes, 0 where it must wait, or a fault's code. -/
def inboundCode (s : State) : Option Nat :=
  match inboundBytes (drawChoice s 2).2 0 [(0x4000, 64)] with | .ok _ => none | .error (t, _) => some t.code

theorem witness_UnitsAndInbound :
    (let st := fun (x : State) (i : Nat) => x.pkg.svuState.toList.getD i 0
     let bad := fun (s : State) (u : Nat) => st s u ≠ 0 ∨ (u = 36 ∧ st s 37 ≠ 0) ∨ (u = 37 ∧ st s 36 ≠ 0) ∨ (u = 0 ∧ ∃ i, i < 12 ∧ 1 ≤ i ∧ st s i = 0)
     38 ≤ 38 ∧ 37 < 38 ∧ bad (unitAt 37 1) 36 ∧ bad (unitAt 36 2) 37 ∧ bad (unitAt 5 0) 0 ∧ bad (unitAt 5 1) 5 ∧ ¬bad (unitAt 5 0) 11 ∧
     ¬bad (unitAt 5 0) 12 ∧ ¬bad (unitAt 5 0) 35 ∧ ¬bad (unitAt 5 0) 37 ∧ st (unitAt 11 1) 11 = 1 ∧ st (unitAt 11 2) 11 = 2 ∧
     st (unitAt 11 3) 11 = 3 ∧ st (unitAt 35 3) 35 = 3 ∧ st (unitAt 36 3) 36 = 3 ∧ st (unitAt 11 0) 11 ≠ 1 ∧ st (unitAt 11 0) 11 ≠ 2) ∧
    State.reset.dies = [] ∧ State.reset.ctxs = [] ∧ (checkpointed 1).pkg.ckState = 1 ∧ (checkpointed 2).pkg.ckState = 2 ∧
    State.reset.pkg.ckState ≠ 1 ∧ State.reset.pkg.ckState ≠ 2 ∧ State.reset.ops = [] ∧ State.reset.homeq = [] ∧ State.reset.banks = [] ∧
    State.reset.cores = [] ∧ ((checkpointed 2).core 0).ckFrozen = true ∧ (State.reset.io 1).out = false ∧ 1 < 2 ∧ 2 ≤ 2 ∧
    inboundAt (admitting 0) 0 9 0 1 2 = none ∧ inboundAt (admitting 4) 0 9 63 2 2 = none ∧ inboundAt (admitting 4) 0 9 63 1 2 = some 0x403F ∧
    dramPieces (admitting 4) 0x403F 1 = some [(0x403F, 1)] ∧ inboundAt (admitting 4) 0 9 0 1 1 = none ∧ inboundAt (admitting 2) 0 9 0 64 1 = some 0x4000 ∧
    dramPieces (admitting 2) 0x4000 64 = some [(0x4000, 64)] ∧ (∀ q ∈ (admitting 2).ops, q.2.ord = false) ∧
    inboundCode (admitting 2) = none ∧ inboundCode ((admitting 2).modBank 0 fun b => { b with fenced := true }) = some 0x2A ∧
    inboundCode ((admitting 2).modBank 0 fun b => { b with shBusy := true }) = some 0 ∧
    (piecesHeld ((admitting 4).modBank 0 fun b => { b with shBusy := true }) .store [(0x403F, 1)]).isSome = true ∧
    piecesHeld (admitting 4) .store [(0x403F, 1)] = none ∧ piecesHeld (admitting 8) .store [(0x4038, 8)] = none ∧
    tidalRun (admitting 4) [(0x403F, 1)] = false ∧ tidalRun ((admitting 4).modCore 0 fun c =>
      { c with tlb := [{ asid := 0, va := 0, log2 := 16, oa := 0, attrs := 71 }] }) [(0x403F, 1)] = true ∧
    inboundAt (admitting 6) 0 9 0 8 3 = none ∧ inboundAt (admitting 8) 0 9 56 8 3 = some 0x4038 ∧ dramPieces (admitting 8) 0x4038 8 = some [(0x4038, 8)] ∧
    ¬(2 = 4 ∨ 2 = 8) ∧ 3 ≤ 3 ∧ 2 < 3 ∧ tidalRun (admitting 8) [(0x4038, 8)] = false ∧
    (let o : EngOp := { kind := .inbound, die := 12, atom := some (2, 5, 7), total := 8 }
     o.atom = some (2, 5, 7) ∧ o.total = 8) := by
  and_intros <;> decide +kernel

/-- An I/O die takes messages; one in recovery, one without a port and one that is out take none. -/
theorem witness_UnitsAndInbound_carries :
    let carries := fun s : State => s.pkg.recovery = false ∧ ∃ i, i < 8 ∧ portDown s 1 i = false
    carries State.reset ∧ carries { State.reset with links := (List.range 7).map fun p => (40 + p, { down := true }) } ∧
    ¬carries { State.reset with links := (List.range 8).map fun p => (40 + p, { down := true }) } ∧
    ¬carries (State.reset.modIo 1 fun d => { d with out := true }) ∧
    ¬carries { State.reset with pkg := { State.reset.pkg with recovery := true } } := by decide +kernel

theorem witness_UnitsAndInbound_long : ∃ data : List Byte, 2 ^ 32 < data.length :=
  ⟨List.replicate (2 ^ 32 + 1) 0#8, by rw [List.length_replicate]; decide⟩

theorem witness_UnitsAndInbound_image : (checkpointed 1).homeq = [] ∧ (checkpointed 1).banks = [] ∧
    ∀ i, ((checkpointed 1).core i).l1 = [] := by
  refine ⟨rfl, rfl, fun i => ?_⟩
  show ((State.reset.modCore 0 fun c => { c with frozen := true, ckFrozen := true }).core i).l1 = []
  by_cases h : i = 0
  · subst h; rw [State.modCore_core_same]; rfl
  · rw [State.modCore_core_other _ h]; rfl

/-- Whether a message carries ordered delivery is the transport's choice, which is open; an ordered one is then late while another is
under way. -/
theorem witness_UnitsAndInbound_order (c : Nat) : (c = 1 ∧ ∃ q ∈ [((3 : Nat), ({ kind := .inbound, die := 12, ord := true } : EngOp))],
    q.2.kind = .inbound ∧ q.2.io = 0 ∧ q.2.ord = true) ∨ c ≠ 1 := by
  by_cases h : c = 1
  · exact .inl ⟨h, _, List.mem_singleton_self _, rfl, rfl, rfl⟩
  · exact .inr h


/-! ## Well-formedness

One ill-formed term for each condition that an encoding puts on several fields together. -/

/-- NOV to FP32, SAT from a float, a rounding mode between integers. -/
theorem test_wf_convert : (Instr.fcvt 1 2 .fp32 .fp16 .rne false false false true).wf = false ∧
    (Instr.fcvt 1 2 .s8 .fp32 .rne false false true false).wf = false ∧
    (Instr.vcvt .s8 1 2 .s16 0 false .rtz false false true false).wf = false := by decide
/-- A relaxed access with a scope, and an order of the wrong side. -/
theorem test_wf_orders : (Instr.ld 0 .u64 1 2 0 .own .die .rlx).wf = false ∧ (Instr.ld 0 .u64 1 2 0 .own .die .rel).wf = false ∧
    (Instr.st .u64 1 2 0 .own .die .rlx).wf = false ∧ (Instr.st .u64 1 2 0 .own .die .acq).wf = false ∧ (Instr.fence .die .rlx).wf = false ∧
    (Instr.waitw 1 2 3 4 0 .own .die .sc .eq).wf = false := by decide
/-- Rounding or flush bits with an integer type. -/
theorem test_wf_integers : (Instr.scatAcc .s32 1 2 3 4 0 0 .own .die .rup false false).wf = false ∧
    (Instr.vadd .s8 1 2 3 0 false .rne true false false).wf = false ∧ (Instr.vsub .u8 1 2 3 0 false .rne false true false).wf = false ∧
    (Instr.vwmul .s8 1 2 3 0 false .rtz false false).wf = false ∧ (Instr.vwadd .s8 1 2 3 0 false .rtz false false).wf = false ∧
    (Instr.vmin .s8 1 2 3 0 false .rtz false false false).wf = false ∧ (Instr.vmax .s8 1 2 3 0 false .rtz false false false).wf = false ∧
    (Instr.mma 0 .s32 1 2 .rtz false false false false 0).wf = false ∧ (Instr.mmas 0 .s32 1 2 3 .rne true false false false 0 false).wf = false := by decide
/-- SAT with a type that takes none. -/
theorem test_wf_saturation : (Instr.vmul .bf16 1 2 3 0 false .rne false false true).wf = false ∧
    (Instr.vfma .fp32 1 2 3 4 0 false .rne false false true).wf = false ∧ (Instr.vabs .fp16 1 2 0 false .rne false false true).wf = false ∧
    (Instr.vneg .fp16 1 2 0 false .rne false false true).wf = false ∧ (Instr.vdot 0 .e4m3 1 2 3 4 .rne false false true).wf = false ∧
    (Instr.vred 0 .s32 1 2 1 0 .rne false false true).wf = false ∧ (Instr.vscan 0 .fp32 1 2 3 0 0 false .rne false false true false).wf = false := by decide
/-- A form's field without its form, or a reserved value. -/
theorem test_wf_forms : (Instr.vshl .u8 1 2 3 0 false true 1).wf = false ∧ (Instr.vshr .u8 1 2 3 0 false false 1).wf = false ∧
    (Instr.vsar .s8 1 2 3 0 false true 1).wf = false ∧ (Instr.vnarrow .u8 1 2 0 3 0 false false).wf = false ∧
    (Instr.vred 0 .s32 1 2 6 0 .rne false false false).wf = false ∧ (Instr.vscan 0 .s32 1 2 3 7 0 false .rne false false false false).wf = false ∧
    (Instr.smerge 0 1 2 3 3).wf = false ∧ (Instr.mdrain 0 .s8 1 0 5 .rne false false false false .thr 0 0 0).wf = false ∧
    (Instr.mdrain 0 .bf16 1 0 0 .rne false false false true .thr 0 0 0).wf = false ∧
    (Instr.mdrainVault 0 .s8 1 2 0 5 .rne false false false false .thr 0).wf = false ∧
    (Instr.mdrainVault 0 .bf16 1 2 0 0 .rne false false false false .die 0).wf = false := by decide

/-- What the decoder refuses, by name: a reserved major, a reserved minor, a field that must be zero, a reserved type, bytes too
few for a slot. -/
theorem test_decode_refuses : decodeTableWord 96 (w 0x00 0x01) = none ∧ decodeTableWord 96 (w 0x22 0x06) = none ∧
    decodeTableWord 96 (w 0x01 0x01 (ty := 7)) = none ∧ decodeTableWord 96 (w 0x50 0x01 (ty := 15)) = none ∧
    (decode (List.replicate 11 0#8)).isOk = false ∧ decodeTableWord 88 (w 0xD0 0x05) = none := by decide +kernel

/-! ## One step

Each expected value is from the worked case of the spec that the comment names. -/

/-- What an instruction leaves in the state that follows it. -/
def after {α : Type} (i : Instr) (s : State) (f : State → α) : Option α :=
  match exec i s with
  | .next t => some (f t)
  | _ => none

def regs (a b : Word) : State := at_ 0 [(1, a), (2, b)]
/-- A scalar result and the flags. -/
def result (i : Instr) (s : State) : Option Word := after i s fun t => t.rs 3
def resultFlags (i : Instr) (s : State) : Option (Word × Word) := after i s fun t => (t.rs 3, t.me.fpflags)

/-- The borderline results of chapter 10. -/
theorem test_div_rounds_to_zero : result (.div 0 3 1 2) (regs 7 (-2)) = some (-3) ∧ result (.rem 0 3 1 2) (regs (-7) 2) = some (-1) := by decide
theorem test_div_corners : result (.divu 0 3 1 2) (regs 5 0) = some (-1) ∧ result (.remu 0 3 1 2) (regs 5 0) = some 5 ∧
    result (.div 0 3 1 2) (regs 0x8000000000000000 (-1)) = some 0x8000000000000000 ∧ result (.rem 0 3 1 2) (regs 0x8000000000000000 (-1)) = some 0 := by decide
theorem test_add_saturates : result (.add 3 1 2 true) (regs 0x7FFFFFFFFFFFFFFF 1) = some 0x7FFFFFFFFFFFFFFF ∧
    result (.add 3 1 2 false) (regs 0x7FFFFFFFFFFFFFFF 1) = some 0x8000000000000000 := by decide
theorem test_shl_amount : result (.shl 3 1 2) (regs 1 65) = some 2 := by decide
theorem test_sar : result (.sarImm 3 1 1) (regs (-8) 0) = some (-4) := by decide
theorem test_mulhu : result (.mulhu 3 1 2) (regs 0xFFFFFFFFFFFFFFFF 2) = some 1 := by decide
theorem test_clz : result (.clz 3 1) (regs 0 0) = some 64 := by decide

/-- The worked conversions of chapter 07 (flags: invalid 1, overflow 4, underflow 8, inexact 16). -/
theorem test_fcvt_e4m3_rounds : resultFlags (.fcvt 3 1 .e4m3 .fp32 .rne false false false false) (regs 0x3E99999A 0) = some (0x2A, 16) ∧
    resultFlags (.fcvt 3 1 .e4m3 .fp32 .rtz false false false false) (regs 0x3E99999A 0) = some (0x29, 16) ∧
    resultFlags (.fcvt 3 1 .e4m3 .fp32 .rne false false false false) (regs 0x43E80000 0) = some (0x7E, 16) := by decide +kernel
theorem test_fcvt_e4m3_ends : resultFlags (.fcvt 3 1 .e4m3 .fp32 .rne false false false false) (regs 0x43FA0000 0) = some (0x7E, 20) ∧
    resultFlags (.fcvt 3 1 .e4m3 .fp32 .rne false false false true) (regs 0x43FA0000 0) = some (0x7F, 20) ∧
    resultFlags (.fcvt 3 1 .e4m3 .fp32 .rne false false false false) (regs 0x3A800000 0) = some (0, 24) ∧
    resultFlags (.fcvt 3 1 .e4m3 .fp32 .rup false false false false) (regs 0x3A800000 0) = some (1, 24) ∧
    resultFlags (.fcvt 3 1 .e4m3 .fp32 .rdn false false false false) (regs 0x80000000 0) = some (0x80, 0) := by decide +kernel
theorem test_convert_others : convertElem .bf16 .fp32 { mode := .rne, fzi := false, fzo := false } false 0x3F800001 = (0x3F80, 16) ∧
    convertElem .bf16 .fp32 { mode := .rup, fzi := false, fzo := false } false 0x3F800001 = (0x3F81, 16) ∧
    convertElem .s8 .fp32 { mode := .rne, fzi := false, fzo := false } false 0xC0600000 = (0xFC, 16) ∧
    convertElem .s8 .fp32 { mode := .rtz, fzi := false, fzo := false } false 0x43960000 = (0x7F, 1) := by decide +kernel

/-- Two vector registers whose elements repeat two numbers of this width. -/
def spread (k wd a b : Nat) : State → State := fun s =>
  (s.modMe fun c => c.setV (BitVec.ofNat 5 k) (BitVec.ofNat 4096 (a + b * 2 ^ wd)))
/-- Elements 0 and 1 of a vector register after an instruction. -/
def elems (i : Instr) (s : State) (k wd : Nat) : Option (Nat × Nat) :=
  after i s fun t => ((t.rv (BitVec.ofNat 5 k)).toNat % 2 ^ wd, (t.rv (BitVec.ofNat 5 k)).toNat / 2 ^ wd % 2 ^ wd)

/-- VADD.S8.SAT of chapter 12: 100 + 50 gives 127, and −106 without .SAT. -/
theorem test_vadd_s8 : elems (.vadd .s8 4 5 6 0 false .rne false false true) (spread 5 8 100 100 (spread 6 8 50 50 mesh)) 4 8 = some (127, 127) ∧
    elems (.vadd .s8 4 5 6 0 false .rne false false false) (spread 5 8 100 100 (spread 6 8 50 50 mesh)) 4 8 = some (150, 150) := by decide +kernel
/-- VWMUL.S8 of chapter 12. -/
theorem test_vwmul_s8 : elems (.vwmul .s8 4 1 2 0 false .rne false false) (spread 1 8 128 128 (spread 2 8 2 255 mesh)) 4 16 =
    some (2 ^ 16 - 256, 0) ∧ elems (.vwmul .s8 4 1 2 0 false .rne false false) (spread 1 8 128 128 (spread 2 8 2 255 mesh)) 5 16 = some (128, 0) := by
  decide +kernel
/-- VNARROW of chapter 12: 0x0180 and −0x0180 by 8, ties to even and down. -/
theorem test_vnarrow : elems (.vnarrow .s8 4 2 8 2 0 false false) (spread 2 16 0x180 0 (spread 3 16 (2 ^ 16 - 0x180) 0 mesh)) 4 8 = some (2, 254) ∧
    elems (.vnarrow .s8 4 2 8 0 0 false false) (spread 2 16 0x180 0 (spread 3 16 (2 ^ 16 - 0x180) 0 mesh)) 4 8 = some (1, 254) := by decide +kernel

/-- The worked scatter of chapter 11. -/
def scattering : State :=
  let pack := fun xs : List Nat => xs.foldr (fun x a => x + 2 ^ 32 * a) 0
  let s := (at_ 0 [(4, 0xFF0FF0000000#64), (5, 5#64)]).modMe fun c =>
    ((c.setM 1 0xF#1024).setV 7 (BitVec.ofNat 4096 (pack [3, 7, 3, 3]))).setV 8
      (BitVec.ofNat 4096 (pack [0x3F800000, 0x40000000, 0x40800000, 0x41000000]))
  { s with mem := s.mem.writeN vault0 (List.replicate 5 [0x00#8, 0x00#8, 0x00#8, 0x3F#8]).flatten }
def fiveWords (t : State) : List Nat := (List.range 5).map fun i => bytesToNat (t.mem.readN (vault0 + 4 * i) 4)

theorem test_scat : after (.scat .fp32 4 7 8 5 0 1 .wt) scattering fiveWords =
    some [0x3F000000, 0x3F000000, 0x40000000, 0x41000000, 0x3F000000] := by decide +kernel
theorem test_scat_acc : after (.scatAcc .fp32 4 7 8 5 0 1 .own .die .rne false false) scattering fiveWords =
    some [0x3F000000, 0x3F000000, 0x40200000, 0x41580000, 0x3F000000] := by decide +kernel

/-- The worked translation of chapter 02 and the home of its address (chapter 04): slice 73 of D1. -/
theorem test_worked_address : dramLoc mesh 0x14600C989ABC = some 0x0071300432BC ∧ homeSlice 0x0071300432BC = 160 + 73 := by decide +kernel

/-- The worked block of chapter 07, and the worked column of chapter 13. -/
theorem test_block_e4m3 :
    blockE4M3 { mode := .rne, fzi := false, fzo := false } false 0 (0x38 :: 1 :: List.replicate 62 0) (0x7E :: 1 :: List.replicate 62 0) 0x3F800000 0x3F800000
      = (0x43E00000, 16) ∧
    blockE4M3 { mode := .rup, fzi := false, fzo := false } false 0 (0x38 :: 1 :: List.replicate 62 0) (0x7E :: 1 :: List.replicate 62 0) 0x3F800000 0x3F800000
      = (0x43E00001, 16) := by decide +kernel
theorem test_keep_mask : keepMask .e4m3 4 ([0x30, 0xC0, 0x40, 0x28, 0x38, 0xB8, 0x38, 0x00] ++ List.replicate 56 0) = 0x3333333333333336 ∧
    (keptOf 0x3333333333333336 ([0x30, 0xC0, 0x40, 0x28, 0x38, 0xB8, 0x38, 0x00] ++ List.replicate 56 0)).take 4 = [0xC0, 0x40, 0x38, 0xB8] := by
  decide +kernel

/-- The worked sketch of chapter 15 after its compaction, and its queries. -/
def sketched : State :=
  let words := [0x14, 0, 0x3F800000, 0x41A00000, 0x73, 0x2C9277B6, 0xFC, 0, 0x40800000, 0x40400000, 0x40000000, 0x3F800000] ++ List.replicate 12 0 ++
    [0x40A00000, 0x40E00000, 0x41100000, 0x41300000, 0x41500000, 0x41700000, 0x41880000, 0x41980000]
  (at_ 0 [(1, 0x3F000000#64), (2, 0x41200000#64), (5, 0x3F7D70A4#64)]).modMe fun c =>
    c.setV 4 (BitVec.ofNat 4096 (words.foldr (fun x a => x + 2 ^ 32 * a) 0))
theorem test_sqq : result (.sqq 0 3 4 1) sketched = some 0x41100000 ∧ result (.sqq 0 3 4 5) sketched = some 0x41980000 := by decide +kernel
theorem test_sqrank : result (.sqrank 0 3 4 2) sketched = some 10 := by decide +kernel

/-- The worked newt words of chapter 14: n2 := n1 + 5, then the end of the flood. -/
def newting (pc : Nat) (r : Half) : State :=
  (stepping (rstep .flood) 0 false false).modBank 1534 fun b =>
    { b with prog := [(0, 0x0006300500260000#64), (1, 0x0012300007E04000#64)]
             newt := { pc := pc, halted := false, aluR := r, n := (Vector.replicate 32 0#32).set 1 7#32 } }
theorem test_newt_add : after (.newtWord 1534) (newting 0 0) (fun t => ((t.bank 1534).newt.aluR, (t.bank 1534).newt.pc)) = some (12, 1) := by
  decide +kernel
theorem test_newt_halt : after (.newtWord 1534) (newting 1 12) (fun t => (groupAt t 0 63).steps.map fun x => x.phase) = some [.publish] := by
  decide +kernel

/-- A branch takes its signed operands (R225), a loop falls through at zero (R226), a trap has had its effect when its core freezes (R236). -/
theorem test_blt_signed : after (.blt 1 2 8) (regs (-1) 1) (fun t => t.me.pc) = some 64 ∧ after (.bltu 1 2 8) (regs (-1) 1) (fun t => t.me.pc) = some 12 := by
  decide
theorem test_loop_ends : after (.loop 1 8) (regs 1 0) (fun t => (t.rs 1, t.me.pc)) = some (0, 12) := by decide
theorem test_trap : after (.trap 0x123) mesh (fun t => ((t.core 0).frozen, (t.ctx 0).st, (t.ctx 0).pc)) = some (true, .frozen, 12) ∧
    encode (.trap 0x51) = some 0xE00300000000000000000051#96 := by decide +kernel
/-- A store and the load of its bytes, little-endian (R4); a misaligned load faults (R38). -/
theorem test_store : after (.st .u32 4 5 0 .wt .thr .rlx) (mesh.setS 5 0x11223344) (fun t => t.mem.readN vault0 4) = some [0x44, 0x33, 0x22, 0x11] := by
  decide +kernel
theorem test_load_sign : after (.ld 0 .s8 3 4 0 .own .thr .rlx) { mesh with mem := mesh.mem.writeN vault0 [0x80#8] } (fun t => t.rs 3) = some (-128) := by
  decide +kernel
/-- An absmax cell keeps the greatest magnitude and sees a NaN (R251). -/
theorem test_amax : absmaxCell 0x3F800000 0xC0000000 false % 2 ^ 32 = 0x40000000 ∧ absmaxCell 0x40000000 0x7FC00000 true % 2 ^ 32 = 0x40000000 := by
  decide

end Sys2Proof.Tests
end

section
/-! SUPPORT. Taking a fault and resuming from one, as TRAP needs them, and TRAP (R236, R378 to R384, R388). -/

namespace Sys2Proof.Machine
open Sys2Proof Sys2Proof.Claims

/-! ## Fields of a packed number -/

/-- A field of a number cut to n bits is that field of the number, when the cut leaves it whole. -/
theorem field_of_cut (x : Nat) {n k w : Nat} (h : k + w ≤ n) : x % 2 ^ n / 2 ^ k % 2 ^ w = x / 2 ^ k % 2 ^ w := by
  have hn : 2 ^ n = 2 ^ k * 2 ^ (n - k) := by rw [← Nat.pow_add]; congr 1; omega
  rw [hn, Nat.mod_mul_right_div_self]
  exact Nat.mod_mod_of_dvd _ (Nat.pow_dvd_pow 2 (by omega))

/-- The low bits of a number that is cut to n bits. -/
theorem low_bits_of_cut (x : Nat) {n w : Nat} (h : w ≤ n) : (BitVec.ofNat n x).toNat % 2 ^ w = x % 2 ^ w := by
  rw [BitVec.toNat_ofNat]; exact Nat.mod_mod_of_dvd _ (Nat.pow_dvd_pow 2 h)

/-- Two fields of a packed sum taken as one. -/
theorem fields_join (lo a b k j : Nat) : lo + a <<< k + b <<< (j + k) = lo + (a + b <<< j) <<< k := by
  simp only [Nat.shiftLeft_add, Nat.shiftLeft_eq _ k, Nat.add_mul, Nat.add_assoc]

/-- The field at bit k of a packed sum: what lies below it is smaller than 2 ^ k, and what lies above starts at its end or later. -/
theorem field_of_sum {lo k n : Nat} (v hi : Nat) {w j : Nat} (hlo : lo < 2 ^ k) (hj : w ≤ j) (hn : k + w ≤ n) :
    (BitVec.ofNat n (lo + v <<< k + hi <<< (j + k))).toNat / 2 ^ k % 2 ^ w = v % 2 ^ w := by
  have hdiv : (lo + (v + hi <<< j) <<< k) / 2 ^ k = v + hi <<< j := by
    rw [Nat.shiftLeft_eq _ k, Nat.add_mul_div_right _ _ (Nat.two_pow_pos k), Nat.div_eq_of_lt hlo, Nat.zero_add]
  have hhi : hi <<< j % 2 ^ w = 0 := by
    rw [Nat.shiftLeft_eq]
    exact Nat.mod_eq_zero_of_dvd (Nat.dvd_mul_left_of_dvd (Nat.pow_dvd_pow 2 hj) hi)
  rw [BitVec.toNat_ofNat, field_of_cut _ hn, fields_join, hdiv, Nat.add_mod, hhi, Nat.add_zero, Nat.mod_mod]

/-! ## The fault packet (R381) -/

/-- The header's fields fill its 64 bits, and its low byte is the code. -/
theorem header_bounds (c i a n : Nat) {p q d r l : Nat} (hp : p < 2) (hq : q < 2) (hd : d < 16) (hr : r < 16) (hl : l < 16) :
    let head := c % 256 + (i % 4) <<< 8 + (a % 16) <<< 10 + p <<< 14 + q <<< 15 + d <<< 16 + r <<< 20 + l <<< 24
      + (n % 2 ^ 32) <<< 32
    head < 2 ^ 64 ∧ head % 2 ^ 8 = c % 2 ^ 8 := by
  simp only [Nat.shiftLeft_eq]
  omega

theorem b2n_lt (b : Bool) : b2n b < 2 := by cases b <;> decide

/-- The layout of a packet: a header of 64 bits that begins with the code, the fields above it, and what follows AUX (R381). -/
theorem packetBits_layout (s : State) (cid : Nat) (t : Trap) (pc : Nat) (hd : dieOf cid < 16) :
    ∃ head tail, head < 2 ^ 64 ∧ head % 2 ^ 8 = t.code % 2 ^ 8 ∧
      packetBits s cid t pc = BitVec.ofNat 512 (head + (pc % 2 ^ 48) <<< 64 + (t.addr % 2 ^ 48) <<< 128
        + (t.elem % 2 ^ 16) <<< 176 + (t.info % 2 ^ 64) <<< 192 + (t.aux % 2 ^ 16) <<< 256 + tail <<< 272) := by
  have hrow : rowOf cid < 16 := Nat.mod_lt _ (by decide)
  have hcol : colOf cid < 16 := Nat.mod_lt _ (by decide)
  obtain ⟨hlt, hcode⟩ := header_bounds t.code cid (s.ctx cid).ahead (s.die (dieOf cid)).seq
    (b2n_lt (if (s.ctx cid).passing then some ((s.ctx cid).rep.pass, (s.ctx cid).rep.pos) else none).isSome)
    (b2n_lt t.srcPc.isSome) hd hrow hcol
  exact ⟨_, _, hlt, hcode, congrArg (BitVec.ofNat 512)
    ((fields_join _ _ _ 320 64).trans ((fields_join _ _ _ 280 40).trans (fields_join _ _ _ 272 8)))⟩

/-- The same with all that lies above the resume address taken as one. -/
theorem packetBits_head (s : State) (cid : Nat) (t : Trap) (pc : Nat) (hd : dieOf cid < 16) :
    ∃ head rest, head < 2 ^ 64 ∧ head % 2 ^ 8 = t.code % 2 ^ 8 ∧
      packetBits s cid t pc = BitVec.ofNat 512 (head + (pc % 2 ^ 48) <<< 64 + rest <<< 128) := by
  obtain ⟨head, tail, hlt, hcode, h⟩ := packetBits_layout s cid t pc hd
  exact ⟨head, _, hlt, hcode, h.trans (congrArg (BitVec.ofNat 512) ((fields_join _ _ _ 256 16).trans
    ((fields_join _ _ _ 192 64).trans ((fields_join _ _ _ 176 16).trans (fields_join _ _ _ 128 48)))))⟩

/-- The code of a packet (R381). -/
theorem packetBits_code (s : State) (cid : Nat) (t : Trap) (pc : Nat) (hd : dieOf cid < 16) :
    (packetBits s cid t pc).toNat % 2 ^ 8 = t.code % 2 ^ 8 := by
  obtain ⟨head, rest, -, hcode, h⟩ := packetBits_head s cid t pc hd
  rw [h, low_bits_of_cut _ (by decide), ← hcode, Nat.shiftLeft_eq, Nat.shiftLeft_eq]
  omega

/-- The resume address of a packet (R381). -/
theorem packetBits_pc (s : State) (cid : Nat) (t : Trap) (pc : Nat) (hd : dieOf cid < 16) :
    (packetBits s cid t pc).toNat / 2 ^ 64 % 2 ^ 48 = pc % 2 ^ 48 := by
  obtain ⟨head, rest, hlt, -, h⟩ := packetBits_head s cid t pc hd
  rw [h]
  exact (field_of_sum _ rest (j := 64) hlt (by decide) (by decide)).trans (Nat.mod_mod _ _)

/-- AUX of a packet (R381). -/
theorem packetBits_aux (s : State) (cid : Nat) (t : Trap) (pc : Nat) (hd : dieOf cid < 16) :
    (packetBits s cid t pc).toNat / 2 ^ 256 % 2 ^ 16 = t.aux % 2 ^ 16 := by
  obtain ⟨head, tail, hlt, -, h⟩ := packetBits_layout s cid t pc hd
  rw [h]
  refine (field_of_sum _ tail (j := 16) ?_ (by decide) (by decide)).trans (Nat.mod_mod _ _)
  simp only [Nat.shiftLeft_eq]
  omega

/-! ## Windows that owe neither a fault nor a flag -/

/-- No window has yet to fault, and none has yet to write c.fpflags. -/
def QuietWindows (ws : List Window) : Prop := ∀ w ∈ ws, w.late = none ∧ ∀ x ∈ w.writes, written x ≠ .fpflags

theorem quietWindows_tick {ws : List Window} (h : QuietWindows ws) : QuietWindows (tickWindows ws) := by
  intro w hw
  obtain ⟨x, hx, rfl⟩ := List.mem_map.mp (List.mem_filter.mp hw).1
  exact h x hx

theorem lateWindow_quiet {c : Ctx} (h : QuietWindows c.windows) : lateWindow c = none := by
  unfold lateWindow
  rw [List.findSome?_eq_none_iff]
  intro w hw
  rw [(h w hw).1]; rfl

/-- Where no window has yet to fault, the fault taken is the one raised (R379). -/
theorem oldestFault_quiet {c : Ctx} (t : Trap) (h : QuietWindows c.windows) : oldestFault c t = (c, t) := by
  unfold oldestFault; rw [lateWindow_quiet h]

/-- Pending writes that are not of c.fpflags change scalar and vector registers only. -/
theorem applyWrites_regs (ws : List RegWrite) (h : ∀ x ∈ ws, written x ≠ .fpflags) (c : Ctx) :
    ∃ sr vr, applyWrites c ws = { c with sregs := sr, vregs := vr } := by
  induction ws generalizing c with
  | nil => exact ⟨_, _, rfl⟩
  | cons x ws ih =>
    have hws : ∀ y ∈ ws, written y ≠ .fpflags := fun y hy => h y (List.mem_cons_of_mem x hy)
    cases x with
    | s r v =>
      obtain ⟨sr, vr, e⟩ := ih hws (c.setS r v)
      refine ⟨sr, vr, e.trans ?_⟩
      unfold Ctx.setS; split <;> rfl
    | v r v =>
      obtain ⟨sr, vr, e⟩ := ih hws (c.setV r v)
      exact ⟨sr, vr, e⟩
    | fpflags b => exact absurd rfl (h _ List.mem_cons_self)

/-- The completion of quiet windows changes scalar and vector registers and the windows only. -/
theorem finishWindows_regs {c : Ctx} (h : QuietWindows c.windows) :
    ∃ sr vr ws, finishWindows c = { c with sregs := sr, vregs := vr, windows := ws } := by
  have hw : ∀ x ∈ (c.windows.map (·.writes)).flatten, written x ≠ .fpflags := by
    intro x hx
    obtain ⟨l, hl, hxl⟩ := List.mem_flatten.mp hx
    obtain ⟨w, hwin, rfl⟩ := List.mem_map.mp hl
    exact (h w hwin).2 x hxl
  obtain ⟨sr, vr, e⟩ := applyWrites_regs _ hw c
  exact ⟨sr, vr, _, by unfold finishWindows; rw [e]⟩

/-- Without windows there is nothing to complete. -/
theorem finishWindows_nil {c : Ctx} (h : c.windows = []) : finishWindows c = c := by
  obtain ⟨⟩ := c
  cases h
  rfl

/-! ## Taking a fault without a floating-point event -/

theorem applyMload_ctxs (s : State) (l : MLoad) : (applyMload s l).ctxs = s.ctxs := by
  unfold applyMload; dsimp only
  split
  all_goals (split; all_goals rfl)

theorem foldl_applyMload_ctxs (ls : List MLoad) (s : State) : (ls.foldl applyMload s).ctxs = s.ctxs := by
  induction ls generalizing s with
  | nil => rfl
  | cons l ls ih => exact (ih _).trans (applyMload_ctxs s l)

/-- Outstanding matrix operand loads of a core change no context. -/
theorem finishMloads_ctx (s : State) (core k : Nat) : (finishMloads s core).ctx k = s.ctx k :=
  congrArg (fun m : SMap Ctx => SMap.getD m k {}) (foldl_applyMload_ctxs _ _)

/-- The context that settles, when its completed instructions owe no event (R379, R389). -/
theorem settleCtx_ctx {s : State} {cid : Nat} (h : (finishWindows (s.ctx cid)).ev = 0) :
    (settleCtx s cid).ctx cid = finishWindows (s.ctx cid) := by
  have hc : ((finishMloads s (coreOf cid)).modCtx cid finishWindows).ctx cid = finishWindows (s.ctx cid) := by
    rw [State.modCtx_ctx_same, finishMloads_ctx]
  unfold settleCtx
  rw [parkIfEvent_none (by rw [hc]; exact h), hc]

theorem reportDead_ctx (s : State) (die k : Nat) : (reportDead s die).ctx k = s.ctx k := by
  unfold reportDead; split <;> rfl

/-- A core that freezes keeps everything but its frozen bit. -/
theorem freezeCore_core (s : State) (core : Nat) :
    (freezeCore s core).core core = { s.core core with frozen := true } := by
  unfold freezeCore
  rw [State.modCore_core_same]
  exact congrArg (fun m : SMap Core => { SMap.getD m core {} with frozen := true }) (foldl_modCtx_cores _ _ _)

/-- The context for which a core freezes. -/
theorem freezeWith_ctx (s : State) {cid : Nat} (t : Trap) (f : Ctx → Ctx) (h : cid ∈ ctxsOf (coreOf cid)) :
    (freezeWith s cid t f).ctx cid = freezeCtx (f (s.ctx cid)) := by
  unfold freezeWith
  rw [reportDead_ctx, freezeCore_ctx _ h, State.modCore_ctx, State.modCtx_ctx_same]
  rfl

/-- The core that freezes keeps its packet (R381). -/
theorem freezeWith_packet (s : State) (cid : Nat) (t : Trap) (f : Ctx → Ctx) :
    ((freezeWith s cid t f).core (coreOf cid)).packet = packetBits s cid t (faultPc (s.ctx cid)) := by
  unfold freezeWith
  rw [reportDead_core, freezeCore_core, State.modCore_core_same]

/-- A fault taken by a context with quiet windows and no event: it completes, and freezes with its core (R378, R379). -/
theorem takeFault_ctx {s : State} {cid : Nat} (t : Trap) (h : cid ∈ ctxsOf (coreOf cid))
    (hq : QuietWindows (s.ctx cid).windows) (he : (s.ctx cid).ev = 0) :
    (takeFault s cid t).ctx cid = freezeCtx (faultCtx (finishWindows (s.ctx cid))) := by
  obtain ⟨sr, vr, ws, hw⟩ := finishWindows_regs hq
  unfold takeFault
  rw [oldestFault_quiet t hq, freezeWith_ctx _ _ _ h, settleCtx_ctx (by rw [State.setCtx_ctx_same, hw]; exact he),
    State.setCtx_ctx_same]

/-- The packet of such a fault reports the fault raised, in some state, and the context's own slot (R381). -/
theorem takeFault_packet {s : State} {cid : Nat} (t : Trap) (hq : QuietWindows (s.ctx cid).windows)
    (he : (s.ctx cid).ev = 0) :
    ∃ u : State, ((takeFault s cid t).core (coreOf cid)).packet = packetBits u cid t (faultPc (finishWindows (s.ctx cid))) := by
  obtain ⟨sr, vr, ws, hw⟩ := finishWindows_regs hq
  refine ⟨settleCtx (s.setCtx cid (s.ctx cid)) cid, ?_⟩
  unfold takeFault
  rw [oldestFault_quiet t hq, freezeWith_packet, settleCtx_ctx (by rw [State.setCtx_ctx_same, hw]; exact he),
    State.setCtx_ctx_same]

/-! ## Resuming a core -/

/-- The resumption of one context: it returns to its state, and parks at once for an event that came meanwhile (R182, R388). -/
def resumeOne (s : State) (k : Nat) : State := parkIfEvent (s.modCtx k resumeCtx) k

theorem resumeCore_eq (s : State) (core : Nat) :
    resumeCore s core = (ctxsOf core).foldl resumeOne (s.modCore core fun c => { c with frozen := false }) := rfl

theorem resumeCtx_ev (c : Ctx) : (resumeCtx c).ev = c.ev := by unfold resumeCtx; split <;> rfl

/-- A context frozen out of ready is ready again where it stood (R182, R388). -/
theorem resumeCtx_of_ready {c : Ctx} (hst : c.st = .frozen) (hprev : c.prev = .ready) :
    (resumeCtx c).st = .ready ∧ (resumeCtx c).pc = c.pc ∧ (resumeCtx c).icount = c.icount := by
  unfold resumeCtx
  rw [hst, hprev]
  exact ⟨rfl, rfl, rfl⟩

theorem resumeOne_cores (s : State) (k : Nat) : (resumeOne s k).cores = s.cores := parkIfEvent_cores _ _

theorem resumeOne_ctx_other (s : State) {j k : Nat} (h : j ≠ k) : (resumeOne s k).ctx j = s.ctx j :=
  (parkIfEvent_ctx_other _ h).trans (State.modCtx_ctx_other _ h _)

theorem resumeOne_ctx_same {s : State} {k : Nat} (h : (s.ctx k).ev = 0) : (resumeOne s k).ctx k = resumeCtx (s.ctx k) := by
  have hc := State.modCtx_ctx_same s k resumeCtx
  unfold resumeOne
  rw [parkIfEvent_none (by rw [hc, resumeCtx_ev]; exact h), hc]

theorem foldl_resumeOne_cores (ks : List Nat) (s : State) : (ks.foldl resumeOne s).cores = s.cores := by
  induction ks generalizing s with
  | nil => rfl
  | cons k ks ih => exact (ih _).trans (resumeOne_cores s k)

theorem foldl_resumeOne_ctx_other (ks : List Nat) (s : State) {j : Nat} (h : j ∉ ks) :
    (ks.foldl resumeOne s).ctx j = s.ctx j := by
  induction ks generalizing s with
  | nil => rfl
  | cons k ks ih =>
    obtain ⟨hk, hks⟩ := not_or.mp (mt List.mem_cons.mpr h)
    exact (ih _ hks).trans (resumeOne_ctx_other s hk)

theorem foldl_resumeOne_ctx {ks : List Nat} (hn : ks.Nodup) {s : State} {j : Nat} (h : j ∈ ks) (he : (s.ctx j).ev = 0) :
    (ks.foldl resumeOne s).ctx j = resumeCtx (s.ctx j) := by
  induction ks generalizing s with
  | nil => cases h
  | cons k ks ih =>
    obtain ⟨hk, hks⟩ := List.nodup_cons.mp hn
    rcases List.mem_cons.mp h with rfl | h
    · exact (foldl_resumeOne_ctx_other ks _ hk).trans (resumeOne_ctx_same he)
    · have hj : (resumeOne s k).ctx j = s.ctx j := resumeOne_ctx_other s fun e => hk (e ▸ h)
      exact (ih hks h (by rw [hj]; exact he)).trans (congrArg resumeCtx hj)

/-- A resumed core is no longer frozen (R388). -/
theorem resumeCore_unfrozen (s : State) (core : Nat) : ((resumeCore s core).core core).frozen = false := by
  have hc : (resumeCore s core).core core = (s.modCore core fun c => { c with frozen := false }).core core :=
    congrArg (fun m : SMap Core => SMap.getD m core {}) (foldl_resumeOne_cores _ _)
  rw [hc, State.modCore_core_same]

/-- A context of a resumed core that owes no event returns to its state (R182, R388). -/
theorem resumeCore_ctx {s : State} {core cid : Nat} (h : cid ∈ ctxsOf core) (he : (s.ctx cid).ev = 0) :
    (resumeCore s core).ctx cid = resumeCtx (s.ctx cid) :=
  foldl_resumeOne_ctx (ctxsOf_nodup core) h he

/-! ## Contexts of the package -/

/-- What validCtx says in numbers (R13, R174). -/
theorem validCtx_bounds {cid : Nat} (h : validCtx cid = true) : dieOf cid < 12 ∧ ctxNo cid < 4 := by
  unfold validCtx at h
  simp only [Bool.and_eq_true, decide_eq_true_eq] at h
  exact h.1

/-- A context of the package is one of its core's four. -/
theorem validCtx_mem {cid : Nat} (h : validCtx cid = true) : cid ∈ ctxsOf (coreOf cid) := by
  have hno := (validCtx_bounds h).2
  simp only [ctxsOf, coreOf, ctxNo, List.mem_cons, List.not_mem_nil, or_false] at hno ⊢
  omega

/-! ## TRAP -/

/-- The fault that a TRAP takes once it has completed (R236). -/
def trapFault (s : State) (code : BitVec 16) : Trap := { code := 0x24, aux := code.toNat, srcPc := some s.me.pc }

/-- A TRAP that no bank operation holds back completes and takes its fault (R236, R379). -/
theorem exec_trap {s : State} (code : BitVec 16) (hb : awaitsBank s = false) :
    exec (.trap code) s = .next (takeFault (finish s) s.cur (trapFault s code)) := by
  show execTrap code s = _
  unfold execTrap trapFault
  rw [hb, if_neg Bool.false_ne_true]

/-- The current context at the end of an instruction, named by its number. -/
theorem finish_ctx_cur (s : State) : (finish s).ctx s.cur = (finish s).me := by rw [State.me, finish_cur]

section
variable {s : State} (hp : s.me.passing = false) (he : s.me.ev = 0) (hq : QuietWindows s.me.windows)
include hp he hq

/-- The completed instruction's windows are quiet too, and its context owes no event. -/
theorem finish_quiet : QuietWindows ((finish s).ctx s.cur).windows ∧ ((finish s).ctx s.cur).ev = 0 := by
  rw [finish_ctx_cur, finish_me he hp]
  exact ⟨quietWindows_tick hq, he⟩

/-- The context as its fault finds it after its instruction has completed: at the next slot, ready, one instruction further. -/
theorem finishWindows_finish : ∃ sr vr ws, finishWindows ((finish s).ctx s.cur) =
      { retireInstr s.me with pc := nextSlot s.me.pc, entry := .seq, sregs := sr, vregs := vr, windows := ws } ∧
    (s.me.windows = [] → sr = s.me.sregs ∧ vr = s.me.vregs) := by
  obtain ⟨sr, vr, ws, h⟩ := finishWindows_regs (finish_quiet hp he hq).1
  have hfin := (finish_ctx_cur s).trans (finish_me he hp)
  refine ⟨sr, vr, ws, by rw [h, hfin], fun hw => ?_⟩
  have hnil : ((finish s).ctx s.cur).windows = [] := by
    rw [hfin]; show tickWindows s.me.windows = []; rw [hw]; rfl
  have hsame := h.symm.trans ((finishWindows_nil hnil).trans hfin)
  exact ⟨congrArg Ctx.sregs hsame, congrArg Ctx.vregs hsame⟩

/-- The context after a fault that follows its completed instruction: frozen out of ready, at the next slot. -/
theorem takeFault_finish_ctx (hv : validCtx s.cur = true) (t : Trap) :
    let c := (takeFault (finish s) s.cur t).ctx s.cur
    c.st = .frozen ∧ c.prev = .ready ∧ c.pc = nextSlot s.me.pc ∧ c.icount = s.me.icount + 1#64 ∧ c.mid = .none ∧
      c.ev = 0 ∧ (s.me.windows = [] → c.sregs = s.me.sregs ∧ c.vregs = s.me.vregs) := by
  obtain ⟨hq', he'⟩ := finish_quiet hp he hq
  obtain ⟨sr, vr, ws, hc, hregs⟩ := finishWindows_finish hp he hq
  rw [takeFault_ctx t (validCtx_mem hv) hq' he', hc]
  exact ⟨rfl, rfl, rfl, rfl, rfl, he, hregs⟩

/-- The packet of a fault that follows a completed instruction gives the next slot as the resume address. -/
theorem takeFault_finish_packet (hv : validCtx s.cur = true) (t : Trap) :
    let p := ((takeFault (finish s) s.cur t).core (coreOf s.cur)).packet.toNat
    p % 2 ^ 8 = t.code % 2 ^ 8 ∧ p / 2 ^ 256 % 2 ^ 16 = t.aux % 2 ^ 16 ∧
      p / 2 ^ 64 % 2 ^ 48 = nextSlot s.me.pc % 2 ^ 48 := by
  obtain ⟨hq', he'⟩ := finish_quiet hp he hq
  obtain ⟨sr, vr, ws, hc, -⟩ := finishWindows_finish hp he hq
  obtain ⟨u, hu⟩ := takeFault_packet t hq' he'
  have hpc : faultPc (finishWindows ((finish s).ctx s.cur)) = nextSlot s.me.pc := by
    rw [hc]; unfold faultPc; rw [if_neg]; exact Bool.eq_false_iff.mp hp
  have hd : dieOf s.cur < 16 := Nat.lt_trans (validCtx_bounds hv).1 (by decide)
  rw [hu, hpc]
  exact ⟨packetBits_code u _ t _ hd, packetBits_aux u _ t _ hd, packetBits_pc u _ t _ hd⟩

/-- When its core resumes, that context is ready at the next slot, and its instruction stays counted (R236, R388). -/
theorem resumeCore_takeFault_finish (hv : validCtx s.cur = true) (t : Trap) :
    let c := (resumeCore (takeFault (finish s) s.cur t) (coreOf s.cur)).ctx s.cur
    c.st = .ready ∧ c.pc = nextSlot s.me.pc ∧ c.icount = s.me.icount + 1#64 := by
  obtain ⟨hst, hprev, hpc, hicount, -, hev, -⟩ := takeFault_finish_ctx hp he hq hv t
  obtain ⟨hrst, hrpc, hricount⟩ := resumeCtx_of_ready hst hprev
  rw [resumeCore_ctx (validCtx_mem hv) hev]
  exact ⟨hrst, hrpc.trans hpc, hricount.trans hicount⟩

end

end Sys2Proof.Machine

namespace Sys2Proof.Proofs
open Sys2Proof Sys2Proof.Machine Sys2Proof.Claims

/-- Settles O42: a TRAP is a fault that follows a completed instruction, with code 0x24 and its number in AUX. -/
theorem trapInstruction : Obligations.TrapInstruction := by
  refine ⟨?_, by decide⟩
  intro s code hv hp he hb hq core next
  obtain ⟨hst, -, hpc, hicount, hmid, -, hregs⟩ := takeFault_finish_ctx hp he hq hv (trapFault s code)
  obtain ⟨hcode, haux, hresume⟩ := takeFault_finish_packet hp he hq hv (trapFault s code)
  obtain ⟨hrst, hrpc, hricount⟩ := resumeCore_takeFault_finish hp he hq hv (trapFault s code)
  exact ⟨_, exec_trap code hb, by rw [takeFault_mem, finish_mem], takeFault_frozen _ _ _, hst, hpc, hicount, hmid, hregs, hcode,
    haux.trans (Nat.mod_eq_of_lt code.isLt), hresume, resumeCore_unfrozen _ _, hrst, hrpc, hricount⟩

end Sys2Proof.Proofs
end

section
/-! SUPPORT. The slots of LOOP, its target, its counter and its place in a pairing template (R199, R202, R207 to R209, R227). -/

namespace Sys2Proof

/-! ## The bytes of a slot -/

theorem natToBytes_length (n v : Nat) : (natToBytes n v).length = n := by
  induction n generalizing v with
  | zero => rfl
  | succ n ih => exact congrArg (· + 1) (ih _)

/-- Little-endian bytes hold the number that they were cut from (R4). -/
theorem bytesToNat_natToBytes (n v : Nat) : bytesToNat (natToBytes n v) = v % 256 ^ n := by
  induction n generalizing v with
  | zero => exact (Nat.mod_one v).symm
  | succ n ih =>
    show (BitVec.ofNat 8 v).toNat + 256 * bytesToNat (natToBytes n (v / 256)) = _
    rw [ih, BitVec.toNat_ofNat, Nat.pow_succ' (m := 256)]
    exact Nat.mod_mul.symm

/-- The twelve bytes of a slot decode as that slot, with nothing left (R199). -/
theorem decode_slotBytes (w : Slot) :
    decode (natToBytes 12 w.toNat) = (decodeSlot w).map fun i => (i, []) := by
  have hlen : (natToBytes 12 w.toNat).length = 12 := natToBytes_length 12 _
  have hw : BitVec.ofNat 96 (bytesToNat (natToBytes 12 w.toNat)) = w := by
    rw [bytesToNat_natToBytes, Nat.mod_eq_of_lt (show w.toNat < 256 ^ 12 from w.isLt), BitVec.ofNat_toNat, BitVec.setWidth_eq]
  unfold decode
  rw [if_neg (by rw [hlen]; decide), List.take_of_length_le (Nat.le_of_eq hlen), List.drop_of_length_le (Nat.le_of_eq hlen), hw]
  cases decodeSlot w <;> rfl

/-! ## Fields within fields -/

theorem extract_extract {n : Nat} (w : BitVec n) (i k j m : Nat) (h : j + m ≤ k) :
    (w.extractLsb' i k).extractLsb' j m = w.extractLsb' (i + j) m := by
  ext b hb
  simp only [BitVec.getElem_extractLsb', BitVec.getLsbD_extractLsb']
  rw [decide_eq_true (by omega), Bool.true_and, Nat.add_assoc]

/-- A field is zero when its upper and its lower parts are. -/
theorem extract_eq_zero_iff {n : Nat} (w : BitVec n) (i k m : Nat) :
    w.extractLsb' i (k + m) = 0#(k + m) ↔ w.extractLsb' (i + m) k = 0#k ∧ w.extractLsb' i m = 0#m := by
  constructor
  · intro h
    have hhi := extract_extract w i (k + m) m k (by omega)
    have hlo := extract_extract w i (k + m) 0 m (by omega)
    rw [h, BitVec.extractLsb'_zero] at hhi hlo
    exact ⟨hhi.symm, hlo.symm⟩
  · rintro ⟨hhi, hlo⟩
    rw [← BitVec.extractLsb'_append_extractLsb'_eq_extractLsb' (start₂ := i + m) rfl, hhi, hlo]
    exact BitVec.zero_append_zero

/-- The opcode map selects LOOP (R212). -/
theorem cand_loop {f : Fields} (hM : f.major = 0x22#8) (hm : f.minor = 0x01#8) : cand f = some (.loop f.src1 f.imm) := by
  simp only [cand, hM, BitVec.reduceEq, ↓reduceIte, cand22, hm]

/-- The fields that LOOP does not use (R227). -/
def Fields.restZero (f : Fields) : Prop :=
  (f.la = 0#4 ∧ f.ty = 0#4 ∧ f.dst = 0#6) ∧ f.src2 = 0#6 ∧ f.src3 = 0#6 ∧ f.mask = 0#3 ∧ f.z = 0#1 ∧ f.rnd = 0#3 ∧
    f.fzi = 0#1 ∧ f.fzo = 0#1 ∧ f.ext = 0#7

/-- The fields of a LOOP are those of its opcodes, counter and displacement exactly when the rest are zero. -/
theorem encodeFields_loop {f : Fields} (hM : f.major = 0x22#8) (hm : f.minor = 0x01#8) :
    encodeFields (.loop f.src1 f.imm) = some f ↔ f.restZero := by
  obtain ⟨major, minor, la, ty, dst, src1, src2, src3, mask, z, rnd, fzi, fzo, ext, imm⟩ := f
  obtain rfl : major = 0x22#8 := hM
  obtain rfl : minor = 0x01#8 := hm
  show some ({ major := 0x22#8, minor := 0x01#8, src1 := src1, imm := imm } : Fields) = _ ↔ _
  simp only [Fields.restZero, Option.some.injEq, Fields.mk.injEq, true_and, and_true, and_assoc,
    @eq_comm _ _ la, @eq_comm _ _ ty, @eq_comm _ _ dst, @eq_comm _ _ src2, @eq_comm _ _ src3, @eq_comm _ _ mask,
    @eq_comm _ _ z, @eq_comm _ _ rnd, @eq_comm _ _ fzi, @eq_comm _ _ fzo, @eq_comm _ _ ext]

/-- Those fields lie in the bits [79:66] and [59:32] of the slot (R208). -/
theorem restZero_unpack (w : Slot) :
    (Fields.unpack w).restZero ↔ w.extractLsb' 66 14 = 0#14 ∧ w.extractLsb' 32 28 = 0#28 := by
  rw [extract_eq_zero_iff w 66 4 10, extract_eq_zero_iff w 66 4 6, extract_eq_zero_iff w 32 6 22,
    extract_eq_zero_iff w 32 6 16, extract_eq_zero_iff w 32 3 13, extract_eq_zero_iff w 32 1 12, extract_eq_zero_iff w 32 3 9,
    extract_eq_zero_iff w 32 1 8, extract_eq_zero_iff w 32 1 7]
  rfl

section
variable {w : Slot} (h : w.extractLsb' 80 16 = 0x2201#16)
include h

/-- The opcodes of a slot of major 0x22, minor 0x01. -/
theorem unpack_loop_opcodes : (Fields.unpack w).major = 0x22#8 ∧ (Fields.unpack w).minor = 0x01#8 := by
  have hM := extract_extract w 80 16 8 8 (by decide)
  have hm := extract_extract w 80 16 0 8 (by decide)
  rw [h] at hM hm
  exact ⟨hM.symm.trans (by decide), hm.symm.trans (by decide)⟩

/-- Such a slot is a LOOP exactly when its other fields are zero (R207 check 3). -/
theorem decodeSlot_loop_ok (hz : (Fields.unpack w).restZero) :
    decodeSlot w = .ok (.loop (w.extractLsb' 60 6) (w.extractLsb' 0 32)) := by
  obtain ⟨hM, hm⟩ := unpack_loop_opcodes h
  unfold decodeSlot decodeFields
  rw [cand_loop hM hm]
  exact if_pos ⟨(encodeFields_loop hM hm).mpr hz, rfl⟩

theorem decodeSlot_loop_reserved (hz : ¬(Fields.unpack w).restZero) : decodeSlot w = .error .reservedField := by
  obtain ⟨hM, hm⟩ := unpack_loop_opcodes h
  unfold decodeSlot decodeFields
  rw [cand_loop hM hm]
  exact if_neg fun e => hz ((encodeFields_loop hM hm).mp e.1)

end

end Sys2Proof

namespace Sys2Proof.Machine
open Sys2Proof Sys2Proof.Claims

/-! ## The target of a relative branch -/

/-- The displacement of a relative branch, by the integer that it is (R209). -/
theorem sext32_sshiftRight (imm : BitVec 32) : sext32 (imm.sshiftRight 3) = BitVec.ofInt 64 (imm.toInt / 8) := by
  have hint : (sext32 (imm.sshiftRight 3)).toInt = imm.toInt / 8 := by
    unfold sext32
    rw [BitVec.toInt_signExtend_of_le (by decide), BitVec.toInt_sshiftRight, Int.shiftRight_eq_div_pow]
    rfl
  rw [← hint, BitVec.ofInt_toInt]

/-- The slot of a relative branch: the low three bits of its immediate (R209). -/
theorem toInt_emod_eight (imm : BitVec 32) : imm.toInt % 8 = (imm.toNat % 8 : Nat) := by
  rw [BitVec.toInt_eq_toNat_cond]
  split <;> omega

/-- The branch unit's target is the displaced line plus 12 bytes a slot, wrapped to 64 bits (R209). -/
theorem branchTarget_eq (pc : Nat) (imm : BitVec 32) : branchTarget pc imm = target pc imm := by
  have hline : pc - pc % 64 = pc / 64 * 64 := by omega
  have hslot : BitVec.ofInt 64 (12 * (imm.toNat % 8 : Nat)) = wd (12 * (imm.toNat % 8)) :=
    BitVec.ofInt_natCast 64 (12 * (imm.toNat % 8))
  have hsum : wd (pc - pc % 64) + 64#64 * sext32 (imm.sshiftRight 3) + wd (12 * (imm.toNat % 8)) =
      BitVec.ofInt 64 ((pc / 64 * 64 : Nat) + 64 * (imm.toInt / 8) + 12 * (imm.toInt % 8)) := by
    rw [hline, sext32_sshiftRight, toInt_emod_eight, BitVec.ofInt_add, BitVec.ofInt_add, BitVec.ofInt_mul,
      BitVec.ofInt_natCast, hslot]
    rfl
  unfold branchTarget target
  dsimp only
  rw [hsum, BitVec.toNat_ofInt]
  rfl

/-! ## LOOP -/

/-- LOOP on s0 traps (R227). -/
theorem exec_loop_zero (s : State) (imm : BitVec 32) : exec (.loop 0#6 imm) s = .next (stopNow s illegal) := rfl

/-- LOOP on another register counts down, and goes to its target unless it reaches zero (R227). -/
theorem exec_loop (s : State) {a : SReg} (imm : BitVec 32) (ha : a ≠ 0#6) :
    exec (.loop a imm) s = .next (if s.rs a - 1#64 = 0#64 then finish (s.setS a (s.rs a - 1#64))
      else finishTo (s.setS a (s.rs a - 1#64)) (target s.me.pc imm)) := by
  show execLoop a imm s = _
  unfold execLoop
  rw [if_neg ha, branchTarget_eq]
  dsimp only
  split
  · exact runJump_on _ _
  · exact runJump_go _ _ _

theorem nextSlot_eq (pc : Nat) : nextSlot pc = if pc % 64 = 48 then pc / 64 * 64 + 64 else pc + 12 := by
  unfold nextSlot
  split <;> omega

theorem finish_getS (s : State) (r : SReg) : (finish s).me.getS r = s.me.getS r := by
  unfold Ctx.getS; simp only [finish_sregs]

/-- A taken transfer changes no scalar register. -/
theorem finishTo_getS (s : State) (p : Nat) (r : SReg) : (finishTo s p).me.getS r = s.me.getS r := by
  have h : (finishTo s p).me.sregs = s.me.sregs := by rw [finishTo_me_eq]; split <;> rfl
  unfold Ctx.getS; simp only [h]

/-- A counter of n, less 1. -/
theorem ofNat_sub_one {n : Nat} (h0 : 0 < n) (h : n < 2 ^ 64) : BitVec.ofNat 64 n - 1#64 = BitVec.ofNat 64 (n - 1) := by
  bv_omega

/-! ## Pairing templates -/

/-- A slot of major 0x22 pairs with no neighbour, before it or behind it (R202). -/
theorem pairMajorsOk_loop {a b : Nat} (h : a = 0x22 ∨ b = 0x22) : pairMajorsOk a b = false := by
  unfold pairMajorsOk
  rcases h with rfl | rfl
  · simp only [Nat.reduceDiv, bne_self_eq_false, Bool.and_false, Bool.false_and]
  · simp only [Nat.reduceDiv, bne_self_eq_false, Nat.reduceBEq, Bool.or_self, Bool.and_false]

/-- A template that pairs a slot with one of a major that may not follow it is illegal. -/
theorem templateOk_false {bs : List Byte} {k : Nat} (hk : k < 4) (hbit : bit (lineWord bs) (8 + k) = true)
    (hp : pairMajorsOk (slotMajor (slotBits bs k)) (slotMajor (slotBits bs (k + 1))) = false) : templateOk bs = false := by
  unfold templateOk
  rw [List.all_eq_false]
  refine ⟨k, List.mem_range.mpr hk, ?_⟩
  rw [hbit, hp]
  exact Bool.false_ne_true

end Sys2Proof.Machine

namespace Sys2Proof.Proofs
open Sys2Proof Sys2Proof.Machine Sys2Proof.Claims

/-- The slots of LOOP (R207, R227). -/
theorem decode_loop (w : BitVec 96) (h : w.extractLsb' 80 16 = 0x2201#16) :
    (w.extractLsb' 66 14 = 0#14 → w.extractLsb' 32 28 = 0#28 →
      decode (natToBytes 12 w.toNat) = .ok (.loop (w.extractLsb' 60 6) (w.extractLsb' 0 32), [])) ∧
    (w.extractLsb' 66 14 ≠ 0#14 ∨ w.extractLsb' 32 28 ≠ 0#28 →
      decode (natToBytes 12 w.toNat) = .error .reservedField) := by
  rw [decode_slotBytes]
  constructor
  · intro hhi hlo
    rw [decodeSlot_loop_ok h ((restZero_unpack w).mpr ⟨hhi, hlo⟩)]
    rfl
  · intro hne
    have hz : ¬(Fields.unpack w).restZero := by
      intro hz
      obtain ⟨hhi, hlo⟩ := (restZero_unpack w).mp hz
      exact hne.elim (· hhi) (· hlo)
    rw [decodeSlot_loop_reserved h hz]
    rfl

/-- A counter of n from 1 to 2^64 - 1: the counter and the program counter after the LOOP (R227). -/
theorem loop_counts (s : State) {a : SReg} (imm : BitVec 32) (ha : a ≠ 0#6) {n : Nat} (h0 : 0 < n) (hn : n < 2 ^ 64)
    (hs : s.rs a = BitVec.ofNat 64 n) (he : s.me.ev = 0) (hp : s.me.passing = false) :
    ∃ t, Runs (.loop a imm) s t ∧ t.me.getS a = BitVec.ofNat 64 (n - 1) ∧
      t.me.pc = (if n = 1 then (if s.me.pc % 64 = 48 then s.me.pc / 64 * 64 + 64 else s.me.pc + 12)
        else target s.me.pc imm) := by
  refine ⟨_, exec_loop s imm ha, ?_⟩
  rw [hs, ofNat_sub_one h0 hn]
  have hget : (s.setS a (BitVec.ofNat 64 (n - 1))).me.getS a = BitVec.ofNat 64 (n - 1) := by
    rw [State.setS_me, Ctx.getS_setS, if_neg ha, if_pos rfl]
  have he' : (s.setS a (BitVec.ofNat 64 (n - 1))).me.ev = 0 := by rw [State.setS_me, Ctx.setS_ev, he]
  by_cases h1 : n = 1
  · have hp' : (s.setS a (BitVec.ofNat 64 (n - 1))).me.passing = false := by rw [State.setS_me, Ctx.setS_passing, hp]
    have hz : BitVec.ofNat 64 (n - 1) = 0#64 := by rw [h1]
    rw [if_pos hz, if_pos h1, finish_getS, finish_me he' hp', ← nextSlot_eq]
    exact ⟨hget, by rw [State.setS_me, Ctx.setS_pc]⟩
  · have hz : BitVec.ofNat 64 (n - 1) ≠ 0#64 := by bv_omega
    rw [if_neg hz, if_neg h1, finishTo_getS, finishTo_me he']
    exact ⟨hget, rfl⟩

/-- Settles O14: by the fields of the slot, by the counter's next value, and by the majors that may pair. -/
theorem loopInstruction : Obligations.LoopInstruction := by
  refine ⟨decode_loop, fun s a imm => ⟨?_, ?_, ?_, ?_, ?_⟩, fun bs k hk hbit h => templateOk_false hk hbit (pairMajorsOk_loop h)⟩
  · rintro rfl
    exact exec_loop_zero s imm
  · intro ha hne
    exact (exec_loop s imm ha).trans (by rw [if_neg hne])
  · intro ha hz
    exact (exec_loop s imm ha).trans (by rw [if_pos hz, hz])
  · intro ha hz
    exact (exec_loop s imm ha).trans (by rw [hz, if_neg (by decide)]; rfl)
  · intro ha n h0 hn hs he hp
    exact loop_counts s imm ha h0 hn hs he hp

end Sys2Proof.Proofs
end

section
/-! SUPPORT. The group that an instruction's operand names, GCTL as a sum of its fields, and RSTAT (R317, R318, R325). -/

namespace Sys2Proof.Machine
open Sys2Proof Sys2Proof.Claims

/-! ## The group that an operand names -/

theorem fld_eq (x lo w : Nat) : fld x lo w = x / 2 ^ lo % 2 ^ w := by
  unfold fld; rw [Nat.shiftRight_eq_div_pow]

/-- A number names an entry of a die when its entry, die and generation fields are that entry's, its other bits are zero and
the entry is allocated (R317). -/
theorem namedGroup_eq_some_iff {s : State} {die w e : Nat} (hw : w < 2 ^ 64) :
    namedGroup s die w = some e ↔ w % 2 ^ 6 = e ∧ w / 2 ^ 6 % 4 = 0 ∧ w / 2 ^ 8 % 16 = die ∧
      w / 2 ^ 12 % 16 = (groupAt s die e).gen ∧ w / 2 ^ 16 = 0 ∧ (groupAt s die e).en = true := by
  have hentry : fld w 0 6 = w % 2 ^ 6 := by rw [fld_eq, Nat.pow_zero, Nat.div_one]
  have hhigh : fld w 16 48 = w / 2 ^ 16 := by rw [fld_eq]; exact Nat.mod_eq_of_lt (by omega)
  unfold namedGroup
  simp only [hentry, hhigh, fld_eq, Option.ite_none_right_eq_some, Option.some.injEq]
  constructor
  · rintro ⟨⟨hz, hh, hd, hen, hg⟩, rfl⟩
    exact ⟨rfl, hz, hd, hg.symm, hh, hen⟩
  · rintro ⟨rfl, hz, hd, hg, hh, hen⟩
    exact ⟨⟨hz, hh, hd, hen, hg.symm⟩, rfl⟩

theorem groupOperand_of_named {s : State} {w : Word} {e : Nat} (h : namedGroup s (dieOf s.cur) w.toNat = some e) :
    groupOperand s w = .ok e := by
  unfold groupOperand; rw [h]

/-! ## GCTL -/

/-- STATE of GCTL: the phase of the head step, 0 for a group without steps (R318). -/
def headState (g : Group) : Nat :=
  match g.steps with
  | [] => 0
  | st :: _ => st.phase.code

/-- GCTL of an allocated group, as the sum of its fields (R318). -/
theorem gctlBits_of_en {g : Group} (h : g.en = true) : gctlBits g = 1 + headState g * 2 + g.gen * 2 ^ 4 + g.first * 2 ^ 8 +
    g.log2 * 2 ^ 19 + g.serial % 2 ^ 16 * 2 ^ 32 + g.steps.length * 2 ^ 48 := by
  unfold gctlBits
  simp only [Nat.shiftLeft_eq, h]
  rfl

/-! ## RSTAT -/

/-- The register of a group that a selector of RSTAT names (R325). -/
def statusWord (g : Group) : Nat → Word
  | 0 => wd (gctlBits g)
  | 1 => g.fail0
  | 2 => g.fail1
  | _ => g.fail2

section
variable {s : State} {g : SReg} {e : Nat} (hg : groupOperand s (s.rs g) = .ok e)
include hg

/-- RSTAT with a selector of R325 writes the register and completes. -/
theorem exec_rstat (d : SReg) {sel : BitVec 32} (h : sel.toNat ≤ 3) :
    Runs (.rstat d g sel) s (finish (s.setS d (statusWord (groupAt s (dieOf s.cur) e) sel.toNat))) := by
  show execRstat d g sel s = _
  unfold execRstat
  rw [hg, illegalIf, trapIf, decide_eq_false (Nat.not_lt.mpr h)]
  rfl

/-- RSTAT with another selector traps. -/
theorem exec_rstat_selector (d : SReg) {sel : BitVec 32} (h : 3 < sel.toNat) :
    Traps (.rstat d g sel) s { code := 0x12 } := by
  show execRstat d g sel s = _
  unfold execRstat
  rw [hg, illegalIf, trapIf, decide_eq_true h]
  rfl

end

end Sys2Proof.Machine

namespace Sys2Proof.Proofs
open Sys2Proof Sys2Proof.Machine Sys2Proof.Claims

/-- Settles O53: the operand names its group, and each selector has its register. -/
theorem rankStatus : Obligations.RankStatus := by
  intro s d g sel e die w x state hentry hzero hdie hgen hhigh hen
  have hname : namedGroup s die w = some e :=
    (namedGroup_eq_some_iff (s.rs g).isLt).mpr ⟨hentry, hzero, hdie, hgen, hhigh, hen⟩
  have hg : groupOperand s (s.rs g) = .ok e := groupOperand_of_named hname
  have hstate : headState x = state := by
    unfold headState
    cases hsteps : x.steps with
    | nil => simp only [state, hsteps]
    | cons st _ => cases hphase : st.phase <;> simp only [state, hsteps, hphase, StepPhase.code]
  refine ⟨?_, ?_, ?_, ?_, exec_rstat_selector hg d⟩
  · rintro rfl
    rw [← hstate, ← gctlBits_of_en hen]
    exact exec_rstat hg d (by decide)
  all_goals
    rintro rfl
    exact exec_rstat hg d (by decide)

end Sys2Proof.Proofs
end
